-- ==== Sys2Proof/Word.lean ====
section
/-! DEFINITION. The word types of the DW-48 and their plainest arithmetic. -/

namespace Sys2Proof

/-- One byte of storage (R10). -/
abbrev Byte := BitVec 8
/-- A bundle word, and any 32-bit lane (R10). -/
abbrev W32 := BitVec 32
/-- A scalar (R257). -/
abbrev W64 := BitVec 64
/-- A row of 1,024 bits (R11). -/
abbrev Row := BitVec 1024
/-- A five-bit field naming a scalar (R297). -/
abbrev R5 := BitVec 5
/-- A four-bit field naming a predicate (R297). -/
abbrev P4 := BitVec 4
/-- A three-bit field naming a branch target or an accumulator tile (R297). -/
abbrev B3 := BitVec 3
/-- A nine-bit field naming a row (R297). -/
abbrev R9 := BitVec 9

end Sys2Proof
end

