-- ==== Sys2Proof/Config.lean ====
section
/-! DEFINITION. What the spec leaves open: free values, which nothing in Lean can evaluate. -/

namespace Sys2Proof.Config

/-- Cycles until an action for which the spec gives no cycle comes about (R42, R216): the n-th such delay, minus 1. -/
opaque freeDelay : Nat → Nat
/-- Cycles, minus 1, that a request of a program takes to its endpoint: the place of the tile in its partition, the LCYC and the
slot of its issue, and which block of it (R9, R216). -/
opaque transit : Nat → Nat → Nat → Nat → Nat
/-- The save-area address the front end chooses at the n-th PCREATE (R165). -/
opaque saveArea : Nat → Nat
/-- The 32-byte digest a measurement takes of things whose bytes the spec does not give: kind, instance (R125, R126). -/
opaque digest : Nat → Nat → BitVec 256
/-- The private key of the device identity, fixed at manufacture (R126). -/
opaque deviceKey : Nat
/-- The nonce of a signature over a digest, at the n-th try (R131). -/
opaque sm2Nonce : BitVec 256 → Nat → Nat
/-- Byte k of the identity block the SMBus serves (R126). -/
opaque identityByte : Nat → BitVec 8
/-- The CODE that names the stitch boundary between two fields in an alignment-loss event (R103). -/
opaque boundaryCode : Nat → Nat → BitVec 32
/-- Whether an operation of a bulk class is one that the endpoint knows (R215): class, OP. -/
opaque knownOp : Nat → Nat → Bool
/-- How many corrected errors a tile detects at a place that reports them: GCYC, tile key (R80). -/
opaque corrected : Nat → Nat → Nat
/-- The integrity key of stabling that the n-th pass through ON makes (R176). -/
opaque stabKey : Nat → BitVec 256
/-- The length of a tile capability descriptor (R78). -/
opaque descLen : Nat
/-- A byte of a tile capability descriptor: what the tile has lost and lent, the offset (R78). -/
opaque descByte : Nat → Nat → BitVec 8
/-- The check bits of a 16-byte word, SECDED (R48). -/
opaque eccOf : BitVec 128 → BitVec 9
/-- Whether a UCIe module reaches 32 GT/s: pass through ON, module (R45). -/
opaque linkTrains : Nat → Nat → Bool
/-- Whether an HBM channel trains: pass through ON, channel key (R67). -/
opaque channelTrains : Nat → Nat → Bool
/-- Which owner of slots on a chiplet a flit position is reserved for: module, position, modules re-laid (R51). -/
opaque reservedFor : Nat → Nat → Nat → Nat
/-- How many beats of a class the far end of a UCIe module can hold (R47, R214). -/
opaque classDepth : Nat → Nat
/-- The offset of the first byte of host memory that cannot be read, if there is one, in a read at a cycle from an address
(R117). -/
opaque hostReadError : Nat → Nat → Option Nat
/-- The offset of the public key in the device identity block (R126). -/
opaque keyOffset : Nat
/-- The offset of the MAC addresses of the Ethernet ports in the device identity block (R59). -/
opaque macOffset : Nat
/-- The MAC address at which a module is reached through a port: module id, port (R60). -/
opaque peerMac : Nat → Nat → BitVec 48
/-- The revision in IDENT (R91). -/
opaque revision : BitVec 8
/-- A value the spec calls undefined or leaves unstated: the n-th such value. -/
opaque freeValue : Nat → BitVec 64

end Sys2Proof.Config
end

