-- ==== Sys2Proof/Syntax.lean ====
section
/-! DEFINITION. The syntax of the DW-48: one constructor of `Instr` for each row of the opcode table, an
instruction of a slot (R291 to R295) or an event of the part. -/

namespace Sys2Proof

/-- The format codes of R258, R233 and R235. -/
inductive Fmt where
  | raw | i8 | i16 | i32 | fp32 | bf16 | fp16 | e4m3 | e5m2 | e2m1 | d2 | scl | msk | vix
  deriving DecidableEq, Repr

/-- The rounding modes of R243. -/
inductive Rnd where
  | rne | rtz | rup | rdn | rna | rsr
  deriving DecidableEq, Repr

/-- The saturation field of R243. -/
inductive Sat where
  | none | fmt | int
  deriving DecidableEq, Repr

/-- The payload of a MOD prefix (R243). -/
structure Mod where
  ftz : Bool
  sat : Sat
  rnd : Rnd
  deriving DecidableEq, Repr

/-- The prefix of a slot (R281, R290). -/
inductive Prefix where
  | none
  | mod (m : Mod)
  | xtag (f : Fmt)
  deriving DecidableEq, Repr

/-- The guard of a slot: predicate and negation (R266). -/
structure Guard where
  p : P4
  n : Bool
  deriving DecidableEq, Repr

/-- The eight slots (R263). -/
inductive Slot where
  | sc | va | vb | mx | ld | st | cp | sy
  deriving DecidableEq, Repr

/-- The four sides: north, east, south, west, in the order of the arrival registers (R289, R366). -/
inductive Side where
  | n | e | s | w
  deriving DecidableEq, Repr

/-- DIV forms (R303). -/
inductive DivForm where
  | q | qu | r | ru
  deriving DecidableEq, Repr

/-- BIT forms (R302). -/
inductive BitForm where
  | clz | ctz | popc | brev
  deriving DecidableEq, Repr

/-- The tag a long MOVI writes (R304). -/
inductive MoviTag where
  | i32 | fp32 | raw
  deriving DecidableEq, Repr

/-- Integer relations of CMP and CMPI (R306). -/
inductive Rel where
  | eq | ne | lt | ge | le | gt | ltu | geu | leu | gtu | tst | tstz
  deriving DecidableEq, Repr

/-- PLOG operators (R307). -/
inductive PlogOp where
  | and | or | xor
  deriving DecidableEq, Repr

/-- FOP forms (R308). -/
inductive FopForm where
  | fadd | fsub | fmul | fmin | fmax
  deriving DecidableEq, Repr

/-- FMA forms (R308). -/
inductive FmaForm where
  | fma | fms | fnma
  deriving DecidableEq, Repr

/-- Floating relations of FCMP (R309). -/
inductive FRel where
  | eq | ne | lt | le | gt | ge | un | ord
  deriving DecidableEq, Repr

/-- FCVT forms (R310). -/
inductive CvtForm where
  | itof | utof | ftoi | ftou
  deriving DecidableEq, Repr

/-- The spaces of LTF and STF (R324); `frec` is for LTF alone. -/
inductive Space where
  | s | p | b | row | tag | sram | frec
  deriving DecidableEq, Repr

/-- Vector width (R264). -/
inductive VWidth where
  | w256 | w512 | w1024
  deriving DecidableEq, Repr

/-- Width and part of a row operand (R264). -/
structure VRange where
  w : VWidth
  part : BitVec 2
  deriving DecidableEq, Repr

/-- Lane masking (R267). -/
inductive Mask where
  | none
  | merge (vm : R9)
  | zero (vm : R9)
  deriving DecidableEq, Repr

/-- Range and mask of a vector instruction (R287). -/
structure VCtl where
  r : VRange
  m : Mask
  deriving DecidableEq, Repr

/-- VUN forms (R335). -/
inductive UnForm where
  | abs | neg | cpysgn
  deriving DecidableEq, Repr

/-- VSF forms (R336). -/
inductive SfForm where
  | rcp | rsq | sqrt | exp2 | log2 | sinpi | cospi | tanh | sigm | erf
  deriving DecidableEq, Repr

/-- VCMP relations (R337). -/
inductive VRel where
  | eq | ne | lt | le | gt | ge | un | ord | ltu | leu | gtu | geu
  deriving DecidableEq, Repr

/-- VSHR forms (R333). -/
inductive ShrForm where
  | l | a | ar
  deriving DecidableEq, Repr

/-- VIMUL forms (R332). -/
inductive MulForm where
  | lo | his | hiu | q
  deriving DecidableEq, Repr

/-- VIMM forms (R332). -/
inductive MmForm where
  | min | max | minu | maxu
  deriving DecidableEq, Repr

/-- Operators of VRED and VSCAN (R342). -/
inductive RedOp where
  | sum | max | min | maxi | mini
  deriving DecidableEq, Repr

/-- VSHUF forms (R344). -/
inductive ShufForm where
  | bitrev
  | ilv (hi : Bool)
  | dilv
  | rotl (r : BitVec 5)
  deriving DecidableEq, Repr

/-- VMSK forms (R351). -/
inductive MskForm where
  | count | first | popc
  deriving DecidableEq, Repr

/-- AMO forms but CAS (R388). -/
inductive AmoForm where
  | add | fadd | max | min | maxu | minu | and | or | xor | swap
  deriving DecidableEq, Repr

/-- Access sizes of the MS and GM classes: 1, 2, 4 or 8 bytes (R288, R385). -/
inductive Size where
  | b | h | w | d
  deriving DecidableEq, Repr

/-- Swizzle kinds (R188). -/
inductive Swz where
  | lin | xor | skew | brev
  deriving DecidableEq, Repr

/-- Sweep operators (R220). -/
inductive SweepOp where
  | fadd | fmul | fmax | fmin | maxi | mini | iadd | and | or | xor
  deriving DecidableEq, Repr

/-- Scope, acquire and release of an engine or remote command (R204). -/
structure Flags where
  scope : BitVec 6
  acq : Bool
  rel : Bool
  deriving DecidableEq, Repr

/-- The first word of a CPT follow-on: an MMA or MMAS word 1 (R365). -/
structure Follow where
  g : Guard
  scaled : Bool
  acc : B3
  nk : BitVec 8
  fa : Fmt
  fb : Fmt
  deriving DecidableEq, Repr

/-- Whose bundle stream a slot or a landing belongs to: a tile's task, a tile's firmware context
(R271), or control core `k` of yard chiplet `i` (R325). -/
inductive Who where
  | task (x y : Nat)
  | fw (x y : Nat)
  | core (i k : Nat)
  deriving DecidableEq, Repr

/-- Where a wake comes from (R97). -/
inductive WakeSrc where
  | host (port : Nat)
  | tile (part : Nat)
  | frame (modid : BitVec 16)
  deriving DecidableEq, Repr

/-- One bulk-network message at an endpoint (R215, R217). `hdr` is the 32-byte header, byte 0 lowest;
`part` and `gen` are the beat metadata of its first beat (R48); `beats` is how many beats arrived. -/
structure BulkMsg where
  hdr : BitVec 256
  part : BitVec 9
  gen : Byte
  beats : Nat
  deriving DecidableEq, Repr

/-- One UCIe flit of 256 bytes (R46): byte k in bits 8k+7:8k. -/
structure Flit where
  bits : BitVec 2048
  deriving DecidableEq, Repr

/-- A flit as it crosses a module (R45, R49): to the module's yard end or its wafer end, the flit as the far end sends it,
and the bits that arrive changed. -/
structure Crossing where
  yard : Bool
  flit : Flit
  noise : BitVec 2048
  deriving DecidableEq, Repr

/-- A replay on a module (R49): towards its yard end or its wafer end, from the flit after the last good one on. -/
structure ReplayFrom where
  yard : Bool
  lastGood : BitVec 12
  deriving DecidableEq, Repr

/-- The new level of PERST_N of a port (R41, R43). -/
structure PortPin where
  port : Nat
  low : Bool
  deriving DecidableEq, Repr

/-- One collective frame (R60): the MAC addresses, the 802.1Q tag if there is one, the EtherType, the 24-byte header in
network byte order, byte 0 most significant, the payload bytes and the FCS. -/
structure Frame where
  dst : BitVec 48
  src : BitVec 48
  tag : Option (BitVec 16)
  etype : BitVec 16
  hdr : BitVec 192
  payload : List Byte
  fcs : BitVec 32
  deriving DecidableEq, Repr

/-- What an uncorrectable error struck (R82, R83): a tile's parity-protected state, a reservation
on a disabled module (R52), a block of a partition's stabled launch (R179), the region table of a partition, the slot
table of a channel; or state with a poison bit: the 16-byte SRAM word that holds an address, a scalar, a row, a row of an
accumulator tile, a word on a link or in an arrival register, the data of a remote operation's beats, the 16-byte word of
device memory that holds an address. -/
inductive ErrSite where
  | tile (x y : Nat)
  | module (m : Nat)
  | loft (p block : Nat)
  | regionTable (p : Nat)
  | slotTable (slice ch : Nat)
  | sram (x y addr : Nat)
  | scalar (x y r : Nat)
  | fwScalar (x y r : Nat)
  | row (x y r : Nat)
  | acc (x y t r : Nat)
  | link (p n : Nat)
  | arrival (x y : Nat) (port : Side)
  | beat (x y id : Nat)
  | hbm (pa : Nat)
  | coreScalar (chiplet core r : Nat)
  deriving DecidableEq, Repr

/-- What an alignment lane delivers at a boundary (R85, R86): a marker, nothing, or an over- or under-run of its elastic
buffer. -/
inductive LaneMark where
  | value (v : BitVec 16)
  | missing
  | elastic
  deriving DecidableEq, Repr

/-- Why a thermal trip is taken (R44, R103). -/
inductive ThermWhy where
  | flow | temperature
  deriving DecidableEq, Repr

/-- One row of the opcode table each: the instructions of the slots, then the events of the part. -/
inductive Instr where
  -- SC slot (R292, R302 to R311)
  | nop (g : Guard)
  | add (g : Guard) (x : Option Fmt) (d a b : R5)
  | sub (g : Guard) (x : Option Fmt) (d a b : R5)
  | addi (g : Guard) (x : Option Fmt) (d a : R5) (imm : BitVec 9)
  | addiLong (g : Guard) (x : Option Fmt) (d a : R5) (imm : W32)
  | mul (g : Guard) (x : Option Fmt) (d a b : R5)
  | mulh (g : Guard) (x : Option Fmt) (u : Bool) (d a b : R5)
  | div (g : Guard) (x : Option Fmt) (f : DivForm) (d a b : R5)
  | and (g : Guard) (x : Option Fmt) (d a b : R5)
  | or (g : Guard) (x : Option Fmt) (d a b : R5)
  | xor (g : Guard) (x : Option Fmt) (d a b : R5)
  | andn (g : Guard) (x : Option Fmt) (d a b : R5)
  | shl (g : Guard) (x : Option Fmt) (d a b : R5)
  | shr (g : Guard) (x : Option Fmt) (d a b : R5)
  | sra (g : Guard) (x : Option Fmt) (d a b : R5)
  | rot (g : Guard) (x : Option Fmt) (right : Bool) (d a b : R5)
  | min (g : Guard) (x : Option Fmt) (u : Bool) (d a b : R5)
  | max (g : Guard) (x : Option Fmt) (u : Bool) (d a b : R5)
  | bit (g : Guard) (x : Option Fmt) (f : BitForm) (d a : R5)
  | ext (g : Guard) (x : Option Fmt) (d a : R5) (sx : Bool) (len pos : BitVec 6)
  | ins (g : Guard) (x : Option Fmt) (d a : R5) (len pos : BitVec 6)
  | sel (g : Guard) (d a b : R5)
  | mov (g : Guard) (d a : R5)
  | movi (g : Guard) (d : R5) (imm : BitVec 9)
  | moviLong (g : Guard) (t : MoviTag) (d : R5) (imm : W32)
  | moviWide (g : Guard) (raw : Bool) (d : R5) (imm : W64)
  | lea (g : Guard) (x : Option Fmt) (d : R5) (imm : BitVec 9)
  | leaLong (g : Guard) (x : Option Fmt) (d a : R5) (imm : W32)
  | cmp (g : Guard) (x : Option Fmt) (r : Rel) (pd : P4) (a b : R5)
  | cmpi (g : Guard) (x : Option Fmt) (lt : Bool) (pd : P4) (a : R5) (imm : BitVec 9)
  | cmpiLong (g : Guard) (x : Option Fmt) (r : Rel) (pd : P4) (a : R5) (imm : W32)
  | plog (g : Guard) (op : PlogOp) (pd : P4) (na : Bool) (pa : P4) (nb : Bool) (pb : P4)
  | fop (g : Guard) (x : Prefix) (f : FopForm) (d a b : R5)
  | fma (g : Guard) (x : Prefix) (f : FmaForm) (d a b : R5)
  | fcmp (g : Guard) (x : Prefix) (r : FRel) (pd : P4) (a b : R5)
  | fcvt (g : Guard) (x : Prefix) (f : CvtForm) (d a : R5)
  | rdc (g : Guard) (lcyc : Bool) (d : R5)
  | rdw (g : Guard) (d : R5) (level : BitVec 6)
  | rds (g : Guard) (d : R5) (num : W32)
  | wrs (g : Guard) (num : W32) (a : R5)
  -- SY slot (R293, R312 to R324)
  | pbr (g : Guard) (b : B3) (imm : BitVec 16)
  | pbrx (g : Guard) (b : B3) (a : R5)
  | br (g : Guard) (b : B3)
  | call (g : Guard) (b : B3)
  | ret (g : Guard) (b : B3)
  | brdec (g : Guard) (d : R5) (b : B3)
  | waitc (g : Guard) (a : R5)
  | waitcLong (g : Guard) (a : R5) (imm : W32)
  | waitn (g : Guard) (n : BitVec 9)
  | waitnLong (g : Guard) (n : W32)
  | bar (g : Guard) (a : R5) (level : BitVec 6) (off : BitVec 26)
  | chk (g : Guard) (a b : R5)
  | chkP (g : Guard) (pa pb : P4)
  | chkV (g : Guard) (v : R9)
  | chkB (g : Guard) (ba bb : B3)
  | drain (g : Guard) (level : BitVec 5) (n : BitVec 9)
  | drainLong (g : Guard) (a : R5) (level : BitVec 6) (off : BitVec 26)
  | endTask (g : Guard)
  | trap (g : Guard) (n : Byte)
  | sysc (g : Guard) (n : Byte)
  | align (g : Guard) (d : R5)
  | frz (g : Guard) (d : R5)
  | rfz (g : Guard) (kill : Bool) (d : R5)
  | ltf (g : Guard) (sp : Space) (d a : R5) (off : W32)
  | stf (g : Guard) (sp : Space) (d a : R5) (off : W32)
  -- VA and VB slots (R294, R326 to R351)
  | vadd (g : Guard) (x : Prefix) (v : VCtl) (vd va vb : R9)
  | vaddLit (g : Guard) (x : Prefix) (v : VCtl) (vd va : R9) (lit : W32)
  | vsub (g : Guard) (x : Prefix) (v : VCtl) (vd va vb : R9)
  | vsubLit (g : Guard) (x : Prefix) (v : VCtl) (vd va : R9) (lit : W32)
  | vmul (g : Guard) (x : Prefix) (v : VCtl) (vd va vb : R9)
  | vmulLit (g : Guard) (x : Prefix) (v : VCtl) (vd va : R9) (lit : W32)
  | vfma (g : Guard) (x : Prefix) (v : VCtl) (vd va vb : R9)
  | vfmaLit (g : Guard) (x : Prefix) (v : VCtl) (vd va : R9) (lit : W32)
  | vfms (g : Guard) (x : Prefix) (v : VCtl) (vd va vb : R9)
  | vfmsLit (g : Guard) (x : Prefix) (v : VCtl) (vd va : R9) (lit : W32)
  | vfnm (g : Guard) (x : Prefix) (v : VCtl) (vd va vb : R9)
  | vfnmLit (g : Guard) (x : Prefix) (v : VCtl) (vd va : R9) (lit : W32)
  | vmin (g : Guard) (x : Prefix) (v : VCtl) (vd va vb : R9)
  | vminLit (g : Guard) (x : Prefix) (v : VCtl) (vd va : R9) (lit : W32)
  | vmax (g : Guard) (x : Prefix) (v : VCtl) (vd va vb : R9)
  | vmaxLit (g : Guard) (x : Prefix) (v : VCtl) (vd va : R9) (lit : W32)
  | vun (g : Guard) (x : Option Fmt) (v : VCtl) (f : UnForm) (vd va vb : R9)
  | vsf (g : Guard) (x : Prefix) (v : VCtl) (f : SfForm) (vd va : R9)
  | vcmp (g : Guard) (x : Prefix) (v : VCtl) (r : VRel) (vd va vb : R9)
  | vcmpLit (g : Guard) (x : Prefix) (v : VCtl) (r : VRel) (vd va : R9) (lit : W32)
  | vsel (g : Guard) (x : Option Fmt) (r : VRange) (vd va vb vn : R9)
  | vand (g : Guard) (x : Option Fmt) (v : VCtl) (vd va vb : R9)
  | vandLit (g : Guard) (x : Option Fmt) (v : VCtl) (vd va : R9) (lit : W32)
  | vor (g : Guard) (x : Option Fmt) (v : VCtl) (vd va vb : R9)
  | vorLit (g : Guard) (x : Option Fmt) (v : VCtl) (vd va : R9) (lit : W32)
  | vxor (g : Guard) (x : Option Fmt) (v : VCtl) (vd va vb : R9)
  | vxorLit (g : Guard) (x : Option Fmt) (v : VCtl) (vd va : R9) (lit : W32)
  | vandn (g : Guard) (x : Option Fmt) (v : VCtl) (vd va vb : R9)
  | vandnLit (g : Guard) (x : Option Fmt) (v : VCtl) (vd va : R9) (lit : W32)
  | vshl (g : Guard) (x : Prefix) (v : VCtl) (vd va vb : R9)
  | vshlLit (g : Guard) (x : Prefix) (v : VCtl) (vd va : R9) (lit : W32)
  | vshr (g : Guard) (x : Prefix) (v : VCtl) (f : ShrForm) (vd va vb : R9)
  | vshrLit (g : Guard) (x : Prefix) (v : VCtl) (f : ShrForm) (vd va : R9) (lit : W32)
  | viadd (g : Guard) (x : Prefix) (v : VCtl) (sub : Bool) (vd va vb : R9)
  | viaddLit (g : Guard) (x : Prefix) (v : VCtl) (sub : Bool) (vd va : R9) (lit : W32)
  | vimul (g : Guard) (x : Prefix) (v : VCtl) (f : MulForm) (vd va vb : R9)
  | vimulLit (g : Guard) (x : Prefix) (v : VCtl) (f : MulForm) (vd va : R9) (lit : W32)
  | vimm (g : Guard) (x : Option Fmt) (v : VCtl) (f : MmForm) (vd va vb : R9)
  | vimmLit (g : Guard) (x : Option Fmt) (v : VCtl) (f : MmForm) (vd va : R9) (lit : W32)
  | vcvt (g : Guard) (x : Prefix) (v : VCtl) (t : Fmt) (p : B3) (vd va : R9)
  | vqnt (g : Guard) (x : Prefix) (v : VCtl) (t : Fmt) (p : B3) (soff : R9) (vd va : R9)
  | vdq (g : Guard) (x : Prefix) (v : VCtl) (t : Fmt) (p : B3) (soff : R9) (vd va : R9)
  | vred (g : Guard) (x : Prefix) (v : VCtl) (op : RedOp) (vd va : R9)
  | vscan (g : Guard) (x : Prefix) (v : VCtl) (op : RedOp) (ex : Bool) (vd va : R9)
  | vperm (g : Guard) (x : Option Fmt) (v : VCtl) (wrap : Bool) (vd va vb : R9)
  | vshuf (g : Guard) (x : Option Fmt) (v : VCtl) (f : ShufForm) (vd va vb : R9)
  | vbcL (g : Guard) (v : VCtl) (vd va : R9) (k : Byte)
  | vbcI (g : Guard) (v : VCtl) (t : Fmt) (vd : R9) (lit : W32)
  | vext (g : Guard) (x : Option Fmt) (r : VRange) (d : R5) (va : R9) (k : Byte)
  | vins (g : Guard) (x : Option Fmt) (r : VRange) (vd : R9) (a : R5) (k : Byte)
  | vmov (g : Guard) (v : VCtl) (vd va : R9)
  | viota (g : Guard) (v : VCtl) (t : Fmt) (vd : R9) (base : R9)
  | vcmul (g : Guard) (x : Prefix) (v : VCtl) (conj : Bool) (vd va vb : R9)
  | vbfly (g : Guard) (x : Prefix) (v : VCtl) (dif : Bool) (vd va vb : R9)
  | vcls (g : Guard) (x : Option Fmt) (v : VCtl) (cls : Bool) (vd va : R9)
  | vtag (g : Guard) (v : VCtl) (t : Fmt) (vd va : R9)
  | vmsk (g : Guard) (x : Option Fmt) (r : VRange) (f : MskForm) (d : R5) (va : R9)
  -- MX slot (R352 to R359)
  | mma (g : Guard) (z : Bool) (acc : B3) (nk : BitVec 8) (fa fb : Fmt)
  | mmas (g : Guard) (z : Bool) (acc : B3) (nk : BitVec 8) (fa fb : Fmt) (vsa vsb : R9)
  | mzero (g : Guard) (acc : B3) (fp : Bool) (row0 nr : R5)
  | amv (g : Guard) (m : Option Mod) (acc : B3) (t : Fmt) (vd : R9) (row0 nr : R5)
  | amvt (g : Guard) (m : Option Mod) (acc : B3) (t : Fmt) (vd : R9) (col0 nc : R5)
  | ald (g : Guard) (acc : B3) (fp : Bool) (vs : R9) (row0 nr : R5)
  | aadd (g : Guard) (acc : B3) (fp : Bool) (vs : R9) (row0 nr : R5)
  -- LD slot (R373 to R386)
  | ld (g : Guard) (r : VRange) (t : Fmt) (base : R5) (v : R9) (off : BitVec 23)
  | lds (g : Guard) (r : VRange) (t : Fmt) (base : R5) (v : R9) (off : BitVec 23)
  | ldt (g : Guard) (r : VRange) (t : Fmt) (base : R5) (v : R9) (stride : BitVec 23)
  | ldg (g : Guard) (d a b : R5) (dl : BitVec 16) (fl : Flags) (sz : Size)
  | ldw (g : Guard) (d a : R5) (sz : Size) (off : BitVec 6)
  | ldwLong (g : Guard) (d a : R5) (sz : Size) (off : W32)
  | ldws (g : Guard) (d a : R5) (sz : Size) (off : BitVec 6)
  | ldwsLong (g : Guard) (d a : R5) (sz : Size) (off : W32)
  | ldb (g : Guard) (d a : R5) (sz : Size) (off : BitVec 6)
  | ldbLong (g : Guard) (d a : R5) (sz : Size) (off : W32)
  | recv (g : Guard) (v : R9) (port : Side)
  -- ST slot (R373 to R390)
  | st (g : Guard) (r : VRange) (base : R5) (v : R9) (off : BitVec 23)
  | stt (g : Guard) (r : VRange) (t : Fmt) (base : R5) (v : R9) (off : BitVec 23)
  | sct (g : Guard) (r : VRange) (base : R5) (v : R9) (off : BitVec 23)
  | stw (g : Guard) (d a : R5) (sz : Size) (off : BitVec 6)
  | stwLong (g : Guard) (d a : R5) (sz : Size) (off : W32)
  | send (g : Guard) (v : R9) (dx : BitVec 9) (dy : Byte) (yx : Bool)
  | gst (g : Guard) (d a b : R5) (dl : BitVec 16) (fl : Flags) (sz : Size)
  | amo (g : Guard) (f : AmoForm) (d a b : R5) (dl : BitVec 16) (fl : Flags) (dbl : Bool)
  | amoCas (g : Guard) (d a b : R5) (dl : BitVec 16) (fl : Flags) (dbl : Bool) (cmp : W32)
  | wake (g : Guard) (a b : R5) (scope : BitVec 6) (rel : Bool)
  -- CP slot (R360 to R372)
  | cpy (g : Guard) (da sa : R5) (rows : Byte) (side : Bool) (kind : Swz)
  | cpz (g : Guard) (da : R5) (rows : Byte)
  | cpt (g : Guard) (b : Bool) (sa st : R5) (rows : BitVec 6) (side : Bool) (kind : Swz)
  | cptFollow (g : Guard) (b : Bool) (sa st : R5) (rows : BitVec 6) (side : Bool) (kind : Swz) (sc : R5) (f : Follow)
  | cpn (g : Guard) (dir : Side) (da sa : R5) (rows : Byte)
  | stg (g : Guard) (sa sb sc : R5) (fl : Flags) (dl : W32)
  | stp (g : Guard) (sa sb sc : R5) (fl : Flags) (dl : W32)
  | acp (g : Guard) (inn : Bool) (i32 : Bool) (acc : B3) (sa : R5) (row0 nr : R5)
  | cav (g : Guard) (op : SweepOp) (vd vs : R9) (scope : BitVec 6)
  | ard (g : Guard) (op : SweepOp) (vd vs : R9) (scope : BitVec 6)
  | scn (g : Guard) (ex : Bool) (op : SweepOp) (vd vs : R9) (scope : BitVec 6)
  | bcs (g : Guard) (vd vs : R9) (sr : R5) (scope : BitVec 6)
  | crdy (g : Guard) (a : R5) (scope : BitVec 6) (rel : Bool)
  -- events inside a tile and on the fabric
  | resultLanding (w : Who)
  | waitResume (w : Who)
  | barDeadline (x y : Nat)
  | drainDeadline (x y : Nat)
  | replyDelivery (x y : Nat)
  | deadlineCheck (x y : Nat)
  | fabricHop (x y : Nat) (dir : Side)
  | wordArrival (x y : Nat) (port : Side)
  | burstRowLanding (x y : Nat)
  | copyRow (x y ch : Nat)
  | troughPush (x y : Nat) (b : Bool)
  | troughPop (x y : Nat)
  | scaleRead (x y : Nat)
  | accRowFinal (x y : Nat)
  | followOnIssue (x y : Nat) (b : Bool)
  | sweepWord (x y : Nat)
  | sweepResult (x y : Nat)
  | stagingComplete (x y id : Nat)
  | sliceAccess (x y id : Nat)
  -- events of the bulk network, memory side and links
  | bulkMessage (m : BulkMsg)
  | hbmSlot (ctl ch : Nat)
  | flitReceive (m : Nat) (f : Crossing)
  | replay (m : Nat) (r : ReplayFrom)
  | parityFlit (m : Nat) (yard : Bool)
  | laneSwitch (m : Nat)
  | reservationRelay (chiplet : Nat)
  | collectiveDataFrame (port : Nat) (f : Frame)
  | ackFrame (port : Nat) (f : Frame)
  | wakeFrame (port : Nat) (f : Frame)
  | abortFrame (port : Nat) (f : Frame)
  | retransmitTimeout (key chunk hop : Nat)
  | seqFire (key part : Nat)
  | seqEntryEnd (key : Nat)
  -- events of errors, alignment and power
  | bucketDecay
  | uncorrectableError (e : ErrSite)
  | alignMarker (src dst : Nat) (mark : LaneMark)
  | fieldRealigned (f : Nat)
  | powerUpStandby
  | powerOff (vin flowOk : Bool)
  | thermalTrip (why : ThermWhy)
  | portReset (pin : PortPin)
  | smbusAccess (off : Nat)
  -- front end
  | entryTake (q : Nat)
  | dependenceRecheck (q : Nat)
  | launch (q idx : Nat)
  | wait (q idx : Nat)
  | signal (q idx : Nat)
  | signalWrite (q idx : Nat)
  | fence (q idx : Nat)
  | receipt (q idx : Nat)
  | receiptWrite (q idx : Nat)
  | scheduleCommit (p : Nat)
  | launchStart (p : Nat)
  | launchRetire (p : Nat)
  | preemptRequest (p : Nat)
  | watchdog (p : Nat)
  | freezeStop (p : Nat)
  | freezeCaptured (p : Nat)
  | trapRecordWrite (p : Nat)
  | resume (p : Nat)
  | stabling (p : Nat)
  | restore (p : Nat)
  | pllLockLoss (f : Nat)
  | firmwareContextRestart (w : Who) (pc : Nat)
  | frontEndServiceRequest (p : Nat)
  | sliceRemap (quadrant : Nat) (valid : Bool) (fslc : BitVec 5)
  | wakeWrite (src : WakeSrc) (q : Nat) (v : W32)
  -- host commands (R93)
  | pcreate (port : Nat)
  | pdestroy (port : Nat)
  | passign (port : Nat)
  | retire (port : Nat)
  | loan (port : Nat)
  | mpowerOn (port : Nat)
  | mpowerStandby (port : Nat)
  | moduleReady
  | ppowerActive (port : Nat)
  | ppowerIdle (port : Nat)
  | ppowerRetain (port : Nat)
  | ppowerDark (port : Nat)
  | powerTransitionDone (p : Nat)
  | qresume (port : Nat)
  | sqown (port : Nat)
  | sqownRelease (port : Nat)
  | unknownCmdop (port : Nat) (op : W64)
  -- host register events
  | ownsemAcquire (port : Nat)
  | ownsemRelease (port : Nat)
  | queueEnable (port q : Nat)
  | queueDisable (port q : Nat)
  | qportChange (port q : Nat)
  | evtailWrite (port : Nat) (v : W32)
  | evovfClear (port : Nat)
  | dropcntClear (port n : Nat)
  | tqackWrite (port p : Nat) (v : W64)
  | tqlostRead (port p : Nat)
  | mgrpWrite (port p : Nat) (v : W64)
  | hctlMode (slice ch : Nat) (mode : BitVec 2)
  | hctlRepapply (slice ch : Nat)
  | herrClear (slice ch : Nat)
  | hstatRead (slice ch : Nat)
  | ucieStatusRead (m : Nat)
  | susClear (x y : Nat)
  | registerWrite (port off n : Nat) (v : W64)
  | bar4Read (port : Nat) (addr : W64) (n : Nat)
  | bar4Write (port : Nat) (rid : BitVec 16) (addr : W64) (data : List Byte)
  | seqHostFire (port : Nat) (addr : W64)
  | slotTableWrite (slice ch : Nat) (table : List (BitVec 16))
  deriving DecidableEq, Repr

end Sys2Proof
end

