-- ==== Sys2Proof/WellFormed.lean ====
section
/-! DEFINITION. Which instructions are well formed: the field values that R285 to R290 and the
instructions' entries allow beyond what the types of `Instr` already say. -/

namespace Sys2Proof

/-- Element width of a format in bits (R236); RAW counts as 32 (R326) and MSK as 1. -/
def Fmt.width : Fmt → Nat
  | .raw | .i32 | .fp32 => 32
  | .i8 | .e4m3 | .e5m2 | .d2 | .scl => 8
  | .i16 | .bf16 | .fp16 => 16
  | .e2m1 => 4
  | .msk => 1
  | .vix => 64

/-- R264: the parts each width admits. -/
def VRange.legal (r : VRange) : Bool :=
  match r.w with
  | .w256 => true
  | .w512 => r.part.toNat < 2
  | .w1024 => r.part.toNat == 0

/-- R243: RSR is accepted by the vector slots alone. -/
def Mod.scalarLegal (m : Mod) : Bool := m.rnd != .rsr

/-- R243 of a prefix on an instruction outside VA and VB. -/
def Prefix.scalarLegal : Prefix → Bool
  | .mod m => m.scalarLegal
  | .none | .xtag _ => true

/-- R252: the legal operand pairs of MMA. -/
def legalPair (fa fb : Fmt) : Bool :=
  let free (f : Fmt) : Bool := f == .e4m3 || f == .e5m2 || f == .d2
  let self (f : Fmt) : Bool := f == .i8 || f == .bf16 || f == .fp16 || f == .e2m1
  (free fa && free fb) || (fa == fb && self fa)

/-- R354: the formats of MMAS. -/
def blockScaled (f : Fmt) : Bool := f == .e4m3 || f == .e5m2 || f == .d2 || f == .e2m1

/-- R252 and R354 of an MM word 1. -/
def mmPairLegal (scaled : Bool) (fa fb : Fmt) : Bool :=
  legalPair fa fb && (!scaled || blockScaled fa)

/-- R288: the accumulator rows of a port instruction end at row 31. -/
def rowsLegal (row0 nr : R5) : Bool := row0.toNat + nr.toNat + 1 ≤ 32

/-- R354: the targets of AMV and AMVT, their count of rows a multiple of q and at most 4q. -/
def amvLegal (t : Fmt) (row0 nr : R5) : Bool :=
  let q := 32 / t.width
  let n := nr.toNat + 1
  (t == .i8 || t == .i16 || t == .i32 || t == .fp32 || t == .bf16 || t == .fp16) &&
    rowsLegal row0 nr && n % q == 0 && n ≤ 4 * q

/-- The number is a power of two. -/
def isPow2 (n : Nat) : Bool := n != 0 && n &&& (n - 1) == 0

/-- R188: BREV takes a count that is a power of two. -/
def brevLegal (kind : Swz) (count1 : Nat) : Bool := kind != .brev || isPow2 (count1 + 1)

/-- R364: the swizzled side of CPT is the source. -/
def cptLegal (side : Bool) (kind : Swz) (rows : BitVec 6) : Bool :=
  (kind == .lin || side) && brevLegal kind rows.toNat

/-- The numbers of R275. -/
def specialListed (n : W32) : Bool :=
  match n.toNat with
  | 0x000 | 0x001 | 0x002 | 0x010 | 0x011 | 0x020 | 0x021 | 0x030 | 0x031 | 0x032
  | 0x040 | 0x041 | 0x042 | 0x050 | 0x051 | 0x052 | 0x053 | 0x054 | 0x055 | 0x056 | 0x057
  | 0x060 | 0x070 | 0x071 | 0x072 | 0x073 | 0x080 | 0x100 | 0x101 | 0x102 => true
  | _ => false

/-- R305: the field of EXT and INS lies inside 64 bits. -/
def fieldLegal (len pos : BitVec 6) : Bool := pos.toNat + len.toNat + 1 ≤ 64

/-- Well-formedness of an instruction: what its entry demands of its fields. Events carry none. -/
def Instr.wf : Instr → Bool
  | .ext _ _ _ _ _ len pos => fieldLegal len pos
  | .ins _ _ _ _ len pos => fieldLegal len pos
  | .fop _ x .. | .fma _ x .. | .fcmp _ x .. | .fcvt _ x .. => x.scalarLegal
  | .rds _ _ num => specialListed num
  | .stf _ sp .. => sp != .frec
  | .wrs _ num _ => specialListed num
  | .vadd _ _ v .. | .vaddLit _ _ v .. | .vsub _ _ v .. | .vsubLit _ _ v .. | .vmul _ _ v ..
  | .vmulLit _ _ v .. | .vfma _ _ v .. | .vfmaLit _ _ v .. | .vfms _ _ v .. | .vfmsLit _ _ v ..
  | .vfnm _ _ v .. | .vfnmLit _ _ v .. | .vmin _ _ v .. | .vminLit _ _ v .. | .vmax _ _ v ..
  | .vmaxLit _ _ v .. | .vsf _ _ v .. | .vcmp _ _ v .. | .vcmpLit _ _ v .. | .vand _ _ v ..
  | .vandLit _ _ v .. | .vor _ _ v .. | .vorLit _ _ v .. | .vxor _ _ v .. | .vxorLit _ _ v ..
  | .vandn _ _ v .. | .vandnLit _ _ v .. | .vshl _ _ v .. | .vshlLit _ _ v .. | .vshr _ _ v ..
  | .vshrLit _ _ v .. | .viadd _ _ v .. | .viaddLit _ _ v .. | .vimul _ _ v .. | .vimulLit _ _ v ..
  | .vimm _ _ v .. | .vimmLit _ _ v .. | .vred _ _ v .. | .vscan _ _ v .. | .vperm _ _ v ..
  | .vbcL _ v .. | .vbcI _ v .. | .vmov _ v .. | .vcmul _ _ v .. | .vbfly _ _ v .. | .vcls _ _ v ..
  | .vtag _ v .. => v.r.legal
  | .vun _ _ v f _ _ vb => v.r.legal && (f == .cpysgn || vb == 0)
  | .vshuf _ _ v f _ _ vb =>
    v.r.legal && (match f with | .ilv _ => true | _ => vb == 0)
  | .vsel _ _ r .. | .vext _ _ r .. | .vins _ _ r .. | .vmsk _ _ r .. => r.legal
  | .vcvt _ _ v t .. => v.r.legal && t != .raw && t != .msk && t != .vix
  | .vqnt _ _ v t _ soff .. => v.r.legal && blockScaled t && soff.toNat ≤ 124
  | .vdq _ _ v t _ soff .. =>
    v.r.legal && (t == .fp32 || t == .bf16 || t == .fp16) && soff.toNat ≤ 124
  | .viota _ v t .. =>
    v.r.legal && (t == .i8 || t == .i16 || t == .i32 || t == .fp32 || t == .bf16 || t == .fp16)
  | .mma _ _ _ _ fa fb => mmPairLegal false fa fb
  | .mmas _ _ _ _ fa fb _ _ => mmPairLegal true fa fb
  | .mzero _ _ _ row0 nr => rowsLegal row0 nr
  | .amv _ m _ t _ row0 nr | .amvt _ m _ t _ row0 nr =>
    (match m with | some m => m.scalarLegal | .none => true) && amvLegal t row0 nr
  | .ald _ _ _ _ row0 nr | .aadd _ _ _ _ row0 nr => rowsLegal row0 nr
  | .ld _ r .. | .lds _ r .. | .st _ r .. | .stt _ r .. | .sct _ r .. => r.legal
  | .ldt _ r t .. => r.legal && (t == .i16 || t == .bf16 || t == .fp16 || t == .i32 || t == .fp32 || t == .vix)
  | .ldg _ _ _ _ dl .. => 6 ≤ dl.toNat
  | .send _ _ dx dy _ => !(dx == 0 && dy == 0)
  | .gst _ _ _ _ dl .. => 1 ≤ dl.toNat
  | .amo _ f _ _ _ dl _ dbl => 6 ≤ dl.toNat && !(f == .fadd && dbl)
  | .amoCas _ _ _ _ dl .. => 6 ≤ dl.toNat
  | .cpy _ _ _ rows _ kind => brevLegal kind rows.toNat
  | .cpt _ _ _ _ rows side kind => cptLegal side kind rows
  | .cptFollow _ _ _ _ rows side kind _ f => cptLegal side kind rows && mmPairLegal f.scaled f.fa f.fb
  | .acp _ inn i32 _ _ row0 nr => rowsLegal row0 nr && (inn || !i32)
  | _ => true

end Sys2Proof
end

