-- ==== Sys2Proof/Decode.lean ====
section
/-! DEFINITION. Decoding of bundles and slots (R278 to R295), rejecting by cause and subcode, and the encoder
written from the same tables. -/

namespace Sys2Proof

namespace Dec

/-- Which stream a bundle belongs to: it decides steps 2 and 8 of R283 (R271, R273, R325). -/
inductive Stream where
  | task | fw | core
  deriving DecidableEq, Repr

/-! ## Words of the classes (R285 to R290) -/

/-- R285: the common head of a first word. -/
def head (l : BitVec 2) (op : BitVec 6) (g : Guard) (b : BitVec 19) : W32 :=
  l ++ op ++ g.p ++ BitVec.ofBool g.n ++ b

/-- R280: the length code, bits 31:30. -/
def lenOf (w : W32) : BitVec 2 := w.extractLsb' 30 2
/-- R285: the opcode, bits 29:24. -/
def opOf (w : W32) : BitVec 6 := w.extractLsb' 24 6
/-- R285: the guard, bits 23:19. -/
def guardOf (w : W32) : Guard := ⟨w.extractLsb' 20 4, w.extractLsb' 19 1 == 1⟩
/-- R285: bits 18:0, which belong to the class. -/
def bodyOf (w : W32) : BitVec 19 := w.extractLsb' 0 19

/-- R286: SA word 1; R289: EC and GM word 1. -/
def sa3 (a : BitVec 5) (b : BitVec 5) (c : BitVec 5) (fn : BitVec 4) : BitVec 19 := a ++ b ++ c ++ fn
def sa3_a (x : BitVec 19) : BitVec 5 := x.extractLsb' 14 5
def sa3_b (x : BitVec 19) : BitVec 5 := x.extractLsb' 9 5
def sa3_c (x : BitVec 19) : BitVec 5 := x.extractLsb' 4 5
def sa3_fn (x : BitVec 19) : BitVec 4 := x.extractLsb' 0 4
/-- R286: SI word 1. -/
def si (d : BitVec 5) (a : BitVec 5) (imm : BitVec 9) : BitVec 19 := d ++ a ++ imm
def si_d (x : BitVec 19) : BitVec 5 := x.extractLsb' 14 5
def si_a (x : BitVec 19) : BitVec 5 := x.extractLsb' 9 5
def si_imm (x : BitVec 19) : BitVec 9 := x.extractLsb' 0 9
/-- R306, R309: a compare; bit 18 and the predicate. -/
def cmpW (top : BitVec 1) (pd : BitVec 4) (a : BitVec 5) (b : BitVec 5) (fn : BitVec 4) : BitVec 19 := top ++ pd ++ a ++ b ++ fn
def cmpW_top (x : BitVec 19) : BitVec 1 := x.extractLsb' 18 1
def cmpW_pd (x : BitVec 19) : BitVec 4 := x.extractLsb' 14 4
def cmpW_a (x : BitVec 19) : BitVec 5 := x.extractLsb' 9 5
def cmpW_b (x : BitVec 19) : BitVec 5 := x.extractLsb' 4 5
def cmpW_fn (x : BitVec 19) : BitVec 4 := x.extractLsb' 0 4
/-- R306: CMPI in its SI form. -/
def cmpiW (top : BitVec 1) (pd : BitVec 4) (a : BitVec 5) (imm : BitVec 9) : BitVec 19 := top ++ pd ++ a ++ imm
def cmpiW_top (x : BitVec 19) : BitVec 1 := x.extractLsb' 18 1
def cmpiW_pd (x : BitVec 19) : BitVec 4 := x.extractLsb' 14 4
def cmpiW_a (x : BitVec 19) : BitVec 5 := x.extractLsb' 9 5
def cmpiW_imm (x : BitVec 19) : BitVec 9 := x.extractLsb' 0 9
/-- R307: PLOG. -/
def plogW (top : BitVec 1) (pd : BitVec 4) (na : BitVec 1) (pa : BitVec 4) (nb : BitVec 1) (pb : BitVec 4) (fn : BitVec 4) : BitVec 19 := top ++ pd ++ na ++ pa ++ nb ++ pb ++ fn
def plogW_top (x : BitVec 19) : BitVec 1 := x.extractLsb' 18 1
def plogW_pd (x : BitVec 19) : BitVec 4 := x.extractLsb' 14 4
def plogW_na (x : BitVec 19) : BitVec 1 := x.extractLsb' 13 1
def plogW_pa (x : BitVec 19) : BitVec 4 := x.extractLsb' 9 4
def plogW_nb (x : BitVec 19) : BitVec 1 := x.extractLsb' 8 1
def plogW_pb (x : BitVec 19) : BitVec 4 := x.extractLsb' 4 4
def plogW_fn (x : BitVec 19) : BitVec 4 := x.extractLsb' 0 4
/-- R286: BT word 1. -/
def bt (b : BitVec 3) (imm : BitVec 16) : BitVec 19 := b ++ imm
def bt_b (x : BitVec 19) : BitVec 3 := x.extractLsb' 16 3
def bt_imm (x : BitVec 19) : BitVec 16 := x.extractLsb' 0 16
/-- R313: PBRX. -/
def pbrxW (z : BitVec 2) (b : BitVec 3) (a : BitVec 5) (sb : BitVec 5) (fn : BitVec 4) : BitVec 19 := z ++ b ++ a ++ sb ++ fn
def pbrxW_z (x : BitVec 19) : BitVec 2 := x.extractLsb' 17 2
def pbrxW_b (x : BitVec 19) : BitVec 3 := x.extractLsb' 14 3
def pbrxW_a (x : BitVec 19) : BitVec 5 := x.extractLsb' 9 5
def pbrxW_sb (x : BitVec 19) : BitVec 5 := x.extractLsb' 4 5
def pbrxW_fn (x : BitVec 19) : BitVec 4 := x.extractLsb' 0 4
/-- R315: BRDEC. -/
def brdecW (d : BitVec 5) (z : BitVec 2) (b : BitVec 3) (sb : BitVec 5) (fn : BitVec 4) : BitVec 19 := d ++ z ++ b ++ sb ++ fn
def brdecW_d (x : BitVec 19) : BitVec 5 := x.extractLsb' 14 5
def brdecW_z (x : BitVec 19) : BitVec 2 := x.extractLsb' 12 2
def brdecW_b (x : BitVec 19) : BitVec 3 := x.extractLsb' 9 3
def brdecW_sb (x : BitVec 19) : BitVec 5 := x.extractLsb' 4 5
def brdecW_fn (x : BitVec 19) : BitVec 4 := x.extractLsb' 0 4
/-- R320: CHK.P. -/
def chkPW (d : BitVec 5) (z : BitVec 1) (pa : BitVec 4) (y : BitVec 1) (pb : BitVec 4) (fn : BitVec 4) : BitVec 19 := d ++ z ++ pa ++ y ++ pb ++ fn
def chkPW_d (x : BitVec 19) : BitVec 5 := x.extractLsb' 14 5
def chkPW_z (x : BitVec 19) : BitVec 1 := x.extractLsb' 13 1
def chkPW_pa (x : BitVec 19) : BitVec 4 := x.extractLsb' 9 4
def chkPW_y (x : BitVec 19) : BitVec 1 := x.extractLsb' 8 1
def chkPW_pb (x : BitVec 19) : BitVec 4 := x.extractLsb' 4 4
def chkPW_fn (x : BitVec 19) : BitVec 4 := x.extractLsb' 0 4
/-- R320: CHK.V; the row number stands in two fields. -/
def chkVW (hi : BitVec 5) (z : BitVec 1) (lo : BitVec 4) (b : BitVec 5) (fn : BitVec 4) : BitVec 19 := hi ++ z ++ lo ++ b ++ fn
def chkVW_hi (x : BitVec 19) : BitVec 5 := x.extractLsb' 14 5
def chkVW_z (x : BitVec 19) : BitVec 1 := x.extractLsb' 13 1
def chkVW_lo (x : BitVec 19) : BitVec 4 := x.extractLsb' 9 4
def chkVW_b (x : BitVec 19) : BitVec 5 := x.extractLsb' 4 5
def chkVW_fn (x : BitVec 19) : BitVec 4 := x.extractLsb' 0 4
/-- R320: CHK.B. -/
def chkBW (d : BitVec 5) (z : BitVec 2) (ba : BitVec 3) (y : BitVec 2) (bb : BitVec 3) (fn : BitVec 4) : BitVec 19 := d ++ z ++ ba ++ y ++ bb ++ fn
def chkBW_d (x : BitVec 19) : BitVec 5 := x.extractLsb' 14 5
def chkBW_z (x : BitVec 19) : BitVec 2 := x.extractLsb' 12 2
def chkBW_ba (x : BitVec 19) : BitVec 3 := x.extractLsb' 9 3
def chkBW_y (x : BitVec 19) : BitVec 2 := x.extractLsb' 7 2
def chkBW_bb (x : BitVec 19) : BitVec 3 := x.extractLsb' 4 3
def chkBW_fn (x : BitVec 19) : BitVec 4 := x.extractLsb' 0 4
/-- R322: TRAP and SYSC. -/
def imm8 (z : BitVec 11) (n : BitVec 8) : BitVec 19 := z ++ n
def imm8_z (x : BitVec 19) : BitVec 11 := x.extractLsb' 8 11
def imm8_n (x : BitVec 19) : BitVec 8 := x.extractLsb' 0 8
/-- R311: RDW. -/
def rdwW (d : BitVec 5) (a : BitVec 5) (z : BitVec 3) (level : BitVec 6) : BitVec 19 := d ++ a ++ z ++ level
def rdwW_d (x : BitVec 19) : BitVec 5 := x.extractLsb' 14 5
def rdwW_a (x : BitVec 19) : BitVec 5 := x.extractLsb' 9 5
def rdwW_z (x : BitVec 19) : BitVec 3 := x.extractLsb' 6 3
def rdwW_level (x : BitVec 19) : BitVec 6 := x.extractLsb' 0 6
/-- R287: VA word 1. -/
def va1 (w : BitVec 2) (part : BitVec 2) (fn : BitVec 4) (mm : BitVec 2) (vm : BitVec 9) : BitVec 19 := w ++ part ++ fn ++ mm ++ vm
def va1_w (x : BitVec 19) : BitVec 2 := x.extractLsb' 17 2
def va1_part (x : BitVec 19) : BitVec 2 := x.extractLsb' 15 2
def va1_fn (x : BitVec 19) : BitVec 4 := x.extractLsb' 11 4
def va1_mm (x : BitVec 19) : BitVec 2 := x.extractLsb' 9 2
def va1_vm (x : BitVec 19) : BitVec 9 := x.extractLsb' 0 9
/-- R288: MM word 1. -/
def mm1 (acc : BitVec 3) (nk : BitVec 8) (fa : BitVec 4) (fb : BitVec 4) : BitVec 19 := acc ++ nk ++ fa ++ fb
def mm1_acc (x : BitVec 19) : BitVec 3 := x.extractLsb' 16 3
def mm1_nk (x : BitVec 19) : BitVec 8 := x.extractLsb' 8 8
def mm1_fa (x : BitVec 19) : BitVec 4 := x.extractLsb' 4 4
def mm1_fb (x : BitVec 19) : BitVec 4 := x.extractLsb' 0 4
/-- R288: MR word 1. -/
def mr1 (w : BitVec 2) (part : BitVec 2) (tag : BitVec 4) (base : BitVec 5) (fn : BitVec 6) : BitVec 19 := w ++ part ++ tag ++ base ++ fn
def mr1_w (x : BitVec 19) : BitVec 2 := x.extractLsb' 17 2
def mr1_part (x : BitVec 19) : BitVec 2 := x.extractLsb' 15 2
def mr1_tag (x : BitVec 19) : BitVec 4 := x.extractLsb' 11 4
def mr1_base (x : BitVec 19) : BitVec 5 := x.extractLsb' 6 5
def mr1_fn (x : BitVec 19) : BitVec 6 := x.extractLsb' 0 6
/-- R288: MS word 1. -/
def ms1 (d : BitVec 5) (a : BitVec 5) (size : BitVec 3) (off : BitVec 6) : BitVec 19 := d ++ a ++ size ++ off
def ms1_d (x : BitVec 19) : BitVec 5 := x.extractLsb' 14 5
def ms1_a (x : BitVec 19) : BitVec 5 := x.extractLsb' 9 5
def ms1_size (x : BitVec 19) : BitVec 3 := x.extractLsb' 6 3
def ms1_off (x : BitVec 19) : BitVec 6 := x.extractLsb' 0 6
/-- R289: FB word 1. -/
def fb1 (v : BitVec 9) (port : BitVec 2) (fn : BitVec 8) : BitVec 19 := v ++ port ++ fn
def fb1_v (x : BitVec 19) : BitVec 9 := x.extractLsb' 10 9
def fb1_port (x : BitVec 19) : BitVec 2 := x.extractLsb' 8 2
def fb1_fn (x : BitVec 19) : BitVec 8 := x.extractLsb' 0 8
/-- R370: word 1 of a sweep. -/
def sw1 (vd : BitVec 9) (z : BitVec 1) (sr : BitVec 5) (fn : BitVec 4) : BitVec 19 := vd ++ z ++ sr ++ fn
def sw1_vd (x : BitVec 19) : BitVec 9 := x.extractLsb' 10 9
def sw1_z (x : BitVec 19) : BitVec 1 := x.extractLsb' 9 1
def sw1_sr (x : BitVec 19) : BitVec 5 := x.extractLsb' 4 5
def sw1_fn (x : BitVec 19) : BitVec 4 := x.extractLsb' 0 4
/-- R305: imm32 of EXT and INS. -/
def fld (z : BitVec 19) (sx : BitVec 1) (len : BitVec 6) (pos : BitVec 6) : BitVec 32 := z ++ sx ++ len ++ pos
def fld_z (x : BitVec 32) : BitVec 19 := x.extractLsb' 13 19
def fld_sx (x : BitVec 32) : BitVec 1 := x.extractLsb' 12 1
def fld_len (x : BitVec 32) : BitVec 6 := x.extractLsb' 6 6
def fld_pos (x : BitVec 32) : BitVec 6 := x.extractLsb' 0 6
/-- R317: imm32 of BAR and DRAIN. -/
def lvl (level : BitVec 6) (off : BitVec 26) : BitVec 32 := level ++ off
def lvl_level (x : BitVec 32) : BitVec 6 := x.extractLsb' 26 6
def lvl_off (x : BitVec 32) : BitVec 26 := x.extractLsb' 0 26
/-- R287: VA word 2. -/
def va2 (vd : BitVec 9) (va : BitVec 9) (vb : BitVec 9) (x5 : BitVec 5) : BitVec 32 := vd ++ va ++ vb ++ x5
def va2_vd (x : BitVec 32) : BitVec 9 := x.extractLsb' 23 9
def va2_va (x : BitVec 32) : BitVec 9 := x.extractLsb' 14 9
def va2_vb (x : BitVec 32) : BitVec 9 := x.extractLsb' 5 9
def va2_x5 (x : BitVec 32) : BitVec 5 := x.extractLsb' 0 5
/-- R288: MM word 2. -/
def mm2 (va : BitVec 9) (vb : BitVec 9) (row0 : BitVec 5) (nr : BitVec 5) (fn : BitVec 4) : BitVec 32 := va ++ vb ++ row0 ++ nr ++ fn
def mm2_va (x : BitVec 32) : BitVec 9 := x.extractLsb' 23 9
def mm2_vb (x : BitVec 32) : BitVec 9 := x.extractLsb' 14 9
def mm2_row0 (x : BitVec 32) : BitVec 5 := x.extractLsb' 9 5
def mm2_nr (x : BitVec 32) : BitVec 5 := x.extractLsb' 4 5
def mm2_fn (x : BitVec 32) : BitVec 4 := x.extractLsb' 0 4
/-- R288: MR word 2. -/
def mr2 (v : BitVec 9) (off : BitVec 23) : BitVec 32 := v ++ off
def mr2_v (x : BitVec 32) : BitVec 9 := x.extractLsb' 23 9
def mr2_off (x : BitVec 32) : BitVec 23 := x.extractLsb' 0 23
/-- R289: FB word 2. -/
def fb2 (dx : BitVec 9) (dy : BitVec 8) (yx : BitVec 1) (z : BitVec 14) : BitVec 32 := dx ++ dy ++ yx ++ z
def fb2_dx (x : BitVec 32) : BitVec 9 := x.extractLsb' 23 9
def fb2_dy (x : BitVec 32) : BitVec 8 := x.extractLsb' 15 8
def fb2_yx (x : BitVec 32) : BitVec 1 := x.extractLsb' 14 1
def fb2_z (x : BitVec 32) : BitVec 14 := x.extractLsb' 0 14
/-- R289: GM word 2. -/
def gm2 (dl : BitVec 16) (scope : BitVec 6) (acq : BitVec 1) (rel : BitVec 1) (size : BitVec 8) : BitVec 32 := dl ++ scope ++ acq ++ rel ++ size
def gm2_dl (x : BitVec 32) : BitVec 16 := x.extractLsb' 16 16
def gm2_scope (x : BitVec 32) : BitVec 6 := x.extractLsb' 10 6
def gm2_acq (x : BitVec 32) : BitVec 1 := x.extractLsb' 9 1
def gm2_rel (x : BitVec 32) : BitVec 1 := x.extractLsb' 8 1
def gm2_size (x : BitVec 32) : BitVec 8 := x.extractLsb' 0 8
/-- R289: EC word 2. -/
def ec2 (scope : BitVec 6) (acq : BitVec 1) (rel : BitVec 1) (cnt : BitVec 8) (sz : BitVec 1) (side : BitVec 1) (kind : BitVec 2) (flds : BitVec 12) : BitVec 32 := scope ++ acq ++ rel ++ cnt ++ sz ++ side ++ kind ++ flds
def ec2_scope (x : BitVec 32) : BitVec 6 := x.extractLsb' 26 6
def ec2_acq (x : BitVec 32) : BitVec 1 := x.extractLsb' 25 1
def ec2_rel (x : BitVec 32) : BitVec 1 := x.extractLsb' 24 1
def ec2_cnt (x : BitVec 32) : BitVec 8 := x.extractLsb' 16 8
def ec2_sz (x : BitVec 32) : BitVec 1 := x.extractLsb' 15 1
def ec2_side (x : BitVec 32) : BitVec 1 := x.extractLsb' 14 1
def ec2_kind (x : BitVec 32) : BitVec 2 := x.extractLsb' 12 2
def ec2_flds (x : BitVec 32) : BitVec 12 := x.extractLsb' 0 12
/-- R370: word 2 of a sweep. -/
def sw2 (scope : BitVec 6) (ar : BitVec 2) (opr : BitVec 4) (z : BitVec 11) (vs : BitVec 9) : BitVec 32 := scope ++ ar ++ opr ++ z ++ vs
def sw2_scope (x : BitVec 32) : BitVec 6 := x.extractLsb' 26 6
def sw2_ar (x : BitVec 32) : BitVec 2 := x.extractLsb' 24 2
def sw2_opr (x : BitVec 32) : BitVec 4 := x.extractLsb' 20 4
def sw2_z (x : BitVec 32) : BitVec 11 := x.extractLsb' 9 11
def sw2_vs (x : BitVec 32) : BitVec 9 := x.extractLsb' 0 9
/-- R367: the fields of ACP. -/
def acpF (z : BitVec 2) (r0 : BitVec 5) (i32 : BitVec 1) (inn : BitVec 1) (acc : BitVec 3) : BitVec 12 := z ++ r0 ++ i32 ++ inn ++ acc
def acpF_z (x : BitVec 12) : BitVec 2 := x.extractLsb' 10 2
def acpF_r0 (x : BitVec 12) : BitVec 5 := x.extractLsb' 5 5
def acpF_i32 (x : BitVec 12) : BitVec 1 := x.extractLsb' 4 1
def acpF_inn (x : BitVec 12) : BitVec 1 := x.extractLsb' 3 1
def acpF_acc (x : BitVec 12) : BitVec 3 := x.extractLsb' 0 3
/-- R243: the payload of a MOD prefix, with its head (R290). -/
def modP (l : BitVec 2) (kind : BitVec 4) (z : BitVec 20) (ftz : BitVec 1) (sat : BitVec 2) (rnd : BitVec 3) : BitVec 32 := l ++ kind ++ z ++ ftz ++ sat ++ rnd
def modP_l (x : BitVec 32) : BitVec 2 := x.extractLsb' 30 2
def modP_kind (x : BitVec 32) : BitVec 4 := x.extractLsb' 26 4
def modP_z (x : BitVec 32) : BitVec 20 := x.extractLsb' 6 20
def modP_ftz (x : BitVec 32) : BitVec 1 := x.extractLsb' 5 1
def modP_sat (x : BitVec 32) : BitVec 2 := x.extractLsb' 3 2
def modP_rnd (x : BitVec 32) : BitVec 3 := x.extractLsb' 0 3
/-- R290: an XTAG prefix. -/
def xtagP (l : BitVec 2) (kind : BitVec 4) (z : BitVec 22) (f : BitVec 4) : BitVec 32 := l ++ kind ++ z ++ f
def xtagP_l (x : BitVec 32) : BitVec 2 := x.extractLsb' 30 2
def xtagP_kind (x : BitVec 32) : BitVec 4 := x.extractLsb' 26 4
def xtagP_z (x : BitVec 32) : BitVec 22 := x.extractLsb' 4 22
def xtagP_f (x : BitVec 32) : BitVec 4 := x.extractLsb' 0 4

/-! ## Codes of the enumerated fields -/

/-- The codes of R258. -/
def fmtCode : Fmt → BitVec 4
  | .raw => 0#4
  | .i8 => 1#4
  | .i16 => 2#4
  | .i32 => 3#4
  | .fp32 => 4#4
  | .bf16 => 5#4
  | .fp16 => 6#4
  | .e4m3 => 7#4
  | .e5m2 => 8#4
  | .e2m1 => 9#4
  | .d2 => 10#4
  | .scl => 11#4
  | .msk => 12#4
  | .vix => 13#4
/-- The value a code of R258 names; none where the code is not defined. -/
def fmtOf (c : BitVec 4) : Option Fmt :=
  match c.toNat with
  | 0 => some .raw
  | 1 => some .i8
  | 2 => some .i16
  | 3 => some .i32
  | 4 => some .fp32
  | 5 => some .bf16
  | 6 => some .fp16
  | 7 => some .e4m3
  | 8 => some .e5m2
  | 9 => some .e2m1
  | 10 => some .d2
  | 11 => some .scl
  | 12 => some .msk
  | 13 => some .vix
  | _ => none

/-- The codes of R243. -/
def rndCode : Rnd → BitVec 3
  | .rne => 0#3
  | .rtz => 1#3
  | .rup => 2#3
  | .rdn => 3#3
  | .rna => 4#3
  | .rsr => 5#3
/-- The value a code of R243 names; none where the code is not defined. -/
def rndOf (c : BitVec 3) : Option Rnd :=
  match c.toNat with
  | 0 => some .rne
  | 1 => some .rtz
  | 2 => some .rup
  | 3 => some .rdn
  | 4 => some .rna
  | 5 => some .rsr
  | _ => none

/-- The codes of R243. -/
def satCode : Sat → BitVec 2
  | .none => 0#2
  | .fmt => 1#2
  | .int => 2#2
/-- The value a code of R243 names; none where the code is not defined. -/
def satOf (c : BitVec 2) : Option Sat :=
  match c.toNat with
  | 0 => some .none
  | 1 => some .fmt
  | 2 => some .int
  | _ => none

/-- The codes of R302. -/
def divFormCode : DivForm → BitVec 4
  | .q => 0#4
  | .qu => 1#4
  | .r => 2#4
  | .ru => 3#4
/-- The value a code of R302 names; none where the code is not defined. -/
def divFormOf (c : BitVec 4) : Option DivForm :=
  match c.toNat with
  | 0 => some .q
  | 1 => some .qu
  | 2 => some .r
  | 3 => some .ru
  | _ => none

/-- The codes of R302. -/
def bitFormCode : BitForm → BitVec 4
  | .clz => 0#4
  | .ctz => 1#4
  | .popc => 2#4
  | .brev => 3#4
/-- The value a code of R302 names; none where the code is not defined. -/
def bitFormOf (c : BitVec 4) : Option BitForm :=
  match c.toNat with
  | 0 => some .clz
  | 1 => some .ctz
  | 2 => some .popc
  | 3 => some .brev
  | _ => none

/-- The codes of R304. -/
def moviTagCode : MoviTag → BitVec 4
  | .i32 => 0#4
  | .fp32 => 1#4
  | .raw => 2#4
/-- The value a code of R304 names; none where the code is not defined. -/
def moviTagOf (c : BitVec 4) : Option MoviTag :=
  match c.toNat with
  | 0 => some .i32
  | 1 => some .fp32
  | 2 => some .raw
  | _ => none

/-- The codes of R306. -/
def relCode : Rel → BitVec 4
  | .eq => 0#4
  | .ne => 1#4
  | .lt => 2#4
  | .ge => 3#4
  | .le => 4#4
  | .gt => 5#4
  | .ltu => 6#4
  | .geu => 7#4
  | .leu => 8#4
  | .gtu => 9#4
  | .tst => 10#4
  | .tstz => 11#4
/-- The value a code of R306 names; none where the code is not defined. -/
def relOf (c : BitVec 4) : Option Rel :=
  match c.toNat with
  | 0 => some .eq
  | 1 => some .ne
  | 2 => some .lt
  | 3 => some .ge
  | 4 => some .le
  | 5 => some .gt
  | 6 => some .ltu
  | 7 => some .geu
  | 8 => some .leu
  | 9 => some .gtu
  | 10 => some .tst
  | 11 => some .tstz
  | _ => none

/-- The codes of R307. -/
def plogOpCode : PlogOp → BitVec 4
  | .and => 0#4
  | .or => 1#4
  | .xor => 2#4
/-- The value a code of R307 names; none where the code is not defined. -/
def plogOpOf (c : BitVec 4) : Option PlogOp :=
  match c.toNat with
  | 0 => some .and
  | 1 => some .or
  | 2 => some .xor
  | _ => none

/-- The codes of R308. -/
def fopFormCode : FopForm → BitVec 4
  | .fadd => 0#4
  | .fsub => 1#4
  | .fmul => 2#4
  | .fmin => 3#4
  | .fmax => 4#4
/-- The value a code of R308 names; none where the code is not defined. -/
def fopFormOf (c : BitVec 4) : Option FopForm :=
  match c.toNat with
  | 0 => some .fadd
  | 1 => some .fsub
  | 2 => some .fmul
  | 3 => some .fmin
  | 4 => some .fmax
  | _ => none

/-- The codes of R308. -/
def fmaFormCode : FmaForm → BitVec 4
  | .fma => 0#4
  | .fms => 1#4
  | .fnma => 2#4
/-- The value a code of R308 names; none where the code is not defined. -/
def fmaFormOf (c : BitVec 4) : Option FmaForm :=
  match c.toNat with
  | 0 => some .fma
  | 1 => some .fms
  | 2 => some .fnma
  | _ => none

/-- The codes of R309. -/
def fRelCode : FRel → BitVec 4
  | .eq => 0#4
  | .ne => 1#4
  | .lt => 2#4
  | .le => 3#4
  | .gt => 4#4
  | .ge => 5#4
  | .un => 6#4
  | .ord => 7#4
/-- The value a code of R309 names; none where the code is not defined. -/
def fRelOf (c : BitVec 4) : Option FRel :=
  match c.toNat with
  | 0 => some .eq
  | 1 => some .ne
  | 2 => some .lt
  | 3 => some .le
  | 4 => some .gt
  | 5 => some .ge
  | 6 => some .un
  | 7 => some .ord
  | _ => none

/-- The codes of R310. -/
def cvtFormCode : CvtForm → BitVec 4
  | .itof => 0#4
  | .utof => 1#4
  | .ftoi => 2#4
  | .ftou => 3#4
/-- The value a code of R310 names; none where the code is not defined. -/
def cvtFormOf (c : BitVec 4) : Option CvtForm :=
  match c.toNat with
  | 0 => some .itof
  | 1 => some .utof
  | 2 => some .ftoi
  | 3 => some .ftou
  | _ => none

/-- The codes of R324. -/
def spaceCode : Space → BitVec 4
  | .s => 0#4
  | .p => 1#4
  | .b => 2#4
  | .row => 3#4
  | .tag => 4#4
  | .sram => 5#4
  | .frec => 6#4
/-- The value a code of R324 names; none where the code is not defined. -/
def spaceOf (c : BitVec 4) : Option Space :=
  match c.toNat with
  | 0 => some .s
  | 1 => some .p
  | 2 => some .b
  | 3 => some .row
  | 4 => some .tag
  | 5 => some .sram
  | 6 => some .frec
  | _ => none

/-- The codes of R264. -/
def vWidthCode : VWidth → BitVec 2
  | .w256 => 0#2
  | .w512 => 1#2
  | .w1024 => 2#2
/-- The value a code of R264 names; none where the code is not defined. -/
def vWidthOf (c : BitVec 2) : Option VWidth :=
  match c.toNat with
  | 0 => some .w256
  | 1 => some .w512
  | 2 => some .w1024
  | _ => none

/-- The codes of R330. -/
def unFormCode : UnForm → BitVec 4
  | .abs => 0#4
  | .neg => 1#4
  | .cpysgn => 2#4
/-- The value a code of R330 names; none where the code is not defined. -/
def unFormOf (c : BitVec 4) : Option UnForm :=
  match c.toNat with
  | 0 => some .abs
  | 1 => some .neg
  | 2 => some .cpysgn
  | _ => none

/-- The codes of R330. -/
def sfFormCode : SfForm → BitVec 4
  | .rcp => 0#4
  | .rsq => 1#4
  | .sqrt => 2#4
  | .exp2 => 3#4
  | .log2 => 4#4
  | .sinpi => 5#4
  | .cospi => 6#4
  | .tanh => 7#4
  | .sigm => 8#4
  | .erf => 9#4
/-- The value a code of R330 names; none where the code is not defined. -/
def sfFormOf (c : BitVec 4) : Option SfForm :=
  match c.toNat with
  | 0 => some .rcp
  | 1 => some .rsq
  | 2 => some .sqrt
  | 3 => some .exp2
  | 4 => some .log2
  | 5 => some .sinpi
  | 6 => some .cospi
  | 7 => some .tanh
  | 8 => some .sigm
  | 9 => some .erf
  | _ => none

/-- The codes of R337. -/
def vRelCode : VRel → BitVec 5
  | .eq => 0#5
  | .ne => 1#5
  | .lt => 2#5
  | .le => 3#5
  | .gt => 4#5
  | .ge => 5#5
  | .un => 6#5
  | .ord => 7#5
  | .ltu => 8#5
  | .leu => 9#5
  | .gtu => 10#5
  | .geu => 11#5
/-- The value a code of R337 names; none where the code is not defined. -/
def vRelOf (c : BitVec 5) : Option VRel :=
  match c.toNat with
  | 0 => some .eq
  | 1 => some .ne
  | 2 => some .lt
  | 3 => some .le
  | 4 => some .gt
  | 5 => some .ge
  | 6 => some .un
  | 7 => some .ord
  | 8 => some .ltu
  | 9 => some .leu
  | 10 => some .gtu
  | 11 => some .geu
  | _ => none

/-- The codes of R330. -/
def shrFormCode : ShrForm → BitVec 4
  | .l => 0#4
  | .a => 1#4
  | .ar => 2#4
/-- The value a code of R330 names; none where the code is not defined. -/
def shrFormOf (c : BitVec 4) : Option ShrForm :=
  match c.toNat with
  | 0 => some .l
  | 1 => some .a
  | 2 => some .ar
  | _ => none

/-- The codes of R330. -/
def mulFormCode : MulForm → BitVec 4
  | .lo => 0#4
  | .his => 1#4
  | .hiu => 2#4
  | .q => 3#4
/-- The value a code of R330 names; none where the code is not defined. -/
def mulFormOf (c : BitVec 4) : Option MulForm :=
  match c.toNat with
  | 0 => some .lo
  | 1 => some .his
  | 2 => some .hiu
  | 3 => some .q
  | _ => none

/-- The codes of R330. -/
def mmFormCode : MmForm → BitVec 4
  | .min => 0#4
  | .max => 1#4
  | .minu => 2#4
  | .maxu => 3#4
/-- The value a code of R330 names; none where the code is not defined. -/
def mmFormOf (c : BitVec 4) : Option MmForm :=
  match c.toNat with
  | 0 => some .min
  | 1 => some .max
  | 2 => some .minu
  | 3 => some .maxu
  | _ => none

/-- The codes of R330. -/
def mskFormCode : MskForm → BitVec 4
  | .count => 0#4
  | .first => 1#4
  | .popc => 2#4
/-- The value a code of R330 names; none where the code is not defined. -/
def mskFormOf (c : BitVec 4) : Option MskForm :=
  match c.toNat with
  | 0 => some .count
  | 1 => some .first
  | 2 => some .popc
  | _ => none

/-- The codes of R388. -/
def amoFormCode : AmoForm → BitVec 4
  | .add => 0#4
  | .fadd => 1#4
  | .max => 2#4
  | .min => 3#4
  | .maxu => 4#4
  | .minu => 5#4
  | .and => 6#4
  | .or => 7#4
  | .xor => 8#4
  | .swap => 9#4
/-- The value a code of R388 names; none where the code is not defined. -/
def amoFormOf (c : BitVec 4) : Option AmoForm :=
  match c.toNat with
  | 0 => some .add
  | 1 => some .fadd
  | 2 => some .max
  | 3 => some .min
  | 4 => some .maxu
  | 5 => some .minu
  | 6 => some .and
  | 7 => some .or
  | 8 => some .xor
  | 9 => some .swap
  | _ => none

/-- The codes of R288. -/
def sizeCode : Size → BitVec 3
  | .b => 0#3
  | .h => 1#3
  | .w => 2#3
  | .d => 3#3
/-- The value a code of R288 names; none where the code is not defined. -/
def sizeOf (c : BitVec 3) : Option Size :=
  match c.toNat with
  | 0 => some .b
  | 1 => some .h
  | 2 => some .w
  | 3 => some .d
  | _ => none

/-- The codes of R188. -/
def swzCode : Swz → BitVec 2
  | .lin => 0#2
  | .xor => 1#2
  | .skew => 2#2
  | .brev => 3#2
/-- The value a code of R188 names; none where the code is not defined. -/
def swzOf (c : BitVec 2) : Option Swz :=
  match c.toNat with
  | 0 => some .lin
  | 1 => some .xor
  | 2 => some .skew
  | 3 => some .brev
  | _ => none

/-- The codes of R220. -/
def sweepOpCode : SweepOp → BitVec 4
  | .fadd => 0#4
  | .fmul => 1#4
  | .fmax => 2#4
  | .fmin => 3#4
  | .maxi => 4#4
  | .mini => 5#4
  | .iadd => 6#4
  | .and => 7#4
  | .or => 8#4
  | .xor => 9#4
/-- The value a code of R220 names; none where the code is not defined. -/
def sweepOpOf (c : BitVec 4) : Option SweepOp :=
  match c.toNat with
  | 0 => some .fadd
  | 1 => some .fmul
  | 2 => some .fmax
  | 3 => some .fmin
  | 4 => some .maxi
  | 5 => some .mini
  | 6 => some .iadd
  | 7 => some .and
  | 8 => some .or
  | 9 => some .xor
  | _ => none

/-- The codes of R289. -/
def sideCode : Side → BitVec 2
  | .n => 0#2
  | .e => 1#2
  | .s => 2#2
  | .w => 3#2
/-- The value a code of R289 names; none where the code is not defined. -/
def sideOf (c : BitVec 2) : Option Side :=
  match c.toNat with
  | 0 => some .n
  | 1 => some .e
  | 2 => some .s
  | 3 => some .w
  | _ => none

/-- The codes of R342. -/
def redOpCode : RedOp → BitVec 3
  | .sum => 0#3
  | .max => 1#3
  | .min => 2#3
  | .maxi => 3#3
  | .mini => 4#3
/-- The value a code of R342 names; none where the code is not defined. -/
def redOpOf (c : BitVec 3) : Option RedOp :=
  match c.toNat with
  | 0 => some .sum
  | 1 => some .max
  | 2 => some .min
  | 3 => some .maxi
  | 4 => some .mini
  | _ => none

/-- A Boolean as a one-bit field. -/
def oneBit (b : Bool) : BitVec 1 := BitVec.ofBool b
/-- A one-bit field as a Boolean. -/
def isOne (v : BitVec 1) : Bool := v == 1#1
/-- An fn field with the two forms 0 and 1. -/
def twoOf {n : Nat} (v : BitVec n) : Option Bool :=
  if v == 0#n then some false else if v == 1#n then some true else none
/-- The code of a two-form field. -/
def twoCode (n : Nat) (b : Bool) : BitVec n := if b then 1#n else 0#n
/-- An instruction under a check of fields that must be zero or in range. -/
def ck (b : Bool) (i : Instr) : Option Instr := if b then some i else none

/-! ## Prefixes (R290, R243) -/

/-- The word of a prefix, none for no prefix. -/
def prefixWord : Prefix → Option W32
  | .none => none
  | .mod m => some (modP 3#2 0#4 0#20 (oneBit m.ftz) (satCode m.sat) (rndCode m.rnd))
  | .xtag f => some (xtagP 3#2 1#4 0#22 (fmtCode f))

/-- The prefix a word gives; none where a field of it is reserved. -/
def prefixOfWord : Option W32 → Option Prefix
  | none => some .none
  | some w =>
    if modP_kind w == 0#4 then
      if modP_z w == 0#20 then
        (satOf (modP_sat w)).bind fun s => (rndOf (modP_rnd w)).map fun r => .mod ⟨isOne (modP_ftz w), s, r⟩
      else none
    else if xtagP_z w == 0#22 then (fmtOf (xtagP_f w)).map .xtag else none

/-- The XTAG of an instruction that accepts X alone. -/
def xOf : Prefix → Option Fmt
  | .xtag f => some f
  | _ => none
/-- The MOD of an instruction that accepts M alone. -/
def mOf : Prefix → Option Mod
  | .mod m => some m
  | _ => none
/-- The prefix an XTAG is carried in. -/
def ofX : Option Fmt → Prefix
  | some f => .xtag f
  | none => .none
/-- The prefix a MOD is carried in. -/
def ofM : Option Mod → Prefix
  | some m => .mod m
  | none => .none

/-! ## Vector control, flags, swizzle -/

/-- R264: width and part. -/
def rangeOf (w : BitVec 2) (part : BitVec 2) : Option VRange := (vWidthOf w).map fun w => ⟨w, part⟩

/-- R267: the mask mode, NONE with vm zero. -/
def maskOf (mm : BitVec 2) (vm : R9) : Option Mask :=
  if mm == 0#2 then if vm == 0#9 then some .none else none
  else if mm == 1#2 then some (.merge vm)
  else if mm == 2#2 then some (.zero vm)
  else none
/-- R267: the code of a mask mode. -/
def mmCode : Mask → BitVec 2
  | .none => 0#2
  | .merge _ => 1#2
  | .zero _ => 2#2
/-- R267: the mask row field. -/
def vmCode : Mask → R9
  | .none => 0#9
  | .merge vm => vm
  | .zero vm => vm

/-- R287: word 1 of a vector instruction under its control fields. -/
def vecBody (v : VCtl) (fn : BitVec 4) : BitVec 19 :=
  va1 (vWidthCode v.r.w) v.r.part fn (mmCode v.m) (vmCode v.m)
/-- The control fields of a vector word 1. -/
def vctlOf (b : BitVec 19) : Option VCtl :=
  (rangeOf (va1_w b) (va1_part b)).bind fun r => (maskOf (va1_mm b) (va1_vm b)).map fun m => ⟨r, m⟩
/-- R330: word 1 of a vector instruction that takes no lane mask. -/
def vecBodyR (r : VRange) (fn : BitVec 4) : BitVec 19 := va1 (vWidthCode r.w) r.part fn 0#2 0#9
/-- The range of a vector word 1 whose mask fields are zero. -/
def vrangeOf (b : BitVec 19) : Option VRange :=
  if va1_mm b == 0#2 && va1_vm b == 0#9 then rangeOf (va1_w b) (va1_part b) else none
/-- R288: word 1 of MR. -/
def mrBody (r : VRange) (tag : BitVec 4) (base : R5) (fn : BitVec 6) : BitVec 19 :=
  mr1 (vWidthCode r.w) r.part tag base fn

/-- R328: a scalar named in a nine-oneBit row field. -/
def scalarIn (v : R9) : Option R5 := if v.extractLsb' 5 4 == 0#4 then some (v.extractLsb' 0 5) else none
/-- R328: the row field that names a scalar. -/
def scalarField (d : R5) : R9 := 0#4 ++ d
/-- R330: an immediate of eight bits in the vb field. -/
def byteIn (v : R9) : Option Byte := if v.extractLsb' 8 1 == 0#1 then some (v.extractLsb' 0 8) else none
/-- The vb field that holds an eight-oneBit immediate. -/
def byteField (k : Byte) : R9 := 0#1 ++ k

/-- R328: the scalar named by a six-oneBit count field of CPT. -/
def rows6 (v : Byte) : Option (BitVec 6) := if v.extractLsb' 6 2 == 0#2 then some (v.extractLsb' 0 6) else none
/-- The count field of CPT. -/
def rows6Field (v : BitVec 6) : Byte := 0#2 ++ v
/-- R367: the count of ACP, rows minus 1, at most 31. -/
def rows5 (v : Byte) : Option R5 := if v.extractLsb' 5 3 == 0#3 then some (v.extractLsb' 0 5) else none
/-- The count field of ACP. -/
def rows5Field (v : R5) : Byte := 0#3 ++ v

/-! ## Opcode maps (R291 to R295, R325) -/

/-- One row of an opcode map: the length codes and the prefix kinds it admits. -/
structure OpRow where
  l0 : Bool
  l1 : Bool
  l2 : Bool
  m : Bool
  x : Bool
  deriving DecidableEq, Repr

/-- A 32-oneBit form alone. -/
def r0 : OpRow := ⟨true, false, false, false, false⟩
/-- A 64-oneBit form alone. -/
def r1 : OpRow := ⟨false, true, false, false, false⟩
/-- A 96-oneBit form alone. -/
def r2 : OpRow := ⟨false, false, true, false, false⟩
/-- 32-oneBit and 64-oneBit forms. -/
def r01 : OpRow := ⟨true, true, false, false, false⟩
/-- 64-oneBit and 96-oneBit forms. -/
def r12 : OpRow := ⟨false, true, true, false, false⟩
/-- 32-bit, 64-oneBit and 96-oneBit forms. -/
def r012 : OpRow := ⟨true, true, true, false, false⟩
/-- The row, accepting XTAG. -/
def OpRow.X (r : OpRow) : OpRow := ⟨r.l0, r.l1, r.l2, r.m, true⟩
/-- The row, accepting MOD. -/
def OpRow.M (r : OpRow) : OpRow := ⟨r.l0, r.l1, r.l2, true, r.x⟩

/-- R292: the SC slot. -/
def rowSC (op : Nat) : Option OpRow :=
  match op with
  | 0x00 => some r0
  | 0x01 => some r0.X | 0x02 => some r0.X | 0x03 => some r01.X | 0x04 => some r0.X | 0x05 => some r0.X
  | 0x06 => some r0.X | 0x07 => some r0.X | 0x08 => some r0.X | 0x09 => some r0.X | 0x0A => some r0.X
  | 0x0B => some r0.X | 0x0C => some r0.X | 0x0D => some r0.X | 0x0E => some r0.X | 0x0F => some r0.X
  | 0x10 => some r0.X | 0x11 => some r0.X | 0x12 => some r1.X | 0x13 => some r1.X | 0x14 => some r0
  | 0x15 => some r0 | 0x16 => some r012 | 0x17 => some r01.X | 0x18 => some r0.X | 0x19 => some r01.X
  | 0x1A => some r0 | 0x1B => some r0.M.X | 0x1C => some r0.M.X | 0x1D => some r0.M.X
  | 0x1E => some r0.M.X | 0x1F => some r0 | 0x20 => some r0 | 0x21 => some r1 | 0x22 => some r1
  | _ => none

/-- R293: the SY slot. -/
def rowSY (op : Nat) : Option OpRow :=
  match op with
  | 0x00 => some r0
  | 0x01 => some r0 | 0x02 => some r0 | 0x03 => some r0 | 0x04 => some r0 | 0x05 => some r0
  | 0x06 => some r0 | 0x07 => some r01 | 0x08 => some r01 | 0x09 => some r1 | 0x0A => some r0
  | 0x0B => some r01 | 0x0C => some r0 | 0x0D => some r0 | 0x0E => some r0 | 0x0F => some r0
  | 0x10 => some r0 | 0x11 => some r0 | 0x12 => some r1 | 0x13 => some r1
  | _ => none

/-- R294: the VA and VB slots. -/
def rowV (op : Nat) : Option OpRow :=
  match op with
  | 0x00 => some r0
  | 0x01 => some r12.M.X | 0x02 => some r12.M.X | 0x03 => some r12.M.X | 0x04 => some r12.M.X
  | 0x05 => some r12.M.X | 0x06 => some r12.M.X | 0x07 => some r12.M.X | 0x08 => some r12.M.X
  | 0x09 => some r1.X | 0x0A => some r1.M.X | 0x0B => some r12.M.X | 0x0C => some r1.X
  | 0x0D => some r12.X | 0x0E => some r12.X | 0x0F => some r12.X | 0x10 => some r12.X
  | 0x11 => some r12.M.X | 0x12 => some r12.M.X | 0x13 => some r12.M.X | 0x14 => some r12.M.X
  | 0x15 => some r12.X | 0x16 => some r1.M.X | 0x17 => some r1.M.X | 0x18 => some r1.M.X
  | 0x19 => some r1.M.X | 0x1A => some r1.M.X | 0x1B => some r1.X | 0x1C => some r1.X
  | 0x1D => some r12 | 0x1E => some r1.X | 0x1F => some r1.X | 0x20 => some r1 | 0x21 => some r1
  | 0x22 => some r1.M.X | 0x23 => some r1.M.X | 0x24 => some r1.X | 0x25 => some r1 | 0x26 => some r1.X
  | _ => none

/-- R295: the MX slot. -/
def rowMX (op : Nat) : Option OpRow :=
  match op with
  | 0x00 => some r0
  | 0x01 => some r1 | 0x02 => some r1 | 0x03 => some r1 | 0x04 => some r1.M | 0x05 => some r1.M
  | 0x06 => some r1 | 0x07 => some r1
  | _ => none

/-- R295: the LD slot. -/
def rowLD (op : Nat) : Option OpRow :=
  match op with
  | 0x00 => some r0
  | 0x01 => some r1 | 0x02 => some r1 | 0x03 => some r1 | 0x04 => some r1 | 0x05 => some r01
  | 0x06 => some r01 | 0x07 => some r1 | 0x08 => some r01
  | _ => none

/-- R295: the ST slot. -/
def rowST (op : Nat) : Option OpRow :=
  match op with
  | 0x00 => some r0
  | 0x01 => some r1 | 0x02 => some r1 | 0x03 => some r1 | 0x04 => some r01 | 0x05 => some r1
  | 0x06 => some r1 | 0x07 => some r12 | 0x08 => some r1
  | _ => none

/-- R295: the CP slot. -/
def rowCP (op : Nat) : Option OpRow :=
  match op with
  | 0x00 => some r0
  | 0x01 => some r1 | 0x02 => some r12 | 0x03 => some r1 | 0x04 => some r2 | 0x05 => some r2
  | 0x06 => some r1 | 0x07 => some r1 | 0x08 => some r1 | 0x09 => some r1 | 0x0A => some r1
  | 0x0B => some r1 | 0x0C => some r1
  | _ => none

/-- R325: the opcodes a front-end core treats as reserved: RDW, BAR, CHK.V, DRAIN and the privileged ones. -/
def coreReserved (s : Slot) (op : Nat) (b : BitVec 19) : Bool :=
  match s with
  | .sc => op == 0x20
  | .sy => op == 0x09 || op == 0x0B || (op == 0x0A && sa3_fn b == 2#4) || (0x0F ≤ op && op ≤ 0x13)
  | _ => false

/-- The opcode-map row of an opcode, with bits 18:0 of its word; none for a reserved opcode. -/
def opRow (c : Stream) (s : Slot) (op : Nat) (b : BitVec 19) : Option OpRow :=
  if c == .core && coreReserved s op b then none else
  match s with
  | .sc => rowSC op
  | .va => rowV op
  | .vb => rowV op
  | .mx => rowMX op
  | .ld => rowLD op
  | .st => rowST op
  | .cp => rowCP op
  | .sy => rowSY op

/-- R285, R295, R345: the length code is one the opcode, and for VBC and AMO the form, allows. -/
def lenOk (s : Slot) (r : OpRow) (op l : Nat) (b : BitVec 19) : Bool :=
  ((l == 0 && r.l0) || (l == 1 && r.l1) || (l == 2 && r.l2)) &&
  (match s with
   | .va | .vb => !(op == 0x1D && ((va1_fn b == 0#4 && l == 2) || (va1_fn b == 1#4 && l == 1)))
   | .st => !(op == 0x07 && (sa3_fn b == 10#4) != (l == 2))
   | _ => true)

/-- R290: the prefix kind is one the opcode accepts. -/
def kindOk (r : OpRow) : Option W32 → Bool
  | none => true
  | some w => (modP_kind w == 0#4 && r.m) || (modP_kind w == 1#4 && r.x)

/-! ## Fields of the slots -/

/-- R311, R276, R325: a number of RDS or WRS; on a front-end core only GCYC, LCYC and FSTAT. -/
def specialIn (c : Stream) (n : W32) : Bool := c != .core || n == 0#32 || n == 1#32 || n == 0x30#32

/-- The SC slot (R291, R292, R302 to R311). `l` is the length code, `b` bits 18:0, `w2` and `w3` the later words. -/
def fieldsSC (c : Stream) (op l : Nat) (g : Guard) (x : Prefix) (b : BitVec 19) (w2 w3 : W32) : Option Instr :=
  let d := sa3_a b
  let a := sa3_b b
  let s := sa3_c b
  let fn := sa3_fn b
  match op with
  | 0x00 => ck (b == 0#19) (.nop g)
  | 0x01 => ck (fn == 0#4) (.add g (xOf x) d a s)
  | 0x02 => ck (fn == 0#4) (.sub g (xOf x) d a s)
  | 0x03 =>
    if l == 0 then some (.addi g (xOf x) (si_d b) (si_a b) (si_imm b))
    else ck (s == 0#5 && fn == 0#4) (.addiLong g (xOf x) d a w2)
  | 0x04 => ck (fn == 0#4) (.mul g (xOf x) d a s)
  | 0x05 => (twoOf fn).map fun u => .mulh g (xOf x) u d a s
  | 0x06 => (divFormOf fn).map fun f => .div g (xOf x) f d a s
  | 0x07 => ck (fn == 0#4) (.and g (xOf x) d a s)
  | 0x08 => ck (fn == 0#4) (.or g (xOf x) d a s)
  | 0x09 => ck (fn == 0#4) (.xor g (xOf x) d a s)
  | 0x0A => ck (fn == 0#4) (.andn g (xOf x) d a s)
  | 0x0B => ck (fn == 0#4) (.shl g (xOf x) d a s)
  | 0x0C => ck (fn == 0#4) (.shr g (xOf x) d a s)
  | 0x0D => ck (fn == 0#4) (.sra g (xOf x) d a s)
  | 0x0E => (twoOf fn).map fun u => .rot g (xOf x) u d a s
  | 0x0F => (twoOf fn).map fun u => .min g (xOf x) u d a s
  | 0x10 => (twoOf fn).map fun u => .max g (xOf x) u d a s
  | 0x11 => (bitFormOf fn).bind fun f => ck (s == 0#5) (.bit g (xOf x) f d a)
  | 0x12 => ck (s == 0#5 && fn == 0#4 && fld_z w2 == 0#19)
      (.ext g (xOf x) d a (isOne (fld_sx w2)) (fld_len w2) (fld_pos w2))
  | 0x13 => ck (s == 0#5 && fn == 0#4 && fld_z w2 == 0#19 && fld_sx w2 == 0#1)
      (.ins g (xOf x) d a (fld_len w2) (fld_pos w2))
  | 0x14 => ck (fn == 0#4) (.sel g d a s)
  | 0x15 => ck (s == 0#5 && fn == 0#4) (.mov g d a)
  | 0x16 =>
    if l == 0 then some (.movi g (si_d b) (si_imm b))
    else if l == 1 then (moviTagOf fn).bind fun t => ck (s == 0#5) (.moviLong g t d w2)
    else if fn == 0#4 then some (.moviWide g false d (w2 ++ w3))
    else ck (fn == 2#4) (.moviWide g true d (w2 ++ w3))
  | 0x17 =>
    if l == 0 then ck (si_a b == 0#5) (.lea g (xOf x) (si_d b) (si_imm b))
    else ck (s == 0#5 && fn == 0#4) (.leaLong g (xOf x) d a w2)
  | 0x18 => (relOf fn).bind fun r => ck (cmpW_top b == 0#1) (.cmp g (xOf x) r (cmpW_pd b) a s)
  | 0x19 =>
    if l == 0 then some (.cmpi g (xOf x) (isOne (cmpiW_top b)) (cmpiW_pd b) (cmpiW_a b) (cmpiW_imm b))
    else (relOf fn).bind fun r => ck (cmpW_top b == 0#1 && s == 0#5) (.cmpiLong g (xOf x) r (cmpW_pd b) a w2)
  | 0x1A => (plogOpOf fn).bind fun o => ck (plogW_top b == 0#1)
      (.plog g o (plogW_pd b) (isOne (plogW_na b)) (plogW_pa b) (isOne (plogW_nb b)) (plogW_pb b))
  | 0x1B => (fopFormOf fn).map fun f => .fop g x f d a s
  | 0x1C => (fmaFormOf fn).map fun f => .fma g x f d a s
  | 0x1D => (fRelOf fn).bind fun r => ck (cmpW_top b == 0#1) (.fcmp g x r (cmpW_pd b) a s)
  | 0x1E => (cvtFormOf fn).bind fun f => ck (s == 0#5) (.fcvt g x f d a)
  | 0x1F => (twoOf fn).bind fun u => ck (a == 0#5 && s == 0#5) (.rdc g u d)
  | 0x20 => ck (rdwW_a b == 0#5 && rdwW_z b == 0#3) (.rdw g (rdwW_d b) (rdwW_level b))
  | 0x21 => ck (a == 0#5 && s == 0#5 && fn == 0#4 && specialIn c w2) (.rds g d w2)
  | 0x22 => ck (d == 0#5 && s == 0#5 && fn == 0#4 && specialIn c w2) (.wrs g w2 a)
  | _ => none

/-- The SY slot (R293, R312 to R324). -/
def fieldsSY (op l : Nat) (g : Guard) (b : BitVec 19) (w2 : W32) : Option Instr :=
  let d := sa3_a b
  let a := sa3_b b
  let s := sa3_c b
  let fn := sa3_fn b
  match op with
  | 0x00 => ck (b == 0#19) (.nop g)
  | 0x01 => some (.pbr g (bt_b b) (bt_imm b))
  | 0x02 => ck (pbrxW_z b == 0#2 && s == 0#5 && fn == 0#4) (.pbrx g (pbrxW_b b) a)
  | 0x03 => ck (bt_imm b == 0#16) (.br g (bt_b b))
  | 0x04 => ck (bt_imm b == 0#16) (.call g (bt_b b))
  | 0x05 => ck (bt_imm b == 0#16) (.ret g (bt_b b))
  | 0x06 => ck (brdecW_z b == 0#2 && s == 0#5 && fn == 0#4) (.brdec g d (brdecW_b b))
  | 0x07 =>
    if l == 0 then ck (d == 0#5 && s == 0#5 && fn == 0#4) (.waitc g a)
    else ck (d == 0#5 && s == 0#5 && fn == 0#4) (.waitcLong g a w2)
  | 0x08 =>
    if l == 0 then ck (si_d b == 0#5 && si_a b == 0#5) (.waitn g (si_imm b))
    else ck (b == 0#19) (.waitnLong g w2)
  | 0x09 => ck (d == 0#5 && s == 0#5 && fn == 0#4) (.bar g a (lvl_level w2) (lvl_off w2))
  | 0x0A =>
    if fn == 0#4 then ck (d == 0#5) (.chk g a s)
    else if fn == 1#4 then ck (chkPW_d b == 0#5 && chkPW_z b == 0#1 && chkPW_y b == 0#1) (.chkP g (chkPW_pa b) (chkPW_pb b))
    else if fn == 2#4 then ck (chkVW_z b == 0#1 && s == 0#5) (.chkV g (chkVW_hi b ++ chkVW_lo b))
    else ck (fn == 3#4 && d == 0#5 && chkBW_z b == 0#2 && chkBW_y b == 0#2) (.chkB g (chkBW_ba b) (chkBW_bb b))
  | 0x0B =>
    if l == 0 then ck (si_a b == 0#5) (.drain g (si_d b) (si_imm b))
    else ck (d == 0#5 && s == 0#5 && fn == 0#4) (.drainLong g a (lvl_level w2) (lvl_off w2))
  | 0x0C => ck (b == 0#19) (.endTask g)
  | 0x0D => ck (imm8_z b == 0#11) (.trap g (imm8_n b))
  | 0x0E => ck (imm8_z b == 0#11) (.sysc g (imm8_n b))
  | 0x0F => ck (a == 0#5 && s == 0#5 && fn == 0#4) (.align g d)
  | 0x10 => ck (a == 0#5 && s == 0#5 && fn == 0#4) (.frz g d)
  | 0x11 => (twoOf fn).bind fun k => ck (a == 0#5 && s == 0#5) (.rfz g k d)
  | 0x12 => (spaceOf fn).bind fun sp => ck (s == 0#5) (.ltf g sp d a w2)
  | 0x13 => (spaceOf fn).bind fun sp => ck (s == 0#5 && sp != .frec) (.stf g sp d a w2)
  | _ => none

/-- R339: a format named by x5. -/
def tgtOf (x5 : BitVec 5) : Option Fmt := if x5.extractLsb' 4 1 == 0#1 then fmtOf (x5.extractLsb' 0 4) else none
/-- The x5 of a format. -/
def tgtCode (f : Fmt) : BitVec 5 := 0#1 ++ fmtCode f
/-- R344: the form fn and x5 name. -/
def shufOf (fn : BitVec 4) (x5 : BitVec 5) : Option ShufForm :=
  match fn.toNat with
  | 0 => if x5 == 0#5 then some .bitrev else none
  | 1 => (twoOf x5).map .ilv
  | 2 => if x5 == 0#5 then some .dilv else none
  | 3 => some (.rotl x5)
  | _ => none
/-- R344: the fn of a form. -/
def shufFn : ShufForm → BitVec 4
  | .bitrev => 0#4 | .ilv _ => 1#4 | .dilv => 2#4 | .rotl _ => 3#4
/-- R344: the x5 of a form. -/
def shufX5 : ShufForm → BitVec 5
  | .bitrev => 0#5 | .ilv h => twoCode 5 h | .dilv => 0#5 | .rotl r => r

/-- The VA and VB slots (R294, R330). -/
def fieldsV (op l : Nat) (g : Guard) (x : Prefix) (b : BitVec 19) (w2 w3 : W32) : Option Instr :=
  let fn := va1_fn b
  let vd := va2_vd w2
  let va := va2_va w2
  let vb := va2_vb w2
  let x5 := va2_x5 w2
  let f0 := fn == 0#4 && x5 == 0#5
  let z := vb == 0#9
  let lane (row lit : VCtl → Instr) : Option Instr :=
    (vctlOf b).bind fun v => if l == 1 then some (row v) else ck z (lit v)
  match op with
  | 0x00 => ck (b == 0#19) (.nop g)
  | 0x01 => if f0 then lane (.vadd g x · vd va vb) (.vaddLit g x · vd va w3) else none
  | 0x02 => if f0 then lane (.vsub g x · vd va vb) (.vsubLit g x · vd va w3) else none
  | 0x03 => if f0 then lane (.vmul g x · vd va vb) (.vmulLit g x · vd va w3) else none
  | 0x04 => if f0 then lane (.vfma g x · vd va vb) (.vfmaLit g x · vd va w3) else none
  | 0x05 => if f0 then lane (.vfms g x · vd va vb) (.vfmsLit g x · vd va w3) else none
  | 0x06 => if f0 then lane (.vfnm g x · vd va vb) (.vfnmLit g x · vd va w3) else none
  | 0x07 => if f0 then lane (.vmin g x · vd va vb) (.vminLit g x · vd va w3) else none
  | 0x08 => if f0 then lane (.vmax g x · vd va vb) (.vmaxLit g x · vd va w3) else none
  | 0x09 => (unFormOf fn).bind fun f => (vctlOf b).bind fun v => ck (x5 == 0#5) (.vun g (xOf x) v f vd va vb)
  | 0x0A => (sfFormOf fn).bind fun f => (vctlOf b).bind fun v => ck (x5 == 0#5 && z) (.vsf g x v f vd va)
  | 0x0B => (vRelOf x5).bind fun r =>
      if fn == 0#4 then lane (.vcmp g x · r vd va vb) (.vcmpLit g x · r vd va w3) else none
  | 0x0C => (rangeOf (va1_w b) (va1_part b)).bind fun r =>
      ck (f0 && va1_mm b == 1#2) (.vsel g (xOf x) r vd va vb (va1_vm b))
  | 0x0D => if f0 then lane (.vand g (xOf x) · vd va vb) (.vandLit g (xOf x) · vd va w3) else none
  | 0x0E => if f0 then lane (.vor g (xOf x) · vd va vb) (.vorLit g (xOf x) · vd va w3) else none
  | 0x0F => if f0 then lane (.vxor g (xOf x) · vd va vb) (.vxorLit g (xOf x) · vd va w3) else none
  | 0x10 => if f0 then lane (.vandn g (xOf x) · vd va vb) (.vandnLit g (xOf x) · vd va w3) else none
  | 0x11 => if f0 then lane (.vshl g x · vd va vb) (.vshlLit g x · vd va w3) else none
  | 0x12 => (shrFormOf fn).bind fun f =>
      if x5 == 0#5 then lane (.vshr g x · f vd va vb) (.vshrLit g x · f vd va w3) else none
  | 0x13 => (twoOf fn).bind fun f =>
      if x5 == 0#5 then lane (.viadd g x · f vd va vb) (.viaddLit g x · f vd va w3) else none
  | 0x14 => (mulFormOf fn).bind fun f =>
      if x5 == 0#5 then lane (.vimul g x · f vd va vb) (.vimulLit g x · f vd va w3) else none
  | 0x15 => (mmFormOf fn).bind fun f =>
      if x5 == 0#5 then lane (.vimm g (xOf x) · f vd va vb) (.vimmLit g (xOf x) · f vd va w3) else none
  | 0x16 => (tgtOf x5).bind fun t => (vctlOf b).bind fun v =>
      ck (fn.extractLsb' 3 1 == 0#1 && z) (.vcvt g x v t (fn.extractLsb' 0 3) vd va)
  | 0x17 => (tgtOf x5).bind fun t => (vctlOf b).bind fun v =>
      ck (fn.extractLsb' 3 1 == 0#1) (.vqnt g x v t (fn.extractLsb' 0 3) vb vd va)
  | 0x18 => (tgtOf x5).bind fun t => (vctlOf b).bind fun v =>
      ck (fn.extractLsb' 3 1 == 0#1) (.vdq g x v t (fn.extractLsb' 0 3) vb vd va)
  | 0x19 => (redOpOf (fn.extractLsb' 0 3)).bind fun o => (vctlOf b).bind fun v =>
      ck (fn.extractLsb' 3 1 == 0#1 && x5 == 0#5 && z) (.vred g x v o vd va)
  | 0x1A => (redOpOf (fn.extractLsb' 0 3)).bind fun o => (vctlOf b).bind fun v =>
      ck (x5 == 0#5 && z) (.vscan g x v o (isOne (fn.extractLsb' 3 1)) vd va)
  | 0x1B => (twoOf fn).bind fun f => (vctlOf b).bind fun v => ck (x5 == 0#5) (.vperm g (xOf x) v f vd va vb)
  | 0x1C => (shufOf fn x5).bind fun f => (vctlOf b).bind fun v => some (.vshuf g (xOf x) v f vd va vb)
  | 0x1D =>
    if fn == 0#4 then
      (vctlOf b).bind fun v => (byteIn vb).bind fun k => ck (x5 == 0#5) (.vbcL g v vd va k)
    else (tgtOf x5).bind fun t => (vctlOf b).bind fun v =>
      ck (fn == 1#4 && z && va == 0#9) (.vbcI g v t vd w3)
  | 0x1E => (vrangeOf b).bind fun r => (byteIn vb).bind fun k => (scalarIn vd).bind fun d =>
      ck f0 (.vext g (xOf x) r d va k)
  | 0x1F => (vrangeOf b).bind fun r => (byteIn vb).bind fun k => (scalarIn va).bind fun a =>
      ck f0 (.vins g (xOf x) r vd a k)
  | 0x20 => (vctlOf b).bind fun v => ck (f0 && z) (.vmov g v vd va)
  | 0x21 => (tgtOf x5).bind fun t => (vctlOf b).bind fun v => ck (fn == 0#4 && va == 0#9) (.viota g v t vd vb)
  | 0x22 => (twoOf fn).bind fun f => (vctlOf b).bind fun v => ck (x5 == 0#5) (.vcmul g x v f vd va vb)
  | 0x23 => (twoOf fn).bind fun f => (vctlOf b).bind fun v => ck (x5 == 0#5) (.vbfly g x v f vd va vb)
  | 0x24 => (twoOf fn).bind fun f => (vctlOf b).bind fun v => ck (x5 == 0#5 && z) (.vcls g (xOf x) v f vd va)
  | 0x25 => (tgtOf x5).bind fun t => (vctlOf b).bind fun v => ck (fn == 0#4 && z) (.vtag g v t vd va)
  | 0x26 => (mskFormOf fn).bind fun f => (vrangeOf b).bind fun r => (scalarIn vd).bind fun d =>
      ck (x5 == 0#5 && z) (.vmsk g (xOf x) r f d va)
  | _ => none

/-- R354: fa of MZERO, ALD and AADD: 3 for I32, 4 for FP32. -/
def accFmtOf (f : BitVec 4) : Option Bool := if f == 3#4 then some false else if f == 4#4 then some true else none
/-- The code of an accumulator format. -/
def accFmtCode (fp : Bool) : BitVec 4 := if fp then 4#4 else 3#4

/-- The MX slot (R295, R354). -/
def fieldsMX (op : Nat) (g : Guard) (x : Prefix) (b : BitVec 19) (w2 : W32) : Option Instr :=
  let acc := mm1_acc b
  let nk := mm1_nk b
  let fa := mm1_fa b
  let fb := mm1_fb b
  let va := mm2_va w2
  let vb := mm2_vb w2
  let r0 := mm2_row0 w2
  let nr := mm2_nr w2
  let fn := mm2_fn w2
  let port := nk == 0#8 && fb == 0#4 && vb == 0#9 && fn == 0#4
  match op with
  | 0x00 => ck (b == 0#19) (.nop g)
  | 0x01 => (fmtOf fa).bind fun fa => (fmtOf fb).bind fun fb => (twoOf fn).bind fun z =>
      ck (va == 0#9 && vb == 0#9 && r0 == 0#5 && nr == 31#5) (.mma g z acc nk fa fb)
  | 0x02 => (fmtOf fa).bind fun fa => (fmtOf fb).bind fun fb => (twoOf fn).bind fun z =>
      ck (r0 == 0#5 && nr == 31#5) (.mmas g z acc nk fa fb va vb)
  | 0x03 => (accFmtOf fa).bind fun f => ck (port && va == 0#9) (.mzero g acc f r0 nr)
  | 0x04 => (fmtOf fa).bind fun t => ck port (.amv g (mOf x) acc t va r0 nr)
  | 0x05 => (fmtOf fa).bind fun t => ck port (.amvt g (mOf x) acc t va r0 nr)
  | 0x06 => (accFmtOf fa).bind fun f => ck port (.ald g acc f va r0 nr)
  | 0x07 => (accFmtOf fa).bind fun f => ck port (.aadd g acc f va r0 nr)
  | _ => none

/-- R380: the offset of an MS form; the 64-oneBit form has off6 zero. -/
def msForms (l : Nat) (b : BitVec 19) (w2 : W32) (short : Size → BitVec 6 → Instr) (long : Size → W32 → Instr) :
    Option Instr :=
  (sizeOf (ms1_size b)).bind fun z => if l == 0 then some (short z (ms1_off b)) else ck (ms1_off b == 0#6) (long z w2)

/-- R289: scope, A and R of GM word 2. -/
def gmFlags (w : W32) : Flags := ⟨gm2_scope w, isOne (gm2_acq w), isOne (gm2_rel w)⟩
/-- R289: scope, A and R of EC word 2. -/
def ecFlags (w : W32) : Flags := ⟨ec2_scope w, isOne (ec2_acq w), isOne (ec2_rel w)⟩
/-- R385: the size field of GM as an access size. -/
def gmSizeOf (v : Byte) : Option Size := if v.extractLsb' 3 5 == 0#5 then sizeOf (v.extractLsb' 0 3) else none
/-- The size field of GM. -/
def gmSizeCode (z : Size) : Byte := 0#5 ++ sizeCode z
/-- R388: an AMO size, 2 or 3. -/
def amoSizeOf (v : Byte) : Option Bool := if v == 2#8 then some false else if v == 3#8 then some true else none
/-- The size field of an AMO. -/
def amoSizeCode (dbl : Bool) : Byte := if dbl then 3#8 else 2#8

/-- The LD slot (R295, R373 to R386). -/
def fieldsLD (op l : Nat) (g : Guard) (b : BitVec 19) (w2 : W32) : Option Instr :=
  let d := sa3_a b
  let a := sa3_b b
  let row (k : VRange → Fmt → Instr) : Option Instr :=
    (rangeOf (mr1_w b) (mr1_part b)).bind fun r => (fmtOf (mr1_tag b)).bind fun t => ck (mr1_fn b == 0#6) (k r t)
  match op with
  | 0x00 => ck (b == 0#19) (.nop g)
  | 0x01 => row fun r t => .ld g r t (mr1_base b) (mr2_v w2) (mr2_off w2)
  | 0x02 => row fun r t => .lds g r t (mr1_base b) (mr2_v w2) (mr2_off w2)
  | 0x03 => row fun r t => .ldt g r t (mr1_base b) (mr2_v w2) (mr2_off w2)
  | 0x04 => (gmSizeOf (gm2_size w2)).bind fun z =>
      ck (sa3_fn b == 0#4) (.ldg g d a (sa3_c b) (gm2_dl w2) (gmFlags w2) z)
  | 0x05 => msForms l b w2 (.ldw g d a) (.ldwLong g d a)
  | 0x06 => msForms l b w2 (.ldws g d a) (.ldwsLong g d a)
  | 0x07 => (sideOf (fb1_port b)).bind fun p => ck (fb1_fn b == 0#8 && w2 == 0#32) (.recv g (fb1_v b) p)
  | 0x08 => msForms l b w2 (.ldb g d a) (.ldbLong g d a)
  | _ => none

/-- The ST slot (R295, R373 to R390). -/
def fieldsST (op l : Nat) (g : Guard) (b : BitVec 19) (w2 w3 : W32) : Option Instr :=
  let d := sa3_a b
  let a := sa3_b b
  let s := sa3_c b
  let fn := sa3_fn b
  let row (k : VRange → Option Instr) : Option Instr :=
    (rangeOf (mr1_w b) (mr1_part b)).bind fun r => if mr1_fn b == 0#6 then k r else none
  match op with
  | 0x00 => ck (b == 0#19) (.nop g)
  | 0x01 => row fun r => ck (mr1_tag b == 0#4) (.st g r (mr1_base b) (mr2_v w2) (mr2_off w2))
  | 0x02 => row fun r => (fmtOf (mr1_tag b)).map fun t => .stt g r t (mr1_base b) (mr2_v w2) (mr2_off w2)
  | 0x03 => row fun r => ck (mr1_tag b == 13#4) (.sct g r (mr1_base b) (mr2_v w2) (mr2_off w2))
  | 0x04 => msForms l b w2 (.stw g d a) (.stwLong g d a)
  | 0x05 => ck (fb1_port b == 0#2 && fb1_fn b == 0#8 && fb2_z w2 == 0#14)
      (.send g (fb1_v b) (fb2_dx w2) (fb2_dy w2) (isOne (fb2_yx w2)))
  | 0x06 => (gmSizeOf (gm2_size w2)).bind fun z => ck (fn == 0#4) (.gst g d a s (gm2_dl w2) (gmFlags w2) z)
  | 0x07 => (amoSizeOf (gm2_size w2)).bind fun z =>
      if fn == 10#4 then some (.amoCas g d a s (gm2_dl w2) (gmFlags w2) z w3)
      else (amoFormOf fn).map fun f => .amo g f d a s (gm2_dl w2) (gmFlags w2) z
  | 0x08 => ck (d == 0#5 && fn == 0#4 && gm2_dl w2 == 0#16 && gm2_acq w2 == 0#1 && gm2_size w2 == 2#8)
      (.wake g a s (gm2_scope w2) (isOne (gm2_rel w2)))
  | _ => none

/-- R365: the literal of a CPT as an MM word 1. -/
def followOf (w : W32) : Option Follow :=
  let b := bodyOf w
  if lenOf w == 1#2 then
    (if opOf w == 1#6 then some false else if opOf w == 2#6 then some true else none).bind fun s =>
      (fmtOf (mm1_fa b)).bind fun fa => (fmtOf (mm1_fb b)).map fun fb => ⟨guardOf w, s, mm1_acc b, mm1_nk b, fa, fb⟩
  else none
/-- The literal of a CPT with a follow-on. -/
def followWord (f : Follow) : W32 :=
  head 1#2 (if f.scaled then 2#6 else 1#6) f.g (mm1 f.acc f.nk (fmtCode f.fa) (fmtCode f.fb))

/-- The CP slot (R295, R360 to R372). -/
def fieldsCP (op l : Nat) (g : Guard) (b : BitVec 19) (w2 w3 : W32) : Option Instr :=
  let sa := sa3_a b
  let sb := sa3_b b
  let sc := sa3_c b
  let fn := sa3_fn b
  let noScope := ec2_scope w2 == 0#6 && ec2_acq w2 == 0#1 && ec2_rel w2 == 0#1
  let noSwz := ec2_sz w2 == 0#1 && ec2_side w2 == 0#1 && ec2_kind w2 == 0#2
  let swz := ec2_sz w2 == 0#1
  let flds := ec2_flds w2
  let side := isOne (ec2_side w2)
  let sweep (bcs : Bool) (k : SweepOp → Instr) : Option Instr :=
    (sweepOpOf (sw2_opr w2)).bind fun o =>
      ck (sw1_z b == 0#1 && (bcs || sw1_sr b == 0#5) && sw2_ar w2 == 0#2 && sw2_z w2 == 0#11) (k o)
  match op with
  | 0x00 => ck (b == 0#19) (.nop g)
  | 0x01 => (swzOf (ec2_kind w2)).bind fun k =>
      ck (sc == 0#5 && fn == 0#4 && noScope && swz && flds == 0#12) (.cpy g sa sb (ec2_cnt w2) side k)
  | 0x02 => (swzOf (ec2_kind w2)).bind fun k => (rows6 (ec2_cnt w2)).bind fun m => (twoOf flds).bind fun ch =>
      if fn == 0#4 && noScope && swz then
        if l == 1 then ck (sc == 0#5) (.cpt g ch sa sb m side k)
        else (followOf w3).map fun f => .cptFollow g ch sa sb m side k sc f
      else none
  | 0x03 => (sideOf (flds.extractLsb' 0 2)).bind fun dir =>
      ck (sc == 0#5 && fn == 0#4 && noScope && noSwz && flds.extractLsb' 2 10 == 0#10) (.cpn g dir sa sb (ec2_cnt w2))
  | 0x04 => ck (fn == 0#4 && ec2_cnt w2 == 0#8 && noSwz && flds == 0#12) (.stg g sa sb sc (ecFlags w2) w3)
  | 0x05 => ck (fn == 0#4 && ec2_cnt w2 == 0#8 && noSwz && flds == 0#12) (.stp g sa sb sc (ecFlags w2) w3)
  | 0x06 => (rows5 (ec2_cnt w2)).bind fun m =>
      ck (sb == 0#5 && sc == 0#5 && fn == 0#4 && noScope && noSwz && acpF_z flds == 0#2)
        (.acp g (isOne (acpF_inn flds)) (isOne (acpF_i32 flds)) (acpF_acc flds) sa (acpF_r0 flds) m)
  | 0x07 => if sw1_fn b == 0#4 then sweep false fun o => .cav g o (sw1_vd b) (sw2_vs w2) (sw2_scope w2) else none
  | 0x08 => if sw1_fn b == 0#4 then sweep false fun o => .ard g o (sw1_vd b) (sw2_vs w2) (sw2_scope w2) else none
  | 0x09 => (twoOf (sw1_fn b)).bind fun ex => sweep false fun o => .scn g ex o (sw1_vd b) (sw2_vs w2) (sw2_scope w2)
  | 0x0A => if sw2_opr w2 == 0#4 && sw1_fn b == 0#4 then
      sweep true fun _ => .bcs g (sw1_vd b) (sw2_vs w2) (sw1_sr b) (sw2_scope w2) else none
  | 0x0B => ck (sb == 0#5 && sc == 0#5 && fn == 0#4 && ec2_acq w2 == 0#1 && ec2_cnt w2 == 0#8 && noSwz && flds == 0#12)
      (.crdy g sa (ec2_scope w2) (isOne (ec2_rel w2)))
  | 0x0C => ck (sb == 0#5 && sc == 0#5 && fn == 0#4 && noScope && noSwz && flds == 0#12) (.cpz g sa (ec2_cnt w2))
  | _ => none

/-- The instruction a slot's prefix and words hold; none where a field is reserved or out of range. -/
def fields (c : Stream) (s : Slot) (op l : Nat) (g : Guard) (x : Prefix) (b : BitVec 19) (w2 w3 : W32) :
    Option Instr :=
  match s with
  | .sc => fieldsSC c op l g x b w2 w3
  | .va => fieldsV op l g x b w2 w3
  | .vb => fieldsV op l g x b w2 w3
  | .mx => fieldsMX op g x b w2
  | .ld => fieldsLD op l g b w2
  | .st => fieldsST op l g b w2 w3
  | .cp => fieldsCP op l g b w2 w3
  | .sy => fieldsSY op l g b w2

/-- R283 step 8 of one slot: the instruction, or the subcode of cause 0x06 in the order of that step. -/
def slotInstr (c : Stream) (s : Slot) (pre : Option W32) (w1 w2 w3 : W32) : Except Nat Instr :=
  let op := (opOf w1).toNat
  let l := (lenOf w1).toNat
  let b := bodyOf w1
  match opRow c s op b with
  | none => .error 1
  | some r =>
    if !lenOk s r op l b then .error 3
    else if !kindOk r pre then .error 4
    else
      match (prefixOfWord pre).bind fun x => fields c s op l (guardOf w1) x b w2 w3 with
      | some i => if i.wf then .ok i else .error 2
      | none => .error 2

end Dec

/-! ## The encoder -/

open Dec

/-- The slot an instruction stands in; VA for the vector instructions, which VB takes as well. None for events.
NOP stands in every slot (R291); SC is given. -/
def Instr.slot : Instr → Option Slot
  | .nop .. | .add .. | .sub .. | .addi .. | .addiLong .. | .mul .. | .mulh .. | .div .. | .and .. | .or .. | .xor ..
  | .andn .. | .shl .. | .shr .. | .sra .. | .rot .. | .min .. | .max .. | .bit .. | .ext .. | .ins .. | .sel ..
  | .mov .. | .movi .. | .moviLong .. | .moviWide .. | .lea .. | .leaLong .. | .cmp .. | .cmpi .. | .cmpiLong ..
  | .plog .. | .fop .. | .fma .. | .fcmp .. | .fcvt .. | .rdc .. | .rdw .. | .rds .. | .wrs .. => some .sc
  | .pbr .. | .pbrx .. | .br .. | .call .. | .ret .. | .brdec .. | .waitc .. | .waitcLong .. | .waitn ..
  | .waitnLong .. | .bar .. | .chk .. | .chkP .. | .chkV .. | .chkB .. | .drain .. | .drainLong .. | .endTask ..
  | .trap .. | .sysc .. | .align .. | .frz .. | .rfz .. | .ltf .. | .stf .. => some .sy
  | .vadd .. | .vaddLit .. | .vsub .. | .vsubLit .. | .vmul .. | .vmulLit .. | .vfma .. | .vfmaLit .. | .vfms ..
  | .vfmsLit .. | .vfnm .. | .vfnmLit .. | .vmin .. | .vminLit .. | .vmax .. | .vmaxLit .. | .vun .. | .vsf ..
  | .vcmp .. | .vcmpLit .. | .vsel .. | .vand .. | .vandLit .. | .vor .. | .vorLit .. | .vxor .. | .vxorLit ..
  | .vandn .. | .vandnLit .. | .vshl .. | .vshlLit .. | .vshr .. | .vshrLit .. | .viadd .. | .viaddLit ..
  | .vimul .. | .vimulLit .. | .vimm .. | .vimmLit .. | .vcvt .. | .vqnt .. | .vdq .. | .vred .. | .vscan ..
  | .vperm .. | .vshuf .. | .vbcL .. | .vbcI .. | .vext .. | .vins .. | .vmov .. | .viota .. | .vcmul .. | .vbfly ..
  | .vcls .. | .vtag .. | .vmsk .. => some .va
  | .mma .. | .mmas .. | .mzero .. | .amv .. | .amvt .. | .ald .. | .aadd .. => some .mx
  | .ld .. | .lds .. | .ldt .. | .ldg .. | .ldw .. | .ldwLong .. | .ldws .. | .ldwsLong .. | .ldb .. | .ldbLong ..
  | .recv .. => some .ld
  | .st .. | .stt .. | .sct .. | .stw .. | .stwLong .. | .send .. | .gst .. | .amo .. | .amoCas .. | .wake .. => some .st
  | .cpy .. | .cpz .. | .cpt .. | .cptFollow .. | .cpn .. | .stg .. | .stp .. | .acp .. | .cav .. | .ard .. | .scn ..
  | .bcs .. | .crdy .. => some .cp
  | _ => none

/-- The prefix of an instruction. -/
def Instr.pre : Instr → Prefix
  | .add _ x .. | .sub _ x .. | .addi _ x .. | .addiLong _ x .. | .mul _ x .. | .mulh _ x .. | .div _ x ..
  | .and _ x .. | .or _ x .. | .xor _ x .. | .andn _ x .. | .shl _ x .. | .shr _ x .. | .sra _ x .. | .rot _ x ..
  | .min _ x .. | .max _ x .. | .bit _ x .. | .ext _ x .. | .ins _ x .. | .lea _ x .. | .leaLong _ x .. | .cmp _ x ..
  | .cmpi _ x .. | .cmpiLong _ x .. | .vun _ x .. | .vsel _ x .. | .vand _ x .. | .vandLit _ x .. | .vor _ x ..
  | .vorLit _ x .. | .vxor _ x .. | .vxorLit _ x .. | .vandn _ x .. | .vandnLit _ x .. | .vimm _ x ..
  | .vimmLit _ x .. | .vperm _ x .. | .vshuf _ x .. | .vext _ x .. | .vins _ x .. | .vcls _ x .. | .vmsk _ x .. => ofX x
  | .fop _ x .. | .fma _ x .. | .fcmp _ x .. | .fcvt _ x .. | .vadd _ x .. | .vaddLit _ x .. | .vsub _ x ..
  | .vsubLit _ x .. | .vmul _ x .. | .vmulLit _ x .. | .vfma _ x .. | .vfmaLit _ x .. | .vfms _ x .. | .vfmsLit _ x ..
  | .vfnm _ x .. | .vfnmLit _ x .. | .vmin _ x .. | .vminLit _ x .. | .vmax _ x .. | .vmaxLit _ x .. | .vsf _ x ..
  | .vcmp _ x .. | .vcmpLit _ x .. | .vshl _ x .. | .vshlLit _ x .. | .vshr _ x .. | .vshrLit _ x .. | .viadd _ x ..
  | .viaddLit _ x .. | .vimul _ x .. | .vimulLit _ x .. | .vcvt _ x .. | .vqnt _ x .. | .vdq _ x .. | .vred _ x ..
  | .vscan _ x .. | .vcmul _ x .. | .vbfly _ x .. => x
  | .amv _ m .. | .amvt _ m .. => ofM m
  | _ => .none

/-- The words of an instruction after its prefix, as its class lays them out (R285 to R295). -/
def Instr.words : Instr → List W32
  | .nop g => [head 0#2 0#6 g 0#19]
  | .add g _ d a b => [head 0#2 0x01#6 g (sa3 d a b 0#4)]
  | .sub g _ d a b => [head 0#2 0x02#6 g (sa3 d a b 0#4)]
  | .mul g _ d a b => [head 0#2 0x04#6 g (sa3 d a b 0#4)]
  | .and g _ d a b => [head 0#2 0x07#6 g (sa3 d a b 0#4)]
  | .or g _ d a b => [head 0#2 0x08#6 g (sa3 d a b 0#4)]
  | .xor g _ d a b => [head 0#2 0x09#6 g (sa3 d a b 0#4)]
  | .andn g _ d a b => [head 0#2 0x0A#6 g (sa3 d a b 0#4)]
  | .shl g _ d a b => [head 0#2 0x0B#6 g (sa3 d a b 0#4)]
  | .shr g _ d a b => [head 0#2 0x0C#6 g (sa3 d a b 0#4)]
  | .sra g _ d a b => [head 0#2 0x0D#6 g (sa3 d a b 0#4)]
  | .addi g _ d a imm => [head 0#2 0x03#6 g (si d a imm)]
  | .addiLong g _ d a imm => [head 1#2 0x03#6 g (sa3 d a 0#5 0#4), imm]
  | .mulh g _ u d a b => [head 0#2 0x05#6 g (sa3 d a b (twoCode 4 u))]
  | .div g _ f d a b => [head 0#2 0x06#6 g (sa3 d a b (divFormCode f))]
  | .rot g _ u d a b => [head 0#2 0x0E#6 g (sa3 d a b (twoCode 4 u))]
  | .min g _ u d a b => [head 0#2 0x0F#6 g (sa3 d a b (twoCode 4 u))]
  | .max g _ u d a b => [head 0#2 0x10#6 g (sa3 d a b (twoCode 4 u))]
  | .bit g _ f d a => [head 0#2 0x11#6 g (sa3 d a 0#5 (bitFormCode f))]
  | .ext g _ d a sx len pos => [head 1#2 0x12#6 g (sa3 d a 0#5 0#4), fld 0#19 (oneBit sx) len pos]
  | .ins g _ d a len pos => [head 1#2 0x13#6 g (sa3 d a 0#5 0#4), fld 0#19 0#1 len pos]
  | .sel g d a b => [head 0#2 0x14#6 g (sa3 d a b 0#4)]
  | .mov g d a => [head 0#2 0x15#6 g (sa3 d a 0#5 0#4)]
  | .movi g d imm => [head 0#2 0x16#6 g (si d 0#5 imm)]
  | .moviLong g t d imm => [head 1#2 0x16#6 g (sa3 d 0#5 0#5 (moviTagCode t)), imm]
  | .moviWide g raw d imm =>
    [head 2#2 0x16#6 g (sa3 d 0#5 0#5 (if raw then 2#4 else 0#4)), imm.extractLsb' 32 32, imm.extractLsb' 0 32]
  | .lea g _ d imm => [head 0#2 0x17#6 g (si d 0#5 imm)]
  | .leaLong g _ d a imm => [head 1#2 0x17#6 g (sa3 d a 0#5 0#4), imm]
  | .cmp g _ r pd a b => [head 0#2 0x18#6 g (cmpW 0#1 pd a b (relCode r))]
  | .cmpi g _ lt pd a imm => [head 0#2 0x19#6 g (cmpiW (oneBit lt) pd a imm)]
  | .cmpiLong g _ r pd a imm => [head 1#2 0x19#6 g (cmpW 0#1 pd a 0#5 (relCode r)), imm]
  | .plog g op pd na pa nb pb => [head 0#2 0x1A#6 g (plogW 0#1 pd (oneBit na) pa (oneBit nb) pb (plogOpCode op))]
  | .fop g _ f d a b => [head 0#2 0x1B#6 g (sa3 d a b (fopFormCode f))]
  | .fma g _ f d a b => [head 0#2 0x1C#6 g (sa3 d a b (fmaFormCode f))]
  | .fcmp g _ r pd a b => [head 0#2 0x1D#6 g (cmpW 0#1 pd a b (fRelCode r))]
  | .fcvt g _ f d a => [head 0#2 0x1E#6 g (sa3 d a 0#5 (cvtFormCode f))]
  | .rdc g l d => [head 0#2 0x1F#6 g (sa3 d 0#5 0#5 (twoCode 4 l))]
  | .rdw g d level => [head 0#2 0x20#6 g (rdwW d 0#5 0#3 level)]
  | .rds g d num => [head 1#2 0x21#6 g (sa3 d 0#5 0#5 0#4), num]
  | .wrs g num a => [head 1#2 0x22#6 g (sa3 0#5 a 0#5 0#4), num]
  | .pbr g b imm => [head 0#2 0x01#6 g (bt b imm)]
  | .pbrx g b a => [head 0#2 0x02#6 g (pbrxW 0#2 b a 0#5 0#4)]
  | .br g b => [head 0#2 0x03#6 g (bt b 0#16)]
  | .call g b => [head 0#2 0x04#6 g (bt b 0#16)]
  | .ret g b => [head 0#2 0x05#6 g (bt b 0#16)]
  | .brdec g d b => [head 0#2 0x06#6 g (brdecW d 0#2 b 0#5 0#4)]
  | .waitc g a => [head 0#2 0x07#6 g (sa3 0#5 a 0#5 0#4)]
  | .waitcLong g a imm => [head 1#2 0x07#6 g (sa3 0#5 a 0#5 0#4), imm]
  | .waitn g n => [head 0#2 0x08#6 g (si 0#5 0#5 n)]
  | .waitnLong g n => [head 1#2 0x08#6 g 0#19, n]
  | .bar g a level off => [head 1#2 0x09#6 g (sa3 0#5 a 0#5 0#4), lvl level off]
  | .chk g a b => [head 0#2 0x0A#6 g (sa3 0#5 a b 0#4)]
  | .chkP g pa pb => [head 0#2 0x0A#6 g (chkPW 0#5 0#1 pa 0#1 pb 1#4)]
  | .chkV g v => [head 0#2 0x0A#6 g (chkVW (v.extractLsb' 4 5) 0#1 (v.extractLsb' 0 4) 0#5 2#4)]
  | .chkB g ba bb => [head 0#2 0x0A#6 g (chkBW 0#5 0#2 ba 0#2 bb 3#4)]
  | .drain g level n => [head 0#2 0x0B#6 g (si level 0#5 n)]
  | .drainLong g a level off => [head 1#2 0x0B#6 g (sa3 0#5 a 0#5 0#4), lvl level off]
  | .endTask g => [head 0#2 0x0C#6 g 0#19]
  | .trap g n => [head 0#2 0x0D#6 g (imm8 0#11 n)]
  | .sysc g n => [head 0#2 0x0E#6 g (imm8 0#11 n)]
  | .align g d => [head 0#2 0x0F#6 g (sa3 d 0#5 0#5 0#4)]
  | .frz g d => [head 0#2 0x10#6 g (sa3 d 0#5 0#5 0#4)]
  | .rfz g kill d => [head 0#2 0x11#6 g (sa3 d 0#5 0#5 (twoCode 4 kill))]
  | .ltf g sp d a off => [head 1#2 0x12#6 g (sa3 d a 0#5 (spaceCode sp)), off]
  | .stf g sp d a off => [head 1#2 0x13#6 g (sa3 d a 0#5 (spaceCode sp)), off]
  | .vadd g _ v vd va vb => [head 1#2 0x01#6 g (vecBody v 0#4), va2 vd va vb 0#5]
  | .vaddLit g _ v vd va lit => [head 2#2 0x01#6 g (vecBody v 0#4), va2 vd va 0#9 0#5, lit]
  | .vsub g _ v vd va vb => [head 1#2 0x02#6 g (vecBody v 0#4), va2 vd va vb 0#5]
  | .vsubLit g _ v vd va lit => [head 2#2 0x02#6 g (vecBody v 0#4), va2 vd va 0#9 0#5, lit]
  | .vmul g _ v vd va vb => [head 1#2 0x03#6 g (vecBody v 0#4), va2 vd va vb 0#5]
  | .vmulLit g _ v vd va lit => [head 2#2 0x03#6 g (vecBody v 0#4), va2 vd va 0#9 0#5, lit]
  | .vfma g _ v vd va vb => [head 1#2 0x04#6 g (vecBody v 0#4), va2 vd va vb 0#5]
  | .vfmaLit g _ v vd va lit => [head 2#2 0x04#6 g (vecBody v 0#4), va2 vd va 0#9 0#5, lit]
  | .vfms g _ v vd va vb => [head 1#2 0x05#6 g (vecBody v 0#4), va2 vd va vb 0#5]
  | .vfmsLit g _ v vd va lit => [head 2#2 0x05#6 g (vecBody v 0#4), va2 vd va 0#9 0#5, lit]
  | .vfnm g _ v vd va vb => [head 1#2 0x06#6 g (vecBody v 0#4), va2 vd va vb 0#5]
  | .vfnmLit g _ v vd va lit => [head 2#2 0x06#6 g (vecBody v 0#4), va2 vd va 0#9 0#5, lit]
  | .vmin g _ v vd va vb => [head 1#2 0x07#6 g (vecBody v 0#4), va2 vd va vb 0#5]
  | .vminLit g _ v vd va lit => [head 2#2 0x07#6 g (vecBody v 0#4), va2 vd va 0#9 0#5, lit]
  | .vmax g _ v vd va vb => [head 1#2 0x08#6 g (vecBody v 0#4), va2 vd va vb 0#5]
  | .vmaxLit g _ v vd va lit => [head 2#2 0x08#6 g (vecBody v 0#4), va2 vd va 0#9 0#5, lit]
  | .vun g _ v f vd va vb => [head 1#2 0x09#6 g (vecBody v (unFormCode f)), va2 vd va vb 0#5]
  | .vsf g _ v f vd va => [head 1#2 0x0A#6 g (vecBody v (sfFormCode f)), va2 vd va 0#9 0#5]
  | .vcmp g _ v r vd va vb => [head 1#2 0x0B#6 g (vecBody v 0#4), va2 vd va vb (vRelCode r)]
  | .vcmpLit g _ v r vd va lit => [head 2#2 0x0B#6 g (vecBody v 0#4), va2 vd va 0#9 (vRelCode r), lit]
  | .vsel g _ r vd va vb vn =>
    [head 1#2 0x0C#6 g (va1 (vWidthCode r.w) r.part 0#4 1#2 vn), va2 vd va vb 0#5]
  | .vand g _ v vd va vb => [head 1#2 0x0D#6 g (vecBody v 0#4), va2 vd va vb 0#5]
  | .vandLit g _ v vd va lit => [head 2#2 0x0D#6 g (vecBody v 0#4), va2 vd va 0#9 0#5, lit]
  | .vor g _ v vd va vb => [head 1#2 0x0E#6 g (vecBody v 0#4), va2 vd va vb 0#5]
  | .vorLit g _ v vd va lit => [head 2#2 0x0E#6 g (vecBody v 0#4), va2 vd va 0#9 0#5, lit]
  | .vxor g _ v vd va vb => [head 1#2 0x0F#6 g (vecBody v 0#4), va2 vd va vb 0#5]
  | .vxorLit g _ v vd va lit => [head 2#2 0x0F#6 g (vecBody v 0#4), va2 vd va 0#9 0#5, lit]
  | .vandn g _ v vd va vb => [head 1#2 0x10#6 g (vecBody v 0#4), va2 vd va vb 0#5]
  | .vandnLit g _ v vd va lit => [head 2#2 0x10#6 g (vecBody v 0#4), va2 vd va 0#9 0#5, lit]
  | .vshl g _ v vd va vb => [head 1#2 0x11#6 g (vecBody v 0#4), va2 vd va vb 0#5]
  | .vshlLit g _ v vd va lit => [head 2#2 0x11#6 g (vecBody v 0#4), va2 vd va 0#9 0#5, lit]
  | .vshr g _ v f vd va vb => [head 1#2 0x12#6 g (vecBody v (shrFormCode f)), va2 vd va vb 0#5]
  | .vshrLit g _ v f vd va lit => [head 2#2 0x12#6 g (vecBody v (shrFormCode f)), va2 vd va 0#9 0#5, lit]
  | .viadd g _ v f vd va vb => [head 1#2 0x13#6 g (vecBody v (twoCode 4 f)), va2 vd va vb 0#5]
  | .viaddLit g _ v f vd va lit => [head 2#2 0x13#6 g (vecBody v (twoCode 4 f)), va2 vd va 0#9 0#5, lit]
  | .vimul g _ v f vd va vb => [head 1#2 0x14#6 g (vecBody v (mulFormCode f)), va2 vd va vb 0#5]
  | .vimulLit g _ v f vd va lit => [head 2#2 0x14#6 g (vecBody v (mulFormCode f)), va2 vd va 0#9 0#5, lit]
  | .vimm g _ v f vd va vb => [head 1#2 0x15#6 g (vecBody v (mmFormCode f)), va2 vd va vb 0#5]
  | .vimmLit g _ v f vd va lit => [head 2#2 0x15#6 g (vecBody v (mmFormCode f)), va2 vd va 0#9 0#5, lit]
  | .vcvt g _ v t p vd va => [head 1#2 0x16#6 g (vecBody v (0#1 ++ p)), va2 vd va 0#9 (tgtCode t)]
  | .vqnt g _ v t p soff vd va => [head 1#2 0x17#6 g (vecBody v (0#1 ++ p)), va2 vd va soff (tgtCode t)]
  | .vdq g _ v t p soff vd va => [head 1#2 0x18#6 g (vecBody v (0#1 ++ p)), va2 vd va soff (tgtCode t)]
  | .vred g _ v op vd va => [head 1#2 0x19#6 g (vecBody v (0#1 ++ redOpCode op)), va2 vd va 0#9 0#5]
  | .vscan g _ v op ex vd va => [head 1#2 0x1A#6 g (vecBody v (oneBit ex ++ redOpCode op)), va2 vd va 0#9 0#5]
  | .vperm g _ v wrap vd va vb => [head 1#2 0x1B#6 g (vecBody v (twoCode 4 wrap)), va2 vd va vb 0#5]
  | .vshuf g _ v f vd va vb => [head 1#2 0x1C#6 g (vecBody v (shufFn f)), va2 vd va vb (shufX5 f)]
  | .vbcL g v vd va k => [head 1#2 0x1D#6 g (vecBody v 0#4), va2 vd va (byteField k) 0#5]
  | .vbcI g v t vd lit => [head 2#2 0x1D#6 g (vecBody v 1#4), va2 vd 0#9 0#9 (tgtCode t), lit]
  | .vext g _ r d va k => [head 1#2 0x1E#6 g (vecBodyR r 0#4), va2 (scalarField d) va (byteField k) 0#5]
  | .vins g _ r vd a k => [head 1#2 0x1F#6 g (vecBodyR r 0#4), va2 vd (scalarField a) (byteField k) 0#5]
  | .vmov g v vd va => [head 1#2 0x20#6 g (vecBody v 0#4), va2 vd va 0#9 0#5]
  | .viota g v t vd base => [head 1#2 0x21#6 g (vecBody v 0#4), va2 vd 0#9 base (tgtCode t)]
  | .vcmul g _ v conj vd va vb => [head 1#2 0x22#6 g (vecBody v (twoCode 4 conj)), va2 vd va vb 0#5]
  | .vbfly g _ v dif vd va vb => [head 1#2 0x23#6 g (vecBody v (twoCode 4 dif)), va2 vd va vb 0#5]
  | .vcls g _ v cls vd va => [head 1#2 0x24#6 g (vecBody v (twoCode 4 cls)), va2 vd va 0#9 0#5]
  | .vtag g v t vd va => [head 1#2 0x25#6 g (vecBody v 0#4), va2 vd va 0#9 (tgtCode t)]
  | .vmsk g _ r f d va => [head 1#2 0x26#6 g (vecBodyR r (mskFormCode f)), va2 (scalarField d) va 0#9 0#5]
  | .mma g z acc nk fa fb => [head 1#2 0x01#6 g (mm1 acc nk (fmtCode fa) (fmtCode fb)), mm2 0#9 0#9 0#5 31#5 (twoCode 4 z)]
  | .mmas g z acc nk fa fb vsa vsb =>
    [head 1#2 0x02#6 g (mm1 acc nk (fmtCode fa) (fmtCode fb)), mm2 vsa vsb 0#5 31#5 (twoCode 4 z)]
  | .mzero g acc fp r0 nr => [head 1#2 0x03#6 g (mm1 acc 0#8 (accFmtCode fp) 0#4), mm2 0#9 0#9 r0 nr 0#4]
  | .amv g _ acc t vd r0 nr => [head 1#2 0x04#6 g (mm1 acc 0#8 (fmtCode t) 0#4), mm2 vd 0#9 r0 nr 0#4]
  | .amvt g _ acc t vd c0 nc => [head 1#2 0x05#6 g (mm1 acc 0#8 (fmtCode t) 0#4), mm2 vd 0#9 c0 nc 0#4]
  | .ald g acc fp vs r0 nr => [head 1#2 0x06#6 g (mm1 acc 0#8 (accFmtCode fp) 0#4), mm2 vs 0#9 r0 nr 0#4]
  | .aadd g acc fp vs r0 nr => [head 1#2 0x07#6 g (mm1 acc 0#8 (accFmtCode fp) 0#4), mm2 vs 0#9 r0 nr 0#4]
  | .ld g r t base v off => [head 1#2 0x01#6 g (mrBody r (fmtCode t) base 0#6), mr2 v off]
  | .lds g r t base v off => [head 1#2 0x02#6 g (mrBody r (fmtCode t) base 0#6), mr2 v off]
  | .ldt g r t base v stride => [head 1#2 0x03#6 g (mrBody r (fmtCode t) base 0#6), mr2 v stride]
  | .ldg g d a b dl fl sz =>
    [head 1#2 0x04#6 g (sa3 d a b 0#4), gm2 dl fl.scope (oneBit fl.acq) (oneBit fl.rel) (gmSizeCode sz)]
  | .ldw g d a sz off => [head 0#2 0x05#6 g (ms1 d a (sizeCode sz) off)]
  | .ldwLong g d a sz off => [head 1#2 0x05#6 g (ms1 d a (sizeCode sz) 0#6), off]
  | .ldws g d a sz off => [head 0#2 0x06#6 g (ms1 d a (sizeCode sz) off)]
  | .ldwsLong g d a sz off => [head 1#2 0x06#6 g (ms1 d a (sizeCode sz) 0#6), off]
  | .ldb g d a sz off => [head 0#2 0x08#6 g (ms1 d a (sizeCode sz) off)]
  | .ldbLong g d a sz off => [head 1#2 0x08#6 g (ms1 d a (sizeCode sz) 0#6), off]
  | .recv g v port => [head 1#2 0x07#6 g (fb1 v (sideCode port) 0#8), 0#32]
  | .st g r base v off => [head 1#2 0x01#6 g (mrBody r 0#4 base 0#6), mr2 v off]
  | .stt g r t base v off => [head 1#2 0x02#6 g (mrBody r (fmtCode t) base 0#6), mr2 v off]
  | .sct g r base v off => [head 1#2 0x03#6 g (mrBody r 13#4 base 0#6), mr2 v off]
  | .stw g d a sz off => [head 0#2 0x04#6 g (ms1 d a (sizeCode sz) off)]
  | .stwLong g d a sz off => [head 1#2 0x04#6 g (ms1 d a (sizeCode sz) 0#6), off]
  | .send g v dx dy yx => [head 1#2 0x05#6 g (fb1 v 0#2 0#8), fb2 dx dy (oneBit yx) 0#14]
  | .gst g d a b dl fl sz =>
    [head 1#2 0x06#6 g (sa3 d a b 0#4), gm2 dl fl.scope (oneBit fl.acq) (oneBit fl.rel) (gmSizeCode sz)]
  | .amo g f d a b dl fl dbl =>
    [head 1#2 0x07#6 g (sa3 d a b (amoFormCode f)), gm2 dl fl.scope (oneBit fl.acq) (oneBit fl.rel) (amoSizeCode dbl)]
  | .amoCas g d a b dl fl dbl k =>
    [head 2#2 0x07#6 g (sa3 d a b 10#4), gm2 dl fl.scope (oneBit fl.acq) (oneBit fl.rel) (amoSizeCode dbl), k]
  | .wake g a b scope rel => [head 1#2 0x08#6 g (sa3 0#5 a b 0#4), gm2 0#16 scope 0#1 (oneBit rel) 2#8]
  | .cpy g da sa rows side kind =>
    [head 1#2 0x01#6 g (sa3 da sa 0#5 0#4), ec2 0#6 0#1 0#1 rows 0#1 (oneBit side) (swzCode kind) 0#12]
  | .cpz g da rows => [head 1#2 0x0C#6 g (sa3 da 0#5 0#5 0#4), ec2 0#6 0#1 0#1 rows 0#1 0#1 0#2 0#12]
  | .cpt g b sa sb rows side kind =>
    [head 1#2 0x02#6 g (sa3 sa sb 0#5 0#4),
      ec2 0#6 0#1 0#1 (rows6Field rows) 0#1 (oneBit side) (swzCode kind) (twoCode 12 b)]
  | .cptFollow g b sa sb rows side kind sc f =>
    [head 2#2 0x02#6 g (sa3 sa sb sc 0#4),
      ec2 0#6 0#1 0#1 (rows6Field rows) 0#1 (oneBit side) (swzCode kind) (twoCode 12 b), followWord f]
  | .cpn g dir da sa rows =>
    [head 1#2 0x03#6 g (sa3 da sa 0#5 0#4), ec2 0#6 0#1 0#1 rows 0#1 0#1 0#2 (0#10 ++ sideCode dir)]
  | .stg g sa sb sc fl dl =>
    [head 2#2 0x04#6 g (sa3 sa sb sc 0#4), ec2 fl.scope (oneBit fl.acq) (oneBit fl.rel) 0#8 0#1 0#1 0#2 0#12, dl]
  | .stp g sa sb sc fl dl =>
    [head 2#2 0x05#6 g (sa3 sa sb sc 0#4), ec2 fl.scope (oneBit fl.acq) (oneBit fl.rel) 0#8 0#1 0#1 0#2 0#12, dl]
  | .acp g inn i32 acc sa r0 nr =>
    [head 1#2 0x06#6 g (sa3 sa 0#5 0#5 0#4),
      ec2 0#6 0#1 0#1 (rows5Field nr) 0#1 0#1 0#2 (acpF 0#2 r0 (oneBit i32) (oneBit inn) acc)]
  | .cav g op vd vs scope => [head 1#2 0x07#6 g (sw1 vd 0#1 0#5 0#4), sw2 scope 0#2 (sweepOpCode op) 0#11 vs]
  | .ard g op vd vs scope => [head 1#2 0x08#6 g (sw1 vd 0#1 0#5 0#4), sw2 scope 0#2 (sweepOpCode op) 0#11 vs]
  | .scn g ex op vd vs scope =>
    [head 1#2 0x09#6 g (sw1 vd 0#1 0#5 (twoCode 4 ex)), sw2 scope 0#2 (sweepOpCode op) 0#11 vs]
  | .bcs g vd vs sr scope => [head 1#2 0x0A#6 g (sw1 vd 0#1 sr 0#4), sw2 scope 0#2 0#4 0#11 vs]
  | .crdy g a scope rel =>
    [head 1#2 0x0B#6 g (sa3 a 0#5 0#5 0#4), ec2 scope 0#1 (oneBit rel) 0#8 0#1 0#1 0#2 0#12]
  | _ => []

/-- The words of a slot that holds the instruction, prefix first. -/
def encode (i : Instr) : List W32 :=
  match prefixWord i.pre with
  | some w => w :: i.words
  | none => i.words


/-! ## Bundles (R278 to R284) -/

namespace Dec

/-- R263: the slots in order. -/
def allSlots : List Slot := [.sc, .va, .vb, .mx, .ld, .st, .cp, .sy]

/-- R263: the number of a slot. -/
def slotNum : Slot → Nat
  | .sc => 0 | .va => 1 | .vb => 2 | .mx => 3 | .ld => 4 | .st => 5 | .cp => 6 | .sy => 7

/-- A slot the walk reached: its prefix and its words. -/
structure Placed where
  slot : Slot
  pre : Option W32
  words : List W32
  deriving DecidableEq, Repr

/-- What the walk of R280 found: the reached slots in ascending order, the next word, the prefix condition noted
(0 none, 1 orphan, 2 doubled) and the subcode of cause 0x04 it stopped with. -/
structure Walk where
  reached : List Placed
  k : Nat
  note : Nat
  trap : Option Nat
  deriving DecidableEq, Repr

/-- Bit n of a mask. -/
def maskBit (m : Byte) (n : Nat) : Bool := m.getLsbD n

/-- R280: the walk over the present slots; `w` holds w0 to w15. -/
def walk (p s : Byte) (w : List W32) : List Slot → Nat → Walk
  | [], k => ⟨[], k, 0, none⟩
  | i :: rest, k =>
    if !maskBit p (slotNum i) then walk p s w rest k
    else if k > 15 then ⟨[], k, 0, some 2⟩
    else
      let isPre := lenOf (w.getD k 0) == 3#2
      let pre := if isPre then some (w.getD k 0) else none
      let k1 := if isPre then k + 1 else k
      if isPre && k1 > 15 then ⟨[], k1, 1, none⟩
      else if isPre && lenOf (w.getD k1 0) == 3#2 then ⟨[], k1, 2, none⟩
      else
        let n := (lenOf (w.getD k1 0)).toNat + 1
        if k1 + n - 1 > 15 then ⟨[], k1, 0, some 2⟩
        else if n == 3 && (slotNum i == 7 || !maskBit s (slotNum i + 1)) then ⟨[], k1, 0, some 4⟩
        else
          let r := walk p s w rest (k1 + n)
          ⟨⟨i, pre, (w.drop k1).take n⟩ :: r.reached, r.k, r.note, r.trap⟩

/-- R279: the header's ID and reserved bits. -/
def headerOk (h : W32) : Bool := h.extractLsb' 28 4 == 0xA#4 && h.extractLsb' 19 9 == 0#9
/-- R279: the mask rules of S against P. -/
def masksOk (p s : Byte) : Bool :=
  !maskBit s 0 && [1, 2, 3, 4, 5, 6, 7].all fun i => !maskBit s i || (!maskBit p i && maskBit p (i - 1))

/-- R283 step 2: the context rule; the subcode of cause 0x04 where it fails. -/
def contextSub (c : Stream) (p : Byte) (y : Bool) : Option Nat :=
  match c with
  | .core => if p &&& 0x7E#8 != 0#8 then some 5 else none
  | .fw => if p &&& 0x7E#8 != 0#8 then some 8 else none
  | .task => if y && p &&& 0x81#8 != 0#8 then some 7 else none

/-- R264, R265: the lane groups a placed VA or VB word claims. -/
def laneGroups (q : Placed) : BitVec 4 :=
  let w := q.words.getD 0 0
  let b := bodyOf w
  let part := (va1_part b).toNat
  if opOf w == 0#6 then 0#4
  else match (va1_w b).toNat with
    | 0 => 1#4 <<< part
    | 1 => if part < 2 then 3#4 <<< (2 * part) else 0#4
    | 2 => if part == 0 then 15#4 else 0#4
    | _ => 0#4

/-- R283 step 6: VA and VB, both reached, claim a common lane group. -/
def lanesClash (r : List Placed) : Bool :=
  match r.find? (·.slot == .va), r.find? (·.slot == .vb) with
  | some a, some b => laneGroups a &&& laneGroups b != 0#4
  | _, _ => false

/-- A fault of decode: cause, subcode and slot (0xFF for the bundle, R166). -/
structure DecFault where
  cause : Nat
  sub : Nat
  slot : Nat
  deriving DecidableEq, Repr

/-- A bundle as the tile reads it: its marks, the decoded slots in ascending order, the fault that stops it and the
faults of its other slots (R283, R284). -/
structure Bundle where
  y : Bool
  b : Bool
  t : Bool
  slots : List (Slot × Instr)
  trap : Option DecFault
  deferred : List DecFault
  deriving DecidableEq, Repr

/-- R283 steps 1 to 7 over the header and the walk. -/
def bundleFault (c : Stream) (w : List W32) (p s : Byte) (y : Bool) (r : Walk) : Option DecFault :=
  let h := w.getD 0 0
  if !headerOk h || !masksOk p s then some ⟨4, 1, 0xFF⟩
  else match contextSub c p y with
  | some k => some ⟨4, k, 0xFF⟩
  | none =>
    match r.trap with
    | some k => some ⟨4, k, 0xFF⟩
    | none =>
      if r.reached.any fun q => q.words.length != 3 && maskBit s (slotNum q.slot + 1) then some ⟨4, 1, 0xFF⟩
      else if r.note == 0 && (w.drop r.k).any (· != 0#32) then some ⟨4, 3, 0xFF⟩
      else if lanesClash r.reached then some ⟨4, 6, 0xFF⟩
      else if r.note != 0 then some ⟨5, r.note, 0xFF⟩
      else none

/-- R283 step 8: every reached slot, in ascending order. -/
def slotResults (c : Stream) (r : List Placed) : List (Slot × Except Nat Instr) :=
  r.map fun q => (q.slot, slotInstr c q.slot q.pre (q.words.getD 0 0) (q.words.getD 1 0) (q.words.getD 2 0))

/-- The faults of step 8. -/
def slotFaults (r : List (Slot × Except Nat Instr)) : List DecFault :=
  r.filterMap fun q => match q.2 with
    | .error k => some ⟨6, k, slotNum q.1⟩
    | .ok _ => none

/-- R278 to R284: the bundle that sixteen words hold. -/
def bundle (c : Stream) (w : List W32) : Bundle :=
  let h := w.getD 0 0
  let p : Byte := h.extractLsb' 0 8
  let s : Byte := h.extractLsb' 8 8
  let y := h.getLsbD 16
  let r := walk p s w allSlots 1
  let rs := slotResults c r.reached
  let ok := rs.filterMap fun q => match q.2 with
    | .ok i => some (q.1, i)
    | .error _ => none
  match bundleFault c w p s y r with
  | some f => ⟨y, h.getLsbD 17, h.getLsbD 18, [], some f, []⟩
  | none =>
    match slotFaults rs with
    | f :: more => ⟨y, h.getLsbD 17, h.getLsbD 18, [], some f, more⟩
    | [] => ⟨y, h.getLsbD 17, h.getLsbD 18, ok, none, []⟩

/-- R10: the little-endian word of four bytes at a place of a byte list. -/
def wordAt (bs : List Byte) (n : Nat) : W32 :=
  bs.getD (n + 3) 0 ++ bs.getD (n + 2) 0 ++ bs.getD (n + 1) 0 ++ bs.getD n 0
/-- R10: the bytes of a word, lowest address first. -/
def wordBytes (w : W32) : List Byte :=
  [w.extractLsb' 0 8, w.extractLsb' 8 8, w.extractLsb' 16 8, w.extractLsb' 24 8]
/-- The sixteen words of a bundle's 64 bytes. -/
def bundleWords (bs : List Byte) : List W32 := (List.range 16).map fun n => wordAt bs (4 * n)

/-- R279, R280, R282: the words of a bundle that holds one instruction alone in its slot, filler after it. -/
def oneSlotBundle (s : Slot) (ws : List W32) : List W32 :=
  let p : W32 := 1#32 <<< slotNum s
  let long := lenOf (ws.getD 0 0) == 2#2
  let sm : W32 := if long then 1#32 <<< (slotNum s + 9) else 0#32
  ((0xA0000000#32 ||| p ||| sm) :: ws) ++ List.replicate (15 - ws.length) 0#32

/-- The slots a bare word is tried in: those whose opcode maps hold a 32-oneBit form first. The word does not name its
slot (NOTES.md, log 7). -/
def tryOrder : List Slot := [.sc, .sy, .ld, .st, .va, .mx, .cp]

/-- The first slot of the order whose decoder reads the words. -/
def placeWords (ws : List W32) : List Slot → Option (Slot × Instr)
  | [] => none
  | s :: rest =>
    match (bundle .task (bundleWords ((oneSlotBundle s ws).flatMap wordBytes))).slots with
    | [q] => some q
    | _ => placeWords ws rest

/-- The words of an instruction of `nbits` bits numbered as the opcode table numbers them, padded with zero words to
the length its own length code gives. -/
def tableWords (nbits w : Nat) : List W32 :=
  let at_ (k : Nat) : W32 := BitVec.ofNat 32 ((w % 2 ^ nbits) >>> (32 * k))
  let n := (lenOf (at_ 0)).toNat + 1
  (List.range (Nat.min n 3)).map at_

end Dec

/-- The instruction the decoder reads from the bits of an opcode-table row: laid out as a bundle that holds it alone,
in the first slot whose decoder takes it. -/
def decodeTableWord (nbits w : Nat) : Option Instr :=
  (Dec.placeWords (Dec.tableWords nbits w) Dec.tryOrder).map (·.2)

end Sys2Proof
end

