-- ==== Sys2Proof/Machine/Float.lean ====
section
/-! DEFINITION. Numbers and their formats: exact values, rounding, saturation, flags, conversions
(R233 to R251), minimum and maximum (R249, R256), and the special functions (R336). -/

namespace Sys2Proof

/-! ## Flags (R250) -/

/-- The sticky flags: bit 0 NV, 1 DZ, 2 OF, 3 UF, 4 NX. -/
abbrev FFlags := BitVec 5

/-- Invalid. -/
def fNV : FFlags := 1#5
/-- Division by zero. -/
def fDZ : FFlags := 2#5
/-- Overflow. -/
def fOF : FFlags := 4#5
/-- Underflow (DEDUCED, log 29). -/
def fUF : FFlags := 8#5
/-- Inexact. -/
def fNX : FFlags := 16#5
/-- The flag when the condition holds. -/
def flagIf (b : Bool) (f : FFlags) : FFlags := if b then f else 0

/-! ## Exact values -/

/-- An exact value: a NaN, an infinity, or the dyadic number (-1)^neg * m * 2^e. -/
inductive FNum where
  | nan (signalling : Bool)
  | inf (neg : Bool)
  | fin (neg : Bool) (m : Nat) (e : Int)
  deriving DecidableEq, Repr

/-- +0. -/
def FNum.zero : FNum := .fin false 0 0
/-- The value is a NaN. -/
def FNum.isNaN : FNum → Bool
  | .nan _ => true
  | _ => false
/-- The value is a signalling NaN. -/
def FNum.isSNaN : FNum → Bool
  | .nan s => s
  | _ => false
/-- The value is a zero of either sign. -/
def FNum.isZero : FNum → Bool
  | .fin _ m _ => m == 0
  | _ => false
/-- The value is an infinity. -/
def FNum.isInf : FNum → Bool
  | .inf _ => true
  | _ => false
/-- The sign; false for a NaN. -/
def FNum.sign : FNum → Bool
  | .nan _ => false
  | .inf s => s
  | .fin s _ _ => s
/-- The value with its sign inverted. -/
def FNum.negate : FNum → FNum
  | .nan s => .nan s
  | .inf s => .inf (!s)
  | .fin s m e => .fin (!s) m e
/-- An integer as an exact value; +0 for zero. -/
def FNum.ofInt (v : Int) : FNum := .fin (v < 0) v.natAbs 0
/-- The value scaled by a power of two. -/
def FNum.scale (k : Int) : FNum → FNum
  | .fin s m e => .fin s m (e + k)
  | x => x

/-- The number of bits of a magnitude. -/
def bitLen (m : Nat) : Nat := if m == 0 then 0 else Nat.log2 m + 1

/-- A magnitude m * 2^e as a count of units 2^u, for u at or below e. -/
def unitsOf (m : Nat) (e u : Int) : Nat := m <<< (e - u).toNat

/-- A signed count of units 2^u, for u at or below e. -/
def signedUnits (neg : Bool) (m : Nat) (e u : Int) : Int :=
  if neg then -(unitsOf m e u : Int) else (unitsOf m e u : Int)

/-- The exact comparison of two finite or infinite values; none when either is a NaN (R249). -/
def FNum.compare? : FNum → FNum → Option Ordering
  | .nan _, _ => none
  | _, .nan _ => none
  | .inf s, .inf t => some (if s == t then .eq else if s then .lt else .gt)
  | .inf s, .fin .. => some (if s then .lt else .gt)
  | .fin .., .inf t => some (if t then .gt else .lt)
  | .fin s m e, .fin t n f =>
    let u := min e f
    some (Ord.compare (signedUnits s m e u) (signedUnits t n f u))

/-! ## Formats (R233 to R238) -/

/-- What a floating layout does with its top exponent (R233). -/
inductive TopExp where
  | infNaN
  | oneNaN
  | finite
  deriving DecidableEq, Repr

/-- R233: exponent bits, fraction bits, bias, top exponent. -/
structure Layout where
  eb : Nat
  f : Nat
  bias : Nat
  top : TopExp
  deriving DecidableEq, Repr

/-- R233: the layout of a floating format. -/
def Fmt.layout : Fmt → Option Layout
  | .fp32 => some ⟨8, 23, 127, .infNaN⟩
  | .bf16 => some ⟨8, 7, 127, .infNaN⟩
  | .fp16 => some ⟨5, 10, 15, .infNaN⟩
  | .e4m3 => some ⟨4, 3, 7, .oneNaN⟩
  | .e5m2 => some ⟨5, 2, 15, .infNaN⟩
  | .e2m1 => some ⟨2, 1, 1, .finite⟩
  | .raw | .i8 | .i16 | .i32 | .d2 | .scl | .msk | .vix => none

/-- R259, R330: FP32, BF16 and FP16. -/
def Fmt.isFloat3 (f : Fmt) : Bool := f == .fp32 || f == .bf16 || f == .fp16
/-- R235: the integer formats. -/
def Fmt.isInt (f : Fmt) : Bool := f == .i8 || f == .i16 || f == .i32
/-- R233: the format is one of the floating layouts. -/
def Fmt.isFloat (f : Fmt) : Bool := f.layout.isSome

/-- R234: the canonical NaN; +0 for E2M1 (R247), 0xFF for UE8M0 (R240), 0x77 for D2 (R239). -/
def Fmt.canonNaN : Fmt → Nat
  | .fp32 => 0x7FC00000
  | .bf16 => 0x7FC0
  | .fp16 => 0x7E00
  | .e4m3 => 0x7F
  | .e5m2 => 0x7E
  | .scl => 0xFF
  | .d2 => 0x77
  | .raw | .i8 | .i16 | .i32 | .e2m1 | .msk | .vix => 0

/-- The sign bit of a layout. -/
def Layout.signBit (l : Layout) (neg : Bool) : Nat := if neg then 1 <<< (l.eb + l.f) else 0
/-- The exponent of the unit of a subnormal. -/
def Layout.minUnit (l : Layout) : Int := 1 - (l.bias : Int) - (l.f : Int)
/-- R233: the largest finite value, as fraction with hidden bit and unit exponent. -/
def Layout.maxFinite (l : Layout) : Nat × Int :=
  match l.top with
  | .infNaN => (2 ^ (l.f + 1) - 1, (2 ^ l.eb : Int) - 2 - l.bias - l.f)
  | .oneNaN => (2 ^ (l.f + 1) - 2, (2 ^ l.eb : Int) - 1 - l.bias - l.f)
  | .finite => (2 ^ (l.f + 1) - 1, (2 ^ l.eb : Int) - 1 - l.bias - l.f)
/-- The encoding of the largest finite value. -/
def Layout.maxBits (l : Layout) (neg : Bool) : Nat :=
  l.signBit neg +
    match l.top with
    | .infNaN => (2 ^ l.eb - 2) * 2 ^ l.f + (2 ^ l.f - 1)
    | .oneNaN => 2 ^ (l.eb + l.f) - 2
    | .finite => 2 ^ (l.eb + l.f) - 1
/-- The encoding of an infinity. -/
def Layout.infBits (l : Layout) (neg : Bool) : Nat := l.signBit neg + (2 ^ l.eb - 1) * 2 ^ l.f

/-- R233, R234: the value of an encoding of a layout. -/
def Layout.value (l : Layout) (b : Nat) : FNum :=
  let s := (b >>> (l.eb + l.f)) % 2 == 1
  let e := (b >>> l.f) % 2 ^ l.eb
  let fr := b % 2 ^ l.f
  let normal : FNum := .fin s (2 ^ l.f + fr) ((e : Int) - l.bias - l.f)
  if e == 0 then .fin s fr l.minUnit
  else if e == 2 ^ l.eb - 1 then
    match l.top with
    | .infNaN => if fr == 0 then .inf s else .nan (fr < 2 ^ (l.f - 1))
    | .oneNaN => if fr == 2 ^ l.f - 1 then .nan false else normal
    | .finite => normal
  else normal

/-- R237: one term of a D2 byte in units of 2^-6. -/
def d2Term (neg : Bool) (e : Nat) : Int :=
  if e == 7 then 0 else if neg then -((2 ^ (6 - e) : Nat) : Int) else ((2 ^ (6 - e) : Nat) : Int)
/-- R237: the value of a D2 byte in units of 2^-6. -/
def d2Units (b : Nat) : Int :=
  d2Term (b / 128 % 2 == 1) (b / 16 % 8) + d2Term (b / 8 % 2 == 1) (b % 8)

/-- R238: a D2 byte is canonical for its value. -/
def d2Canonical (b : Nat) : Bool :=
  let ea := b / 16 % 8
  let eb := b % 8
  let sa := b / 128 % 2
  let sb := b / 8 % 2
  let single (v : Int) : Bool := [0, 1, 2, 3, 4, 5, 6].any fun e => v.natAbs == 2 ^ e
  let v := d2Units b
  if v == 0 then b == 0x77
  else if single v then eb == 7 && sb == 0 && ea != 7
  else
    let sameSign : Bool := [0, 1, 2, 3, 4, 5, 6].any fun e => [0, 1, 2, 3, 4, 5, 6].any fun g => v.natAbs == 2 ^ e + 2 ^ g
    ea ≤ eb && ea != 7 && eb != 7 && (if sameSign then sa == sb else sa != sb)

/-- R238: the canonical bytes with their values in units of 2^-6. -/
def d2Table : List (Nat × Int) :=
  ((List.range 256).filter d2Canonical).map fun b => (b, d2Units b)

/-- R240: the value of a UE8M0 byte. -/
def sclValue (b : Nat) : FNum := if b % 256 == 255 then .nan false else .fin false 1 ((b % 256 : Int) - 127)

/-- The two's-complement value of the low w bits. -/
def toSigned (w b : Nat) : Int :=
  let v := b % 2 ^ w
  if 2 * v < 2 ^ w then (v : Int) else (v : Int) - (2 ^ w : Nat)

/-- An integer modulo 2^w as a bit pattern. -/
def ofSigned (w : Nat) (v : Int) : Nat := (v % ((2 ^ w : Nat) : Int)).toNat

/-- R233 to R240: the value of one element's bits in a format; other formats read as unsigned. -/
def Fmt.value (f : Fmt) (b : Nat) : FNum :=
  match f.layout with
  | some l => l.value b
  | none =>
    if f.isInt then .ofInt (toSigned f.width b)
    else if f == .d2 then
      let u := d2Units b
      .fin (u < 0) u.natAbs (-6)
    else if f == .scl then sclValue b
    else .fin false b 0

/-- R248: with FTZ a subnormal operand of a floating format is read as a zero of its sign. -/
def flushOperand (ftz : Bool) (f : Fmt) (x : FNum) : FNum :=
  match f.layout, x with
  | some l, .fin s m e => if ftz && e + bitLen m ≤ 1 - (l.bias : Int) then .fin s 0 0 else x
  | _, _ => x

/-! ## Rounding (R244 to R248) -/

/-- An exact result and whether the true value lies strictly between it and the next unit of its last place. -/
structure Exact where
  x : FNum
  sticky : Bool
  deriving DecidableEq, Repr

/-- R244: m * 2^e rounded to a count of units 2^u under a mode, and whether it was inexact. The true magnitude lies
strictly above m * 2^e, by less than one unit of it, when `sticky`. `draw` is the draw of R245. -/
def roundUnits (r : Rnd) (neg : Bool) (m : Nat) (e u : Int) (sticky : Bool) (draw : Nat) : Nat × Bool :=
  let sh := (u - e).toNat
  let k := if u ≤ e then unitsOf m e u else m >>> sh
  let rest := if u ≤ e then 0 else m % 2 ^ sh
  let whole := 2 ^ sh
  if rest == 0 && !sticky then (k, false)
  else
    let above := 2 * rest > whole || (2 * rest == whole && sticky)
    let tie := 2 * rest == whole && !sticky
    let up := match r with
      | .rne => above || (tie && k % 2 == 1)
      | .rna => above || tie
      | .rtz => false
      | .rup => !neg
      | .rdn => neg
      | .rsr => decide (draw < rest * 2 ^ 16 / whole)
    (if up then k + 1 else k, true)

/-- A format that has an infinity or a NaN to overflow to (R247). -/
def Layout.overflowBits (l : Layout) (canon : Nat) (md : Mod) (neg : Bool) : Nat :=
  let big := match l.top with
    | .infNaN => l.infBits neg
    | .oneNaN => canon
    | .finite => l.maxBits neg
  if md.sat == .fmt then l.maxBits neg
  else match md.rnd with
    | .rne | .rna | .rsr => big
    | .rtz => l.maxBits neg
    | .rup => if neg then l.maxBits neg else big
    | .rdn => if neg then big else l.maxBits neg

/-- R244 to R248: an exact result written in a floating layout, with its flags. -/
def Layout.round (l : Layout) (canon : Nat) (md : Mod) (draw : Nat) (v : Exact) : Nat × FFlags :=
  match v.x with
  | .nan s => if l.top == .finite then (0, fNV) else (canon, flagIf s fNV)
  | .inf neg =>
    match l.top with
    | .infNaN => if md.sat == .fmt then (l.maxBits neg, fNX) else (l.infBits neg, 0)
    | .oneNaN => (l.overflowBits canon md neg, fNV)
    | .finite => (l.maxBits neg, fNV)
  | .fin neg m e =>
    if m == 0 && !v.sticky then (l.signBit neg, 0)
    else
      let top := e + bitLen m - 1
      let u := max (top - l.f) l.minUnit
      let (k, inexact) := roundUnits md.rnd neg m e u v.sticky draw
      let (mm, me) := l.maxFinite
      let low := min u me
      if unitsOf k u low > unitsOf mm me low then (l.overflowBits canon md neg, fOF ||| fNX)
      else
        let tiny := u == l.minUnit && k < 2 ^ l.f
        let nx := flagIf inexact fNX
        if tiny && md.ftz then (l.signBit neg, fUF ||| fNX)
        else if tiny then (l.signBit neg + k, nx ||| flagIf inexact fUF)
        else
          let (k, u) := if k == 2 ^ (l.f + 1) then (2 ^ l.f, u + 1) else (k, u)
          (l.signBit neg + (u + l.f + l.bias).toNat * 2 ^ l.f + (k - 2 ^ l.f), nx)

/-- R251: an exact result written as an integer of w bits, always clamped; a clamp or a NaN raises NV. -/
def roundInt (w : Nat) (signed : Bool) (r : Rnd) (draw : Nat) (x : FNum) : Nat × FFlags :=
  let lo : Int := if signed then -((2 ^ (w - 1) : Nat) : Int) else 0
  let hi : Int := if signed then ((2 ^ (w - 1) : Nat) : Int) - 1 else ((2 ^ w : Nat) : Int) - 1
  match x with
  | .nan _ => (0, fNV)
  | .inf neg => (ofSigned w (if neg then lo else hi), fNV)
  | .fin neg m e =>
    let (k, inexact) := roundUnits r neg m e 0 false draw
    let v : Int := if neg then -(k : Int) else k
    if v < lo then (ofSigned w lo, fNV ||| flagIf inexact fNX)
    else if v > hi then (ofSigned w hi, fNV ||| flagIf inexact fNX)
    else (ofSigned w v, flagIf inexact fNX)

/-- R239: the nearer of two D2 candidates to v units of 2^(-6-s); a tie goes to the smaller magnitude. -/
def d2Nearer (v : Int) (s : Nat) (a b : Nat × Int) : Nat × Int :=
  let da := (v - a.2 * (2 ^ s : Nat)).natAbs
  let db := (v - b.2 * (2 ^ s : Nat)).natAbs
  if db < da || (db == da && b.2.natAbs < a.2.natAbs) then b else a

/-- R239: a conversion to D2, which no prefix changes. -/
def roundD2 (x : FNum) : Nat × FFlags :=
  match x with
  | .nan _ => (0x77, fNV)
  | .inf neg => (if neg then 0x88 else 0x00, fNV)
  | .fin neg m e =>
    let u := min e (-6)
    let s := (-6 - u).toNat
    let v := signedUnits neg m e u
    let best := d2Table.foldl (d2Nearer v s) (0x77, 0)
    (best.1, flagIf (v != best.2 * (2 ^ s : Nat)) fNX)

/-- R240: a conversion of a magnitude to UE8M0, which no prefix changes. -/
def roundScl (x : FNum) : Nat × FFlags :=
  match x with
  | .nan _ => (0xFF, fNV)
  | .inf _ => (254, fOF)
  | .fin _ m e =>
    if m == 0 then (0, 0)
    else
      let up : Int := if m == 2 ^ (bitLen m - 1) then 0 else 1
      let k := e + bitLen m - 1 + up + 127
      if k < 0 then (0, fOF) else if k > 254 then (254, fOF) else (k.toNat, 0)

/-- R251: an exact result written in a format, with its flags. -/
def Fmt.write (f : Fmt) (md : Mod) (draw : Nat) (v : Exact) : Nat × FFlags :=
  match f.layout with
  | some l => l.round f.canonNaN md draw v
  | none =>
    if f.isInt then roundInt f.width true md.rnd draw v.x
    else if f == .d2 then roundD2 v.x
    else if f == .scl then roundScl v.x
    else (0, 0)

/-- No prefix: RNE, NONE, FTZ off (R243). -/
def Mod.plain : Mod := ⟨false, .none, .rne⟩

/-! ## Arithmetic -/

/-- An exact finite sum; an exact zero of opposite signs is +0, or -0 under RDN (R244). -/
def addFin (r : Rnd) (s : Bool) (m : Nat) (e : Int) (t : Bool) (n : Nat) (f : Int) : FNum :=
  let u := min e f
  let v := signedUnits s m e u + signedUnits t n f u
  if v == 0 then .fin (if m == 0 && n == 0 && s == t then s else r == .rdn) 0 0
  else .fin (v < 0) v.natAbs u

/-- R249: a + b, exact, with NV for an invalid operation. -/
def FNum.add (r : Rnd) : FNum → FNum → FNum × FFlags
  | .nan s, b => (.nan false, flagIf (s || b.isSNaN) fNV)
  | a, .nan s => (.nan false, flagIf (s || a.isSNaN) fNV)
  | .inf s, .inf t => if s == t then (.inf s, 0) else (.nan false, fNV)
  | .inf s, .fin .. => (.inf s, 0)
  | .fin .., .inf t => (.inf t, 0)
  | .fin s m e, .fin t n f => (addFin r s m e t n f, 0)

/-- R249: a * b, exact, with NV for an invalid operation. -/
def FNum.mul : FNum → FNum → FNum × FFlags
  | .nan s, b => (.nan false, flagIf (s || b.isSNaN) fNV)
  | a, .nan s => (.nan false, flagIf (s || a.isSNaN) fNV)
  | .inf s, b => if b.isZero then (.nan false, fNV) else (.inf (s != b.sign), 0)
  | a, .inf t => if a.isZero then (.nan false, fNV) else (.inf (a.sign != t), 0)
  | .fin s m e, .fin t n f => (.fin (s != t) (m * n) (e + f), 0)

/-- R249: a * b + d, exact; an invalid product raises NV beside a quiet NaN addend. -/
def FNum.fma (r : Rnd) (a b d : FNum) : FNum × FFlags :=
  let (p, f) := a.mul b
  let (x, g) := p.add r d
  (x, f ||| g)

/-- R249: the sum of two products, exact. -/
def FNum.dot2 (r : Rnd) (a b c d : FNum) : FNum × FFlags :=
  let (p, f) := a.mul b
  let (q, g) := c.mul d
  let (x, h) := p.add r q
  (x, f ||| g ||| h)

/-- R249: minimum and maximum; a NaN beats any number, and +0 is above -0. -/
def FNum.pick (mx : Bool) (a b : FNum) : FNum × FFlags :=
  let f := flagIf (a.isSNaN || b.isSNaN) fNV
  match a.compare? b with
  | none => (.nan false, f)
  | some .lt => (if mx then b else a, f)
  | some .gt => (if mx then a else b, f)
  | some .eq => (if a.sign == mx then b else a, f)

/-- R337, R309: a relation of two floats. -/
def floatRel (r : VRel) (a b : FNum) : Bool :=
  match a.compare? b, r with
  | none, .ne => true
  | none, .un => true
  | none, _ => false
  | some o, .eq => o == .eq
  | some o, .ne => o != .eq
  | some o, .lt => o == .lt
  | some o, .le => o != .gt
  | some o, .gt => o == .gt
  | some o, .ge => o != .lt
  | some _, .ord => true
  | some _, _ => false

/-! ## Pairs with an index (R256) -/

/-- R256: the winner of two VIX pairs (value bits, index) under MAXI or MINI. -/
def pickPair (mx : Bool) (p q : BitVec 32 × BitVec 32) : BitVec 32 × BitVec 32 :=
  let a := Fmt.fp32.value p.1.toNat
  let b := Fmt.fp32.value q.1.toNat
  let low := if p.2.toNat ≤ q.2.toNat then p else q
  let w :=
    match a.isNaN, b.isNaN with
    | true, true => low
    | true, false => p
    | false, true => q
    | false, false =>
      match a.compare? b with
      | some .lt => if mx then q else p
      | some .gt => if mx then p else q
      | _ => if a.sign == b.sign then low else if a.sign == mx then q else p
  if (Fmt.fp32.value w.1.toNat).isNaN then (0x7FC00000#32, w.2) else w

/-! ## Special functions (R336) -/

/-- The integer square root by bits from bit k downwards, on top of acc. -/
def sqrtBits (n : Nat) : Nat → Nat → Nat
  | 0, acc => acc
  | k + 1, acc =>
    let t := acc + 2 ^ k
    sqrtBits n k (if t * t ≤ n then t else acc)
/-- The integer square root. -/
def isqrt (n : Nat) : Nat := sqrtBits n (bitLen n / 2 + 1) 0

/-- Bits after the binary point in the fixed-point series of the transcendental forms. The least gap between a value
of these functions and a rounding boundary of FP32 exceeds 2^-450 (tanh of the least subnormal). -/
def fixBits : Nat := 704
/-- One in fixed point. -/
def fixOne : Nat := 2 ^ fixBits

/-- The product of two fixed-point numbers. -/
def fixMul (a b : Nat) : Nat := (a * b) >>> fixBits

/-- atan(1/n) in fixed point: the sum of (-1)^k / ((2k+1) n^(2k+1)); `t` is 1/n^(2k+1). -/
def atanInv (n2 : Nat) : Nat → Nat → Nat → Int
  | 0, _, _ => 0
  | fuel + 1, k, t =>
    let term : Int := ((t / (2 * k + 1) : Nat) : Int)
    (if k % 2 == 0 then term else -term) + atanInv n2 fuel (k + 1) (t / n2)
/-- pi in fixed point: 16 atan(1/5) - 4 atan(1/239). -/
def fixPi : Nat := (16 * atanInv 25 160 0 (fixOne / 5) - 4 * atanInv 57121 50 0 (fixOne / 239)).toNat

/-- The sum of z^(2k+1) / (2k+1), atanh of z; `t` is z^(2k+1), `z2` is z squared. -/
def atanhSeries (z2 : Nat) : Nat → Nat → Nat → Nat
  | 0, _, _ => 0
  | fuel + 1, k, t => t / (2 * k + 1) + atanhSeries z2 fuel (k + 1) (fixMul t z2)
/-- ln(1 + a/b) in fixed point for 0 ≤ a ≤ b: 2 atanh(a / (2b + a)). -/
def fixLn (a b : Nat) : Nat :=
  let z := a * fixOne / (2 * b + a)
  2 * atanhSeries (fixMul z z) 240 0 z
/-- ln 2 in fixed point. -/
def fixLn2 : Nat := fixLn 1 1

/-- The series of exp from term k on; `t` is z^k / k!. -/
def expSeries (z : Nat) : Nat → Nat → Nat → Nat
  | 0, _, _ => 0
  | fuel + 1, k, t => t + expSeries z fuel (k + 1) (fixMul t z / (k + 1))
/-- exp of a fixed-point number below 1, in fixed point. -/
def fixExpSmall (z : Nat) : Nat := expSeries z 160 0 fixOne
/-- exp(-y) in fixed point for y at or above 0. -/
def fixExpNeg (y : Nat) : Nat :=
  let l := fixLn2
  let k := y / l + 1
  fixExpSmall (k * l - y) >>> k

/-- The series of sin from term k on with alternating signs; `t` is z^(2k+1)/(2k+1)!. -/
def sinSeries (z2 : Nat) : Nat → Nat → Nat → Int
  | 0, _, _ => 0
  | fuel + 1, k, t =>
    (if k % 2 == 0 then (t : Int) else -(t : Int)) +
      sinSeries z2 fuel (k + 1) (fixMul t z2 / ((2 * k + 2) * (2 * k + 3)))
/-- sin(pi * r) in fixed point for r at most 1/2, in fixed point. -/
def fixSinPi (r : Nat) : Nat :=
  let z := fixMul r fixPi
  (sinSeries (fixMul z z) 100 0 z).toNat

/-- The sum of (2 x^2)^n x / (1*3*...*(2n+1)), of which erf is 2/sqrt(pi) * exp(-x^2) times. -/
def erfSeries (x2 : Nat) : Nat → Nat → Nat → Nat
  | 0, _, _ => 0
  | fuel + 1, k, t => t + erfSeries x2 fuel (k + 1) (2 * fixMul t x2 / (2 * k + 3))
/-- erf of a fixed-point number below 8, in fixed point. -/
def fixErf (x : Nat) : Nat :=
  let x2 := fixMul x x
  let s := erfSeries x2 1200 0 x
  let p := fixMul s (fixExpNeg x2)
  2 * p * fixOne / isqrt (fixPi * fixOne)

/-- A magnitude in fixed point, for values whose unit is above 2^-fixBits. -/
def toFix (m : Nat) (e : Int) : Nat :=
  if e + fixBits ≥ 0 then m <<< (e + fixBits).toNat else m >>> (-(e + fixBits)).toNat
/-- A fixed-point approximation of an irrational result. -/
def ofFix (neg : Bool) (v : Nat) : Exact := ⟨.fin neg v (-(fixBits : Int)), true⟩
/-- A result just below 1, nearer to it than any rounding boundary. -/
def belowOne (neg : Bool) : Exact := ofFix neg (fixOne - 1)
/-- A positive result below every rounding boundary of the least subnormal. -/
def tinyPositive : Exact := ⟨.fin false 1 (-400), true⟩
/-- An exact result. -/
def exactly (x : FNum) : Exact := ⟨x, false⟩

/-- The magnitude is an integer. -/
def isInteger (m : Nat) (e : Int) : Bool := e ≥ 0 || m % 2 ^ (-e).toNat == 0
/-- The integer part of a magnitude. -/
def intPart (m : Nat) (e : Int) : Nat := if e ≥ 0 then m <<< e.toNat else m >>> (-e).toNat
/-- The magnitude is at least 2^k. -/
def atLeastPow (m : Nat) (e : Int) (k : Nat) : Bool := m != 0 && e + bitLen m > k
/-- The fractional part of half the magnitude, in fixed point: |x| mod 2. -/
def mod2 (m : Nat) (e : Int) : Nat :=
  if e ≥ 1 then 0 else toFix (m % 2 ^ (1 - e).toNat) e

/-- 1/x. -/
def sfRcp (f : Nat) (s : Bool) (m : Nat) (e : Int) : Exact :=
  let n := f + 40 + bitLen m
  ⟨.fin s (2 ^ n / m) (-e - n), 2 ^ n % m != 0⟩
/-- The square root of a positive magnitude. -/
def sfSqrt (f : Nat) (m : Nat) (e : Int) : Exact :=
  let k := 2 * (f + 40) + (if e % 2 == 0 then 0 else 1)
  let n := m <<< k
  let q := isqrt n
  ⟨.fin false q ((e - k) / 2), q * q != n⟩
/-- 1/sqrt of a positive magnitude. -/
def sfRsq (f : Nat) (m : Nat) (e : Int) : Exact :=
  let (m, e) := if e % 2 == 0 then (m, e) else (2 * m, e - 1)
  let n := f + 40 + bitLen m
  let q := isqrt (2 ^ (2 * n) / m)
  ⟨.fin false q (-(e / 2) - n), q * q * m != 2 ^ (2 * n)⟩

/-- 2^x of a non-zero x. -/
def sfExp2 (s : Bool) (m : Nat) (e : Int) : Exact :=
  if atLeastPow m e 10 then if s then tinyPositive else exactly (.fin false 1 1024)
  else
    let n := intPart m e
    if isInteger m e then exactly (.fin false 1 (if s then -(n : Int) else n))
    else
      let fr := toFix m e % fixOne
      let (k, z) : Int × Nat := if s then (-(n : Int) - 1, fixOne - fr) else (n, fr)
      ⟨.fin false (fixExpSmall (fixMul z fixLn2)) (k - fixBits), true⟩
/-- log2 of a positive magnitude. -/
def sfLog2 (m : Nat) (e : Int) : Exact :=
  let l := bitLen m - 1
  let k := e + l
  if m == 2 ^ l then exactly (.ofInt k)
  else
    let v : Int := k * fixOne + ((fixLn (m - 2 ^ l) (2 ^ l) * fixOne / fixLn2 : Nat) : Int)
    if v < 0 then ofFix true (v.natAbs - 1) else ofFix false v.natAbs
/-- sin(pi x) of a non-zero finite x. -/
def sfSinPi (s : Bool) (m : Nat) (e : Int) : Exact :=
  if isInteger m e then exactly (.fin s 0 0)
  else
    let r := mod2 m e
    let (neg, r) := if r ≥ fixOne then (!s, r - fixOne) else (s, r)
    let r := if 2 * r > fixOne then fixOne - r else r
    if 2 * r == fixOne then exactly (.fin neg 1 0) else ofFix neg (fixSinPi r)
/-- cos(pi x) of a non-zero finite x. -/
def sfCosPi (m : Nat) (e : Int) : Exact :=
  if isInteger m e then exactly (.fin (intPart m e % 2 == 1) 1 0)
  else
    let r := mod2 m e
    let r := if r > fixOne then 2 * fixOne - r else r
    if 2 * r == fixOne then exactly .zero
    else if 2 * r > fixOne then ofFix true (fixSinPi (r - fixOne / 2)) else ofFix false (fixSinPi (fixOne / 2 - r))
/-- tanh of a non-zero finite x. -/
def sfTanh (s : Bool) (m : Nat) (e : Int) : Exact :=
  if atLeastPow m e 6 then belowOne s
  else
    let t := fixExpNeg (2 * toFix m e)
    ofFix s ((fixOne - t) * fixOne / (fixOne + t) - 1)
/-- 1/(1+e^-x) of a non-zero finite x. -/
def sfSigm (s : Bool) (m : Nat) (e : Int) : Exact :=
  if atLeastPow m e 7 then if s then tinyPositive else belowOne false
  else
    let t := fixExpNeg (toFix m e)
    ofFix false ((if s then t else fixOne) * fixOne / (fixOne + t))
/-- erf of a non-zero finite x. -/
def sfErf (s : Bool) (m : Nat) (e : Int) : Exact :=
  if atLeastPow m e 3 then belowOne s else ofFix s (fixErf (toFix m e))

/-- R336: a special function of a value, exact, with NV or DZ of its special operands; `f` is the fraction width of
the format, which fixes how many bits RCP, RSQ and SQRT need. -/
def specialFn (form : SfForm) (f : Nat) (x : FNum) : Exact × FFlags :=
  match x with
  | .nan s => (exactly (.nan false), flagIf s fNV)
  | .inf s =>
    match form with
    | .rcp => (exactly (.fin s 0 0), 0)
    | .rsq => if s then (exactly (.nan false), fNV) else (exactly .zero, 0)
    | .sqrt => if s then (exactly (.nan false), fNV) else (exactly (.inf false), 0)
    | .exp2 => (exactly (if s then .zero else .inf false), 0)
    | .log2 => if s then (exactly (.nan false), fNV) else (exactly (.inf false), 0)
    | .sinpi | .cospi => (exactly (.nan false), fNV)
    | .tanh | .erf => (exactly (.fin s 1 0), 0)
    | .sigm => (exactly (if s then .zero else .fin false 1 0), 0)
  | .fin s m e =>
    if m == 0 then
      match form with
      | .rcp | .rsq => (exactly (.inf s), fDZ)
      | .sqrt | .sinpi | .tanh | .erf => (exactly (.fin s 0 0), 0)
      | .exp2 | .cospi => (exactly (.fin false 1 0), 0)
      | .log2 => (exactly (.inf true), fDZ)
      | .sigm => (exactly (.fin false 1 (-1)), 0)
    else
      match form with
      | .rcp => (sfRcp f s m e, 0)
      | .rsq => if s then (exactly (.nan false), fNV) else (sfRsq f m e, 0)
      | .sqrt => if s then (exactly (.nan false), fNV) else (sfSqrt f m e, 0)
      | .exp2 => (sfExp2 s m e, 0)
      | .log2 => if s then (exactly (.nan false), fNV) else (sfLog2 m e, 0)
      | .sinpi => (sfSinPi s m e, 0)
      | .cospi => (sfCosPi m e, 0)
      | .tanh => (sfTanh s m e, 0)
      | .sigm => (sfSigm s m e, 0)
      | .erf => (sfErf s m e, 0)

/-! ## Stochastic draws (R245) -/

/-- R245: one step of the stochastic state: the bit and the new state. -/
def lfsrStep (l : W32) : Bool × W32 :=
  let b := l.getLsbD 31 != (l.getLsbD 21 != (l.getLsbD 1 != l.getLsbD 0))
  (b, (l <<< 1) ||| (if b then 1#32 else 0#32))

/-- R245: n steps; the bits so far stand in d. -/
def lfsrBits : Nat → Nat → W32 → Nat × W32
  | 0, d, l => (d, l)
  | n + 1, d, l =>
    let (b, l) := lfsrStep l
    lfsrBits n (2 * d + (if b then 1 else 0)) l

/-- R245: one draw of sixteen bits, and the advanced state. -/
def draw (l : W32) : Nat × W32 := lfsrBits 16 0 l

/-- R245: n draws in order, and the advanced state. -/
def draws : Nat → W32 → List Nat × W32
  | 0, l => ([], l)
  | n + 1, l =>
    let (d, l) := draw l
    let (ds, l) := draws n l
    (d :: ds, l)

end Sys2Proof
end

