-- ==== Sys2Proof/Machine/Sparse.lean ====
section
/-! DEFINITION. Sparse maps in one canonical form: keys strictly rising, no entry equal to the default. -/

namespace Sys2Proof.Machine

/-- A map from numbers, held as the list of its entries that differ from a default. -/
abbrev Sparse (α : Type) := List (Nat × α)

/-- The value at a key: that of its entry, else the default. -/
def sget {α : Type} (d : α) : Sparse α → Nat → α
  | [], _ => d
  | (k, v) :: m, n => if n = k then v else sget d m n

/-- The map without the entry of a key. -/
def sdel {α : Type} : Sparse α → Nat → Sparse α
  | [], _ => []
  | (k, v) :: m, n => if n = k then sdel m n else (k, v) :: sdel m n

/-- The map with an entry put before the first greater key. -/
def sins {α : Type} : Sparse α → Nat → α → Sparse α
  | [], n, v => [(n, v)]
  | (k, w) :: m, n, v => if n < k then (n, v) :: (k, w) :: m else (k, w) :: sins m n v

/-- The map with a new value at a key; the default removes the entry. -/
def sset {α : Type} [DecidableEq α] (d : α) (m : Sparse α) (n : Nat) (v : α) : Sparse α :=
  if v = d then sdel m n else sins (sdel m n) n v

/-- The canonical form: keys strictly rising from a bound on, no default entry. -/
def swfFrom {α : Type} [DecidableEq α] (d : α) : Nat → Sparse α → Bool
  | _, [] => true
  | n, (k, v) :: m => decide (n ≤ k) && decide (v ≠ d) && swfFrom d (k + 1) m

/-- The canonical form of a whole map. -/
def swf {α : Type} [DecidableEq α] (d : α) (m : Sparse α) : Bool := swfFrom d 0 m

/-- The keys of the entries. -/
def skeys {α : Type} (m : Sparse α) : List Nat := m.map (·.1)

/-- The map without the entries of n keys from k on. -/
def sclear {α : Type} : Sparse α → Nat → Nat → Sparse α
  | [], _, _ => []
  | (j, v) :: m, k, n => if j < k ∨ k + n ≤ j then (j, v) :: sclear m k n else sclear m k n

/-- The n values from a key upwards. -/
def sread {α : Type} (d : α) (m : Sparse α) (k n : Nat) : List α := (List.range n).map fun i => sget d m (k + i)

/-- The map with a list of values written from a key upwards. -/
def swrite {α : Type} [DecidableEq α] (d : α) (m : Sparse α) : Nat → List α → Sparse α
  | _, [] => m
  | k, v :: vs => swrite d (sset d m k v) (k + 1) vs

end Sys2Proof.Machine
end

