-- ==== Sys2Proof/Machine/State.lean ====
section
/-! DEFINITION. The state of the DW-48 as plain data, the reasons to stop, and the state after reset.
Cycles are naturals: LCYC inside a partition's launch, GCYC everywhere else. -/

namespace Sys2Proof.Machine

/-! ## Registers of a context (R257, R271, R325) -/

/-- A scalar: 64 bits, format and poison (R257, R258). -/
structure Scalar where
  v : W64
  fmt : Fmt
  poi : Bool
  deriving DecidableEq, Repr

/-- s1 to s31 at LCYC 0 (R300), and s0 always (R257). -/
def Scalar.zero : Scalar := ⟨0, .i32, false⟩

/-- A predicate and its poison (R257). -/
structure Pred where
  v : Bool
  poi : Bool
  deriving DecidableEq, Repr

/-- A predicate at LCYC 0 (R300). -/
def Pred.zero : Pred := ⟨false, false⟩

/-- A branch target: bits 20:6 of a bundle address, the prepared flag, poison (R257, R312). -/
structure Btgt where
  a : BitVec 15
  prep : Bool
  poi : Bool
  deriving DecidableEq, Repr

/-- A branch target at LCYC 0 (R300). -/
def Btgt.zero : Btgt := ⟨0, false, false⟩

/-- A row: 1,024 bits, format and poison (R257). The same shape holds a fabric word (R192, R210). -/
structure RowReg where
  bits : Row
  fmt : Fmt
  poi : Bool
  deriving DecidableEq, Repr

/-- A row at LCYC 0 (R300). -/
def RowReg.zero : RowReg := ⟨0, .raw, false⟩

/-- The kinds of pipeline latch (R166), and the special registers and stochastic states a WRS writes (R245, R311). -/
inductive LatchKind where
  | scalar | pred | row | btgt | sram | special
  deriving DecidableEq, Repr

/-- One SRAM read a load still has to make: where its bits go in the value, the byte address, the byte count. -/
structure PendRead where
  pos : Nat
  addr : Nat
  n : Nat
  deriving DecidableEq, Repr

/-- A pipeline latch (R166, R270). `en` are the bits written; a row or scalar result with no bit enabled only poisons
(R161). `atEnd` marks a write at the end of the due cycle. `prep` is the prepared flag a branch target takes, none for
leaving it. `rdAt` and `reads` are the SRAM reads of a load, or the pieces a store writes; `spec` marks a speculative
load (R377). -/
structure Latch where
  kind : LatchKind
  slot : Nat
  dest : Nat
  fmt : Fmt
  poi : Bool
  issued : Nat
  due : Nat
  atEnd : Bool
  val : Row
  en : Row
  addr : Nat
  flags : BitVec 5
  prep : Option Bool
  rdAt : Nat
  reads : List PendRead
  spec : Bool
  deriving DecidableEq, Repr

/-- What holds issue (R156, R316, R317, R319). -/
inductive HoldKind where
  | wait
  | bar (level d : Nat)
  | drain (level d : Nat)
  deriving DecidableEq, Repr

/-- A hold of issue: its kind, the cycle at which issue goes on, the bundle it stands in, its issue cycle. -/
structure Hold where
  kind : HoldKind
  until_ : Nat
  bundle : Nat
  issued : Nat
  deriving DecidableEq, Repr

/-- A stream of bundles: a tile's task, a tile's firmware context (R271) or a front-end core (R325). `pc` is the bundle
address due at cycle `next`; `todo` are the slots of the bundle being issued, at address `bundle`, that have not been
performed, and `mask` those that have (R164); `target` is the branch it takes; `on` says that the stream runs; `gen` is
the wafer generation that its messages carry (R48, R75); `faulted` marks that a fault in the present bundle has stopped the
context (R274). -/
structure Ctx where
  s : Sparse Scalar
  p : Sparse Pred
  b : Sparse Btgt
  fstat : BitVec 5
  on : Bool
  pc : Nat
  next : Nat
  hold : Option Hold
  todo : List (Slot × Instr)
  bundle : Nat
  mask : Byte
  target : Option Nat
  latches : List Latch
  trapc : W64
  trapb : W64
  trapm : W64
  trapt : W64
  gen : Byte
  faulted : Bool
  deriving DecidableEq, Repr

/-- A stream with every register as R300 gives it, not running. -/
def Ctx.zero : Ctx :=
  ⟨[], [], [], 0, false, 0, 0, none, [], 0, 0, none, [], 0, 0, 0, 0, 0, false⟩

/-! ## Accumulators, troughs and the matrix engine (R190, R191, R352 to R357) -/

/-- One accumulator row: 32 elements of 32 bits, and its poison (R257). -/
structure AccRow where
  bits : Row
  poi : Bool
  deriving DecidableEq, Repr

/-- +0 or 0 in every element, clean. -/
def AccRow.zero : AccRow := ⟨0, false⟩

/-- An accumulator tile: rows, format (true for FP32), watermark, and the number of the command that wrote it last
(R190, R353). -/
structure AccTile where
  rows : Sparse AccRow
  fp : Bool
  wm : Nat
  writer : Nat
  deriving DecidableEq, Repr

/-- An accumulator tile at LCYC 0 (R300). -/
def AccTile.zero : AccTile := ⟨[], true, 32, 0⟩

/-- A trough row: 48 bytes and poison (R191, R357). -/
structure TroughRow where
  bits : BitVec 384
  poi : Bool
  deriving DecidableEq, Repr

/-- The operands one K step of a matrix command has popped and read: rows of A and B in order, the scale images, and
the poison that reaches every row (R355 to R357). -/
structure KStep where
  a : List TroughRow
  b : List TroughRow
  sa : BitVec 2048
  sb : BitVec 2048
  spoi : Bool
  deriving DecidableEq, Repr

/-- A matrix command in progress (R355): `steps` the operands so far, `pops` and `rows` how many pops and row finals
have come about, `scalesRead` how many steps have read their scales. -/
structure MxCmd where
  id : Nat
  c : Nat
  n : Nat
  acc : Nat
  z : Bool
  scaled : Bool
  fa : Fmt
  fb : Fmt
  vsa : Nat
  vsb : Nat
  bundle : Nat
  slot : Nat
  poi : Bool
  steps : List KStep
  pops : Nat
  scalesRead : Nat
  rows : Nat
  deriving DecidableEq, Repr

/-- A row of an accumulator tile that becomes final at a cycle (R353, R358, R367), none for the row of a faulting
instruction, which only takes poison (R161); `wmark` is what the watermark becomes when command `writer` still is the
tile's latest. Row number 32 stands for no row: the cycle at which the command becomes the latest. -/
structure AccFinal where
  due : Nat
  acc : Nat
  row : Nat
  val : Option AccRow
  wmark : Nat
  writer : Nat
  deriving DecidableEq, Repr

/-! ## Copy channels and sweeps (R185, R360 to R371) -/

/-- The kinds of sweep (R218). -/
inductive SweepKind where
  | cav | ard | scn (ex : Bool) | bcs
  deriving DecidableEq, Repr

/-- A word that a member of a sweep expects (R223): its buffer, 0 prefix, 1 suffix, 2 rows above, 3 rows below, or 4 for
the check of a BCS root rank (R224); when it is due; the tile that sends it. -/
structure SweepWait where
  which : Nat
  due : Nat
  sender : Nat
  deriving DecidableEq, Repr

/-- A sweep command of a member (R371): the result row, its root rank, and the words it still expects. -/
structure SweepCmd where
  kind : SweepKind
  op : SweepOp
  fmt : Fmt
  level : Nat
  root : Nat
  vd : Nat
  waits : List SweepWait
  deriving DecidableEq, Repr

/-- What a channel does (R363 to R367). -/
inductive ChKind where
  | cpy (dst src : Nat) (side : Bool) (kind : Swz)
  | cpz (dst : Nat)
  | cpt (src stride : Nat) (kind : Swz) (b : Bool)
  | cpn (dir : Side) (dst src : Nat)
  | acpOut (acc row0 dst : Nat)
  | acpIn (acc row0 src writer : Nat) (fp : Bool)
  | sweep (w : SweepCmd)
  deriving DecidableEq, Repr

/-- A reservation span (R185): a range of bytes, as the set of bank words it covers, and its kind. -/
structure Span where
  banks : BitVec 64
  r0 : Nat
  r1 : Nat
  write : Bool
  deriving DecidableEq, Repr

/-- A row a channel has read and not yet landed: its number and its bits with the poison of its 16-byte words. -/
structure ChRow where
  j : Nat
  bits : Row
  poi : BitVec 8
  deriving DecidableEq, Repr

/-- The follow-on of a CPT, pending (R365): its word 1, and word 2. -/
structure PendFollow where
  f : Follow
  w2 : W32
  due : Nat
  deriving DecidableEq, Repr

/-- A command on a copy channel (R185, R360): issue cycle, rows, last busy cycle, rows read and rows landed, the rows
between, its spans, and its bundle; `lag` is 4 for a command that touches a borrowed bank (R79). -/
structure ChCmd where
  what : ChKind
  c : Nat
  m : Nat
  busy : Nat
  bundle : Nat
  poi : Bool
  lag : Nat
  read : Nat
  landed : Nat
  buf : List ChRow
  spans : List Span
  follow : Option PendFollow
  deriving DecidableEq, Repr

/-! ## Remote operations (R197 to R206, R368 to R372, R385 to R390) -/

/-- What a remote operation does at its slices. -/
inductive OpKind where
  | stg | stp | gst | ldg
  | amo (f : AmoForm)
  | cas (cmp : W64)
  | wake | crdy
  deriving DecidableEq, Repr

/-- One 256-byte block of a remote operation at its slice (R65, R66, R195): its number, the physical address over 256;
the GCYC at which its request reaches the slice; once a slot has served it, the GCYC at which its write is in HBM or its
data land; the data a read slot took, with the poison of each 16-byte word; whether it is finished. -/
structure Piece where
  blk : Nat
  reach : Nat
  due : Option Nat
  data : BitVec 2048
  poi : BitVec 16
  done : Bool
  deriving DecidableEq, Repr

/-- A remote operation of a tile (R197 to R200): issue cycle and deadline in LCYC, the device address, its length, the
SRAM window, the operand, the destination scalar of a reply; whether it has been performed, at which cycle, what it
returned, and whether it is late (R50); `mute` for an operation of a voided tile (R170); `slot` and `bundle` of its
instruction; `checked` once its completion has been judged (R199); `replays` counts, for each crossing it makes, 2 times
the module plus the direction, the replays that fell on it (R50); `pieces` are its blocks at the slices; `turn` is the LCYC
that places it among the writes of its launch that nothing else orders (R9); `kept` when a flag held it back inside its tile
at F (R171, R204). -/
structure RemOp where
  id : Nat
  kind : OpKind
  issued : Nat
  deadline : Nat
  pa : Nat
  len : Nat
  win : Nat
  data : W64
  dest : Nat
  fmt : Fmt
  gpoi : Bool
  scope : Nat
  acq : Bool
  rel : Bool
  done : Bool
  doneAt : Nat
  result : W64
  rpoi : Bool
  late : Bool
  mute : Bool
  slot : Nat
  bundle : Nat
  checked : Bool
  replays : Sparse Nat
  pieces : List Piece
  turn : Nat
  kept : Bool
  deriving DecidableEq, Repr

/-! ## Faults, health, tiles -/

/-- One entry of the deferred list of a fault record (R166). -/
structure DefFault where
  cause : Nat
  sub : Nat
  slot : Nat
  bundle : Nat
  cyc : Nat
  deriving DecidableEq, Repr

/-- What a raising tile writes at F (R164); `slot` is the slot of its cause. -/
structure Raise where
  cause : Nat
  sub : Nat
  slot : Nat
  bundle : Nat
  mask : Byte
  post : Bool
  deriving DecidableEq, Repr

/-- The health record of a tile (R80, R81). -/
structure Health where
  bkt : BitVec 7
  sus : Bool
  state : BitVec 2
  nlost : BitVec 2
  lb0 : BitVec 6
  lb1 : BitVec 6
  lent : BitVec 2
  deriving DecidableEq, Repr

/-- A healthy tile. -/
def Health.zero : Health := ⟨0, false, 0, 0, 0, 0, 0⟩

/-- The task states (R156); VOIDED is RUNNING or ENDED with the tile's void mark set (R170). -/
inductive TaskState where
  | idle | loaded | running | ended | frozen | stabled
  deriving DecidableEq, Repr

/-- A tile. `heldState` is the state before a freeze (R156). `yhist` marks the Y bundles of the last 4,096 task bundles
(R275). `fwRegs` are the values a firmware WRS left in LBASE, YSHARE, FWSTAT and FREC (R275). `nextId` numbers its
remote operations and accumulator writers. `wrote` are the banks its slots wrote at the end of cycle `wroteAt` (R361);
`spec` are the faults of LDS and LDWS of the latest cycle that had one, which are listed if that cycle proves to be
the T of a freeze (R377). `gTails` are the issue cycles and last SRAM writes of CPNs whose channel is free again while they
still write (R360, R366); `errs` counts the corrected errors of this cycle (R80). -/
structure Tile where
  part : Option Nat
  task : Ctx
  fw : Ctx
  st : TaskState
  heldState : TaskState
  voided : Bool
  mapped : Bool
  wid : W64
  rows : Sparse RowReg
  acc : Sparse AccTile
  la : W32
  lb : W32
  trA : List TroughRow
  trB : List TroughRow
  arrN : Option RowReg
  arrE : Option RowReg
  arrS : Option RowReg
  arrW : Option RowReg
  mx : List MxCmd
  finals : List AccFinal
  ta : Option ChCmd
  tb : Option ChCmd
  g : Option ChCmd
  sw : Option ChCmd
  ops : List RemOp
  nextId : Nat
  sram : List Host.Cell
  spoi : Sparse Bool
  wrote : BitVec 64
  wroteAt : Nat
  spec : List DefFault
  deferred : List DefFault
  defOver : Bool
  raise : Option Raise
  yhist : BitVec 4096
  fwRegs : Sparse W64
  health : Health
  gTails : List (Nat × Nat)
  errs : Nat
  deriving DecidableEq, Repr

/-- A tile as PCREATE leaves it (R134, R300), outside every partition. -/
def Tile.zero : Tile :=
  ⟨none, Ctx.zero, Ctx.zero, .idle, .idle, false, false, 0, [], [], 1, 2, [], [], none, none, none, none, [], [], none,
    none, none, none, [], 0, [], [], 0, 0, [], [], false, none, 0, [], Health.zero, [], 0⟩

/-! ## Launches and partitions (R118 to R123, R134 to R155) -/

/-- A region entry (R120, R193): virtual base, physical base, length in 2 MiB pages, rights. -/
structure Region where
  vbase : Nat
  pbase : Nat
  pages : Nat
  r : Bool
  w : Bool
  a : Bool
  deriving DecidableEq, Repr

/-- The bindings of a level (R119, R140). -/
inductive Bind where
  | lane | tile | pen | field | wafer | node | rack
  deriving DecidableEq, Repr

/-- The policies of a level (R119, R169). -/
inductive Policy where
  | ignore | killSelf | retry | killParent
  deriving DecidableEq, Repr

/-- A tree entry (R119). -/
structure Level where
  width : Nat
  bind : Bind
  policy : Policy
  retry : Nat
  deriving DecidableEq, Repr

/-- What a launch header and its code object say (R118, R121, R122). `pre` are the header's bytes with every PBASE field
zero, as they are measured (R127); `wids` are the mapped tiles, by key, with their work identifiers. -/
structure Bank where
  regions : List Region
  tree : List Level
  wids : List (Nat × W64)
  ioff : Nat
  nbun : Nat
  entry : Nat
  foot : Nat
  rows : Nat
  yshare : Nat
  preempt : Nat
  rbp : Nat
  wdog : Nat
  aligns : Bool
  pre : List Byte
  codeAddr : Nat
  codeLen : Nat
  argAddr : Nat
  argLen : Nat
  argoff : Nat
  rbuf : Nat
  rblen : Nat
  deriving DecidableEq, Repr

/-- No launch. -/
def Bank.zero : Bank := ⟨[], [], [], 0, 0, 0, 0, 0, 0, 0, 0, 0, false, [], 0, 0, 0, 0, 0, 0, 0⟩

/-- A launch from commitment to retirement (R116, R122, R128, R150 to R153): its queue and entry index, context, LSEQ,
priority, header; S of the latest attempt, none until it is announced; the attempts, the retries used at each level, the
void set (tile keys), the measurement, whether code and arguments have been placed, the charge so far, the enable of
the queue it was taken under, and the code object and argument block as fetched. `lastS` is S of the latest attempt whose S
was announced (R130). -/
structure Launch where
  q : Nat
  idx : W32
  ctx : Nat
  lseq : W64
  prio : Nat
  bank : Bank
  s : Option Nat
  attempts : Nat
  used : Sparse Nat
  voids : List Nat
  meas : BitVec 256
  placed : Bool
  charge : Nat
  epoch : Nat
  code : List Byte
  args : List Byte
  lastS : Option Nat
  deriving DecidableEq, Repr

/-- The outcomes of a freeze (R165). -/
inductive Outcome where
  | resume | retry | voidResume | discard | stable
  deriving DecidableEq, Repr

/-- A freeze from its announcement on (R158 to R167): T and F in LCYC, the announced cause, the front end's requests
that fell in its shadow, whether F has been reached and the frame is complete, the outcome with its
level and error code, G once announced, the tiles that have given RFZ, and the tile whose cause is announced, if one's is
(R158, R277). `bare` when the announced cause is an uncorrectable error outside every tile, which no record lists; `errors`
are the cycles of the errors outside every tile that a record is to list (R84). -/
structure Freeze where
  t : Nat
  f : Nat
  cause : Nat
  sub : Nat
  front : Bool
  discardReq : Bool
  serviceReq : Bool
  preemptReq : Bool
  stopped : Bool
  captured : Bool
  outcome : Outcome
  level : Nat
  code : Nat
  resumeAt : Option Nat
  fgcyc : Nat
  given : List Nat
  killed : Bool
  by_ : Option Nat
  bare : Bool
  errors : List Nat
  deriving DecidableEq, Repr

/-- A word on a scheduled-fabric link (R210): the tile whose link it enters next and the side, when it enters, the
remaining displacement, the order, whether it is a burst row of CPN with its SRAM address, and the word. -/
structure LinkWord where
  x : Nat
  y : Nat
  dir : Side
  enter : Nat
  inn : Option Side
  dx : Int
  dy : Int
  yx : Bool
  burst : Option Nat
  poi8 : BitVec 8
  w : RowReg
  bundle : Nat
  deriving DecidableEq, Repr

/-- A word on its last link: the tile and register it arrives at, and when it is in place (R210, R366). -/
structure Arrival where
  x : Nat
  y : Nat
  port : Side
  due : Nat
  burst : Option Nat
  poi8 : BitVec 8
  w : RowReg
  deriving DecidableEq, Repr

/-- The words a member sends in a sweep issued at cycle c (R223, R224): what they carry, its contribution, the terms of
the words it has received, in lattice order, and whether one was bad. -/
structure SweepWord where
  x : Nat
  y : Nat
  c : Nat
  kind : SweepKind
  op : SweepOp
  fmt : Fmt
  level : Nat
  root : Nat
  v : RowReg
  pre : List RowReg
  suf : List RowReg
  above : List RowReg
  below : List RowReg
  bad : Bool
  deriving DecidableEq, Repr

/-- An arrival at a barrier (R317). -/
structure BarArrival where
  x : Nat
  y : Nat
  level : Nat
  d : Nat
  at_ : Nat
  deriving DecidableEq, Repr

/-- Partition power states (R108). -/
inductive PPower where
  | active | idle | retain | dark
  deriving DecidableEq, Repr

/-- Where a 4 KiB block of a stabled launch lies (R175): the SRAM of a tile at an address, 32 rows of a tile from one on,
or the save area at an offset. -/
inductive LoftPlace where
  | sram (k addr : Nat)
  | rows (k r0 : Nat)
  | save (off : Nat)
  deriving DecidableEq, Repr

/-- A block of a stabled launch (R176): its number within the launch, its place, the partition's count when it was sealed,
its content, 4,096 bytes and a poison bit for each 16, its tag, and whether an uncorrectable error has struck it
(R179). -/
structure LoftBlock where
  num : Nat
  place : LoftPlace
  count : Nat
  cells : List Host.Cell
  poi : BitVec 256
  tag : BitVec 64
  struck : Bool
  deriving DecidableEq, Repr

/-- A barrier that spans modules (R232): its level and deadline, the rings still to return, as LVL values, whether this
module's own members have all arrived, the frames of other modules that wait for that, and whether it has been aborted. -/
structure BarRing where
  level : Nat
  d : Nat
  rings : List Nat
  inside : Bool
  frames : List Frame
  aborted : Bool
  deriving DecidableEq, Repr

/-- A stabled launch (R174 to R178): its launch, its freeze, its tiles by key, what the partition held between them, and
the blocks that hold its image. -/
structure Stabled where
  launch : Launch
  freeze : Freeze
  lbase : Nat
  tiles : List (Nat × Tile)
  links : List LinkWord
  arrivals : List Arrival
  sweepWords : List SweepWord
  bars : List BarArrival
  ring : Option BarRing
  barFire : Option Nat
  blocks : List LoftBlock
  deriving DecidableEq, Repr

/-- A partition (R134 to R138). `lbase` is GCYC at LCYC 0, as resumes shift it; `pendRecs` are trap-queue records not yet
placed (R106); `barFire` is the LCYC at which the members of this module have arrived at a barrier between modules
(R232). -/
structure Part where
  px0 : Nat
  py0 : Nat
  w : Nat
  h : Nat
  ctl : Bool
  power : PPower
  trans : Option (PPower × Nat)
  gen : Byte
  mgrp : W64
  save : Nat
  stablings : Nat
  tq : Sparse (BitVec 512)
  tqValid : BitVec 64
  tqLost : Bool
  tseq : W32
  lfault : W32
  lbase : Nat
  bank : Bank
  run : Option Launch
  next : Option Launch
  stab : Option Stabled
  freeze : Option Freeze
  links : List LinkWord
  arrivals : List Arrival
  sweepWords : List SweepWord
  bars : List BarArrival
  ring : Option BarRing
  barFire : Option Nat
  rr : Sparse Nat
  pendRecs : List (BitVec 512)
  deriving DecidableEq, Repr

/-! ## Queues, ports, links, memory side, sequencers -/

/-- Queue states (R95). -/
inductive QState where
  | disabled | running | error
  deriving DecidableEq, Repr

/-- A record that has been taken (R114 to R116, R148): its index and 256 bytes, the priority of its queue when taken,
its LSEQ, whether it has started and completed, which dependences have been met, when its event words are next read in
any case (R115), whether its partitions have been reported not active (R109), and of a launch record that has ended bytes 0 to 191 of its receipt (R130). -/
structure Rec where
  idx : W32
  bytes : BitVec 2048
  prio : Nat
  lseq : W64
  started : Bool
  done : Bool
  met : Byte
  recheck : Nat
  noted : Bool
  rcpt : BitVec 1536
  deriving DecidableEq, Repr

/-- A queue (R94 to R104, R148 to R151). `asleep` marks that an entry was not there yet, so that the next wake is awaited
(R99); `lastS` is the greatest first S of its launches (R150); `epoch` counts its enables. -/
structure Queue where
  desc : BitVec 512
  en : Bool
  st : QState
  ridx : W32
  widx : W32
  cidx : W32
  err : Byte
  held : Option (BitVec 512)
  def_ : Int
  recs : List Rec
  asleep : Bool
  lastS : Nat
  epoch : Nat
  deriving DecidableEq, Repr

/-- A queue nobody has enabled. -/
def Queue.zero : Queue := ⟨0, false, .disabled, 0, 0, 0, 0, none, 0, [], false, 0, 0⟩

/-- A landing region of a port (R57, R92). -/
structure Landing where
  base : W64
  len : W64
  rid : W64
  ctl : W64
  deriving DecidableEq, Repr

/-- A landing region after reset. -/
def Landing.zero : Landing := ⟨0, 0, 0, 0⟩

/-- A host port (R54, R91, R92, R102, R103). -/
structure Port where
  aper : W64
  dropcnt : W64
  lr : Sparse Landing
  evbase : W64
  evsz : W64
  evhead : W32
  evtail : W32
  evovf : W32
  evctl : W64
  eseq : W32
  ovfPending : Bool
  cmdarg : Sparse W64
  cmdstat : W64
  msix : Sparse W32
  pending : W64
  deriving DecidableEq, Repr

/-- A port after reset. -/
def Port.zero : Port := ⟨0, 0, [], 0, 0, 0, 0, 0, 0, 0, false, [], 0, [], 0⟩

/-- Modes of an HBM channel (R67). -/
inductive ChMode where
  | off | run | train | test
  deriving DecidableEq, Repr

/-- An HBM channel (R65 to R69): its registers and slot table; HERR of each lane; the lane map, which gives for a failed
lane the redundant lane in its place plus 1; and the start of the latest slot performed. -/
structure HChan where
  hctl : W64
  hdly : Sparse W64
  hpat : W64
  hpwd : W64
  herr : Sparse W64
  heye : W64
  hrpr : W64
  hstat : W64
  laneMap : Sparse Nat
  slots : List (BitVec 16)
  lastSlot : Option Nat
  deriving DecidableEq, Repr

/-- A channel as training leaves it (R42, R67): running, trained, no slot table. -/
def HChan.zero : HChan := ⟨2, [], 0, 0, [], 0, 0, 1, [], [], none⟩

/-- A message of which some beats have crossed a module (R215): its class, its partition, its header, and how many. -/
structure Train where
  cls : Nat
  part : Nat
  hdr : BitVec 256
  got : Nat
  deriving DecidableEq, Repr

/-- One end of a UCIe module (R46 to R52): the next SEQ it sends, the replay buffer of the flits not acknowledged, oldest
first; the last good SEQ received, the flits accepted, whether it discards until a replay; the credits it has used for
each class, the beats it holds of each class; the parity of each lane over what it has sent and received since the last
parity flit, what the latter was when that flit came, and the lanes on which an accepted parity flit disagrees with it,
until they are judged; and the messages of which beats are still to come. -/
structure UcieEnd where
  txSeq : BitVec 12
  sent : List Flit
  rxSeq : BitVec 12
  fcnt : Nat
  discarding : Bool
  used : Sparse Nat
  held : Sparse Nat
  txPar : BitVec 64
  rxPar : BitVec 64
  period : BitVec 64
  seen : Option (BitVec 64)
  trains : List Train
  deriving DecidableEq, Repr

/-- An end after link training. -/
def UcieEnd.zero : UcieEnd := ⟨0, [], 0xFFF, 0, false, [], [], 0, 0, 0, none, []⟩

/-- A UCIe module (R46 to R53): its end at the wafer and its end at the yard chiplet; the flit counts of its replays; lane
parity disagreements as lane and flit count, the parity mismatch since the last read, the last lane marked degraded, lanes
that wait for a switch, redundant lanes used; disabled, and its reservations re-laid. -/
structure Ucie where
  wafer : UcieEnd
  yard : UcieEnd
  replays : List Nat
  parity : List (Nat × Nat)
  par : Bool
  lane : Nat
  pendLanes : BitVec 64
  spares : Nat
  disabled : Bool
  relaid : Bool
  deriving DecidableEq, Repr

/-- A module after link training. -/
def Ucie.zero : Ucie := ⟨UcieEnd.zero, UcieEnd.zero, [], [], false, 0, 0, 0, false, false⟩

/-- A frame sent and not acknowledged (R62): its key, when it was last sent, how often again; `stale` for a frame of an
earlier run of its entry. -/
structure SentFrame where
  chunk : Nat
  hop : Nat
  dst : BitVec 16
  fr : Frame
  tries : Nat
  at_ : Nat
  stale : Bool
  deriving DecidableEq, Repr

/-- A run of a sequencer entry (R228 to R231): the owner, position and ring length, chunk count; the status of each
chunk, the frames applied, the terms of a cavity chunk received, the frames unacknowledged, whether it aborted, whether
the entry has ended and when. -/
structure SeqRun where
  part : Nat
  pos : Nat
  n : Nat
  chunks : Nat
  status : Sparse Nat
  applied : List Frame
  prefix_ : Sparse (List Byte)
  suffix_ : Sparse (List Byte)
  sent : List SentFrame
  aborted : Bool
  ended : Bool
  endedAt : Nat
  deriving DecidableEq, Repr

/-- A field (R85 to R87): out of alignment; realigning, and from which neighbour it took its count; out of service; how
often it has failed to realign; the consecutive markers that have matched at each boundary, by neighbour; PLL lock; the
neighbours at whose boundaries alignment is lost; the cycle at which it last began to realign. -/
structure FieldSt where
  lost : Bool
  realigning : Bool
  src : Nat
  outOfService : Bool
  fails : Nat
  matched : Sparse Nat
  locked : Bool
  bad : List Nat
  since : Nat
  deriving DecidableEq, Repr

/-- An aligned field. -/
def FieldSt.zero : FieldSt := ⟨false, false, 0, false, 0, [], true, [], 0⟩

/-- Module power states (R107). -/
inductive MPower where
  | off | standby | on
  deriving DecidableEq, Repr

/-- Which slot of which stream is being performed (the model's own record). -/
structure Cursor where
  who : Who
  slot : Nat
  deriving DecidableEq, Repr

/-- The last completion returned to the host (the model's own record of an output, R56, R91). -/
structure HostReply where
  ok : Bool
  data : List Byte
  deriving DecidableEq, Repr

/-- Step 3 of R42 under way: the port that asked for ON, when it was accepted, and the cycles that the image load, the lock
of the last PLL, the alignment, and the training of UCIe links and of HBM4 channels, which overlap, take. -/
structure OnTask where
  port : Nat
  start : Nat
  load : Nat
  lock : Nat
  align : Nat
  links : Nat
  hbm : Nat
  deriving DecidableEq, Repr

/-- A fault of a firmware context or a front-end core, as the front end receives it (R274). -/
structure FwFault where
  who : Who
  cause : Nat
  sub : Nat
  gcyc : Nat
  deriving DecidableEq, Repr

/-- The machine. Tiles are keyed by 256*y + x, partitions and queues by their numbers, channels by 16*slice + channel,
UCIe modules, sequencer entries (4096*chiplet + entry) and front-end cores (4*chiplet + core) likewise; `barSeen` are the
barrier frames that have been applied, and when (R62). -/
structure State where
  gcyc : Nat
  power : MPower
  vin : Bool
  flowOk : Bool
  perst : BitVec 8
  modidPins : BitVec 16
  modid : BitVec 16
  trip : Bool
  thermtrip : Bool
  alertPending : Bool
  onTask : Option OnTask
  imageLen : Nat
  image : List Host.Cell
  romHash : BitVec 256
  bootm : BitVec 256
  onCount : Nat
  wgen : Byte
  retired : Sparse Nat
  fields : Sparse FieldSt
  ownsem : BitVec 2
  chains : Sparse (BitVec 256)
  lseqs : Sparse W64
  tiles : Sparse Tile
  parts : Sparse (Option Part)
  queues : Sparse Queue
  ports : Sparse Port
  chans : Sparse HChan
  sliceBkt : Sparse Nat
  sliceSus : Sparse Bool
  sliceErrs : Sparse Nat
  remap : Sparse W64
  ucie : Sparse Ucie
  seqEntries : Sparse (BitVec 512)
  seqRuns : Sparse (Option SeqRun)
  groupTab : Sparse Byte
  barSeen : List (Frame × Nat)
  cores : Sparse Ctx
  dev : List Host.Cell
  devPoi : Sparse Bool
  host : List Host.Cell
  hostReply : HostReply
  ethOut : List (Nat × Frame)
  ethDrops : Nat
  msgDrops : Nat
  errReplies : List (BitVec 16 × BitVec 16)
  fwFaults : List FwFault
  creates : Nat
  cur : Cursor
  agenda : List (Nat × Instr)
  freeCtr : Nat
  deriving DecidableEq, Repr

/-- Why the machine stops with a fault. -/
inductive Fault where
  /-- Raised by an access to a physical device address at which R36 and R225 place neither memory nor a sequencer
  space. Safe: the spec gives such an access no effect. -/
  | physicalAddressAbsent
  deriving DecidableEq, Repr

/-- Why the model gives an instruction no meaning. -/
inductive Refusal where
  /-- Raised by an arm of `exec` whose instruction is not modelled yet. Safe. -/
  | notModelled (mnemonic : String)
  deriving DecidableEq, Repr

/-- The machine with its power OFF and nothing supplied (R42, R107), everything else at the values NOTES.md names. -/
def State.reset : State :=
  { gcyc := 0, power := .off, vin := false, flowOk := false, perst := 0xFF, modidPins := 0, modid := 0, trip := false,
    thermtrip := false, alertPending := false, onTask := none, imageLen := 0, image := [], romHash := 0, bootm := 0, onCount := 0,
    wgen := 0, retired := [], fields := [], ownsem := 0, chains := [], lseqs := [], tiles := [], parts := [],
    queues := [], ports := [], chans := [], sliceBkt := [], sliceSus := [], sliceErrs := [], remap := [], ucie := [], seqEntries := [], seqRuns := [],
    groupTab := [], barSeen := [], cores := [], dev := [], devPoi := [], host := [], hostReply := ⟨true, []⟩, ethOut := [],
    ethDrops := 0, msgDrops := 0, errReplies := [], fwFaults := [], creates := 0, cur := ⟨.task 0 0, 0⟩, agenda := [], freeCtr := 0 }

end Sys2Proof.Machine
end

