-- ==== Sys2Proof/Machine/Ops.lean ====
section
/-! DEFINITION. The named operations over the state: contexts and registers, cycles, latches, taking a trap
(R158 to R161, R274), stopping at F (R164) and resuming (R167), and the slot rule (R266, R262, R161). -/

namespace Sys2Proof.Machine

/-! ## Tiles and partitions -/

/-- The key of tile (x, y) (R81). -/
def tileKey (x y : Nat) : Nat := 256 * y + x

/-- The tile at a key. -/
def State.tile (s : State) (k : Nat) : Tile := sget Tile.zero s.tiles k
/-- The machine with another tile at a key. -/
def State.setTile (s : State) (k : Nat) (t : Tile) : State := { s with tiles := sset Tile.zero s.tiles k t }
/-- The machine with a tile changed. -/
def State.modTile (s : State) (k : Nat) (f : Tile → Tile) : State := s.setTile k (f (s.tile k))

/-- The partition of an id, none where the id is not in use. -/
def State.part (s : State) (p : Nat) : Option Part := sget none s.parts p
/-- The machine with a partition. -/
def State.setPart (s : State) (p : Nat) (q : Part) : State := { s with parts := sset none s.parts p (some q) }
/-- The machine with a partition changed, if it exists. -/
def State.modPart (s : State) (p : Nat) (f : Part → Part) : State :=
  match s.part p with
  | some q => s.setPart p (f q)
  | none => s
/-- The partition a tile belongs to. -/
def State.partOf (s : State) (k : Nat) : Option Part :=
  match (s.tile k).part with
  | some p => s.part p
  | none => none
/-- R122: what the tiles hold of the running launch. -/
def State.bankOf (s : State) (k : Nat) : Bank :=
  match s.partOf k with
  | some q => q.bank
  | none => Bank.zero
/-- The tile's own partition changed. -/
def State.modPartOf (s : State) (k : Nat) (f : Part → Part) : State :=
  match (s.tile k).part with
  | some p => s.modPart p f
  | none => s

/-- R136: the freeze distance. -/
def Part.dist (q : Part) : Nat :=
  let sx := (q.px0 + q.w - 1) / 8 - q.px0 / 8
  let sy := (q.py0 + q.h - 1) / 6 - q.py0 / 6
  2 * (4 * q.w + 4 * q.h) + 2 * (sx + sy) + 8

/-- Tile (x, y) lies in the partition (R29, R137). -/
def Part.holds (q : Part) (x y : Nat) : Bool :=
  4 * q.px0 ≤ x && x < 4 * (q.px0 + q.w) && 4 * q.py0 ≤ y && y < 4 * (q.py0 + q.h)

/-! ## Contexts -/

/-- The tile key a stream belongs to; a front-end core has a key of its own beyond every tile. -/
def whoKey : Who → Nat
  | .task x y => tileKey x y
  | .fw x y => tileKey x y
  | .core i k => 65536 + 4 * i + k

/-- The context of a stream. -/
def State.ctxAt (s : State) : Who → Ctx
  | .task x y => (s.tile (tileKey x y)).task
  | .fw x y => (s.tile (tileKey x y)).fw
  | .core i k => sget Ctx.zero s.cores (4 * i + k)
/-- The machine with another context for a stream. -/
def State.setCtxAt (s : State) (w : Who) (c : Ctx) : State :=
  match w with
  | .task x y => s.modTile (tileKey x y) fun t => { t with task := c }
  | .fw x y => s.modTile (tileKey x y) fun t => { t with fw := c }
  | .core i k => { s with cores := sset Ctx.zero s.cores (4 * i + k) c }
/-- The context of the slot being performed. -/
def State.ctx (s : State) : Ctx := s.ctxAt s.cur.who
/-- The machine with that context changed. -/
def State.modCtx (s : State) (f : Ctx → Ctx) : State := s.setCtxAt s.cur.who (f s.ctx)
/-- The tile of the slot being performed. -/
def State.myKey (s : State) : Nat := whoKey s.cur.who

/-! ## Cycles (R12, R275) -/

/-- LCYC of a tile. -/
def State.lcycOf (s : State) (k : Nat) : Nat :=
  match s.partOf k with
  | some q => s.gcyc - q.lbase
  | none => s.gcyc
/-- The cycle a stream counts its results in: LCYC for a task, GCYC for a firmware context and a core (R325). -/
def State.nowAt (s : State) : Who → Nat
  | .task x y => s.lcycOf (tileKey x y)
  | .fw _ _ => s.gcyc
  | .core _ _ => s.gcyc
/-- The cycle of the slot being performed. -/
def State.now (s : State) : Nat := s.nowAt s.cur.who

/-! ## Registers (R257) -/

/-- Scalar r; s0 reads 0, I32, no poison. -/
def Ctx.readS (c : Ctx) (r : Nat) : Scalar := if r = 0 then Scalar.zero else sget Scalar.zero c.s r
/-- Scalar r written; a write to s0 is discarded. -/
def Ctx.writeS (c : Ctx) (r : Nat) (v : Scalar) : Ctx := if r = 0 then c else { c with s := sset Scalar.zero c.s r v }
/-- Predicate r; p0 reads true, no poison. -/
def Ctx.readP (c : Ctx) (r : Nat) : Pred := if r = 0 then ⟨true, false⟩ else sget Pred.zero c.p r
/-- Predicate r written; a write to p0 is discarded. -/
def Ctx.writeP (c : Ctx) (r : Nat) (v : Pred) : Ctx := if r = 0 then c else { c with p := sset Pred.zero c.p r v }
/-- Branch target r. -/
def Ctx.readB (c : Ctx) (r : Nat) : Btgt := sget Btgt.zero c.b r
/-- Branch target r written. -/
def Ctx.writeB (c : Ctx) (r : Nat) (v : Btgt) : Ctx := { c with b := sset Btgt.zero c.b r v }
/-- Row r. -/
def Tile.readV (t : Tile) (r : Nat) : RowReg := sget RowReg.zero t.rows r
/-- Row r written. -/
def Tile.writeV (t : Tile) (r : Nat) (v : RowReg) : Tile := { t with rows := sset RowReg.zero t.rows r v }

/-- The 5-bit tag of a format and a poison bit (R258). -/
def tagOf (f : Fmt) (poi : Bool) : BitVec 5 := (if poi then 1#1 else 0#1) ++ Dec.fmtCode f
/-- The bundle address of a branch target. -/
def Btgt.addr (b : Btgt) : Nat := 64 * b.a.toNat
/-- Bits 20:6 of an address (DEDUCED, log 34). -/
def bundleBits (a : Nat) : BitVec 15 := BitVec.ofNat 15 (a / 64)

/-! ## Bytes -/

/-- The n bytes of a value, lowest first (R10). -/
def bytesOf (n v : Nat) : List Byte := (List.range n).map fun i => BitVec.ofNat 8 (v / 256 ^ i)
/-- The number n bytes hold, lowest first. -/
def ofBytes : List Byte → Nat
  | [] => 0
  | b :: bs => b.toNat + 256 * ofBytes bs

/-- The canonical form of a memory: addresses strictly rising, no byte equal to what an unlisted address reads as. -/
def Memory.wf (m : List Host.Cell) : Bool := swf 0#8 m
/-- What an unlisted address reads as (DESIGN CHOICE, log 4). -/
def Memory.read (m : List Host.Cell) (a : Nat) : Byte := sget 0#8 m a
/-- The n bytes from an address on. -/
def Memory.reads (m : List Host.Cell) (a n : Nat) : List Byte := sread 0#8 m a n
/-- Bytes written from an address on. -/
def Memory.write (m : List Host.Cell) (a : Nat) (bs : List Byte) : List Host.Cell := swrite 0#8 m a bs
/-- The n bytes from an address on, zero. -/
def Memory.clear (m : List Host.Cell) (a n : Nat) : List Host.Cell := sclear m a n

/-- R376, R202: the poison bits of the 16-byte words a write of n bytes touches: a whole word takes the data's, a part
ORs it in. -/
def poisonWrite (m : Sparse Bool) (a n : Nat) (poi : Bool) : Sparse Bool :=
  if n = 0 then m
  else
    let w0 := a / 16
    let cnt := (a + n - 1) / 16 - w0 + 1
    (List.range cnt).foldl (fun m i =>
      let w := w0 + i
      let whole := decide (a ≤ 16 * w ∧ 16 * w + 16 ≤ a + n)
      sset false m w (poi || (!whole && sget false m w))) m
/-- R261: any 16-byte word of a range is poisoned. -/
def poisonRead (m : Sparse Bool) (a n : Nat) : Bool :=
  n != 0 && (List.range ((a + n - 1) / 16 - a / 16 + 1)).any fun i => sget false m (a / 16 + i)

/-- The addresses of the 16-byte words of a range of n bytes, as word numbers. -/
def wordsOf (a n : Nat) : List Nat := if n = 0 then [] else (List.range ((a + n - 1) / 16 - a / 16 + 1)).map (a / 16 + ·)
/-- R181: the bank of a 16-byte word. -/
def bankBit (w : Nat) : BitVec 64 := 1#64 <<< (w % 64)
/-- R181: the banks that ranges of bytes touch. -/
def banksOf (rs : List (Nat × Nat)) : BitVec 64 :=
  rs.foldl (fun m r => (wordsOf r.1 r.2).foldl (fun m w => m ||| bankBit w) m) 0

/-- The tile with bytes written to its SRAM. -/
def Tile.writeSram (t : Tile) (a : Nat) (bs : List Byte) (poi : Bool) : Tile :=
  { t with sram := Memory.write t.sram a bs, spoi := poisonWrite t.spoi a bs.length poi }
/-- Device memory written (R202). -/
def State.writeDev (s : State) (a : Nat) (bs : List Byte) (poi : Bool) : State :=
  { s with dev := Memory.write s.dev a bs, devPoi := poisonWrite s.devPoi a bs.length poi }

/-! ## Latches (R166, R270) -/

/-- The latch at the end of the list. -/
def Ctx.push (c : Ctx) (l : Latch) : Ctx := { c with latches := c.latches ++ [l] }
/-- A result put in flight by the slot being performed. -/
def State.push (s : State) (l : Latch) : State := s.modCtx fun c => c.push l

/-- A latch with nothing enabled: at its due cycle it poisons its register (R161). -/
def Latch.poisoning (kind : LatchKind) (slot dest : Nat) (fmt : Fmt) (issued due : Nat) : Latch :=
  ⟨kind, slot, dest, fmt, true, issued, due, false, 0, 0, 0, 0, none, 0, [], false⟩
/-- A latch that writes the enabled bits of a value. -/
def Latch.result (kind : LatchKind) (slot dest : Nat) (fmt : Fmt) (poi : Bool) (issued due : Nat) (val en : Row)
    (flags : BitVec 5) : Latch :=
  ⟨kind, slot, dest, fmt, poi, issued, due, false, val, en, 0, flags, none, 0, [], false⟩

/-- Every bit enabled. -/
def allBits : Row := BitVec.allOnes 1024

/-- The result of a scalar instruction at c + n. -/
def State.pushS (s : State) (d : R5) (fmt : Fmt) (poi : Bool) (n : Nat) (v : W64) (flags : BitVec 5) : State :=
  s.push (.result .scalar s.cur.slot d.toNat fmt poi s.now (s.now + n) (v.setWidth 1024) allBits flags)
/-- The predicate an instruction writes at c + n. -/
def State.pushP (s : State) (d : P4) (poi : Bool) (n : Nat) (v : Bool) (flags : BitVec 5) : State :=
  s.push (.result .pred s.cur.slot d.toNat .raw poi s.now (s.now + n) (BitVec.ofNat 1024 v.toNat) allBits flags)
/-- The enabled bits of a row an instruction writes at c + n. -/
def State.pushV (s : State) (d : Nat) (fmt : Fmt) (poi : Bool) (n : Nat) (v en : Row) (flags : BitVec 5) : State :=
  s.push (.result .row s.cur.slot d fmt poi s.now (s.now + n) v en flags)
/-- R312: the address and prepared flag an instruction writes into a branch target at c + n. -/
def State.pushB (s : State) (d : Nat) (poi : Bool) (n : Nat) (a : Nat) (prep : Bool) : State :=
  s.push { Latch.result .btgt s.cur.slot d .raw poi s.now (s.now + n) ((bundleBits a).setWidth 1024) allBits 0 with
    prep := some prep }
/-- R312: the prepared flag that a PBR sets at c + 3. -/
def State.pushPrep (s : State) (d : Nat) : State :=
  s.push { Latch.poisoning .btgt s.cur.slot d .raw s.now (s.now + 3) with poi := false, prep := some true }

/-- GCYC at LCYC 0 of a tile's partition, as resumes shift it (R167). -/
def State.lbaseOf (s : State) (k : Nat) : Nat :=
  match s.partOf k with
  | some q => q.lbase
  | none => 0
/-- R80: the corrected errors a tile detects at this cycle, whose number is free (log 6). -/
def State.detect (s : State) (k : Nat) : State :=
  s.modTile k fun t => { t with errs := t.errs + Config.corrected s.gcyc k }

/-- The special registers a latch writes (R245, R275): the number is the latch's destination. What a firmware context writes
to LBASE is held as its distance from the partition's, so that it moves with resumes (DEDUCED, log 33). -/
def landSpecial (s : State) (w : Who) (n : Nat) (v : W64) : State :=
  let k := whoKey w
  let fw := match w with
    | .fw _ _ => true
    | _ => false
  let seed : W32 := let x : W32 := v.setWidth 32; if x = 0 then 1 else x
  match n with
  | 0x030 => s.setCtxAt w { s.ctxAt w with fstat := v.setWidth 5 }
  | 0x031 => s.modTile k fun t => { t with la := seed }
  | 0x032 => s.modTile k fun t => { t with lb := seed }
  | 0x070 => if fw then s.setCtxAt w { s.ctxAt w with trapc := v } else s
  | 0x071 => if fw then s.setCtxAt w { s.ctxAt w with trapb := v &&& 0x1FFFFF } else s
  | 0x072 => if fw then s.setCtxAt w { s.ctxAt w with trapm := v &&& 0xFF } else s
  | 0x073 => if fw then s.setCtxAt w { s.ctxAt w with trapt := v } else s
  | 0x002 => s.modTile k fun t => { t with fwRegs := sins (sdel t.fwRegs n) n (v - BitVec.ofNat 64 (s.lbaseOf k)) }
  | 0x080 => s.modTile k fun t => { t with fwRegs := sins (sdel t.fwRegs n) n (v &&& 0x1FFF) }
  | 0x100 => s.modTile k fun t => { t with fwRegs := sins (sdel t.fwRegs n) n (v &&& 7) }
  | 0x101 => s.modTile k fun t => { t with fwRegs := sins (sdel t.fwRegs n) n v }
  | _ => s

/-- The spaces of LTF and STF, numbered as their forms (R324). -/
def spaceNum : Space → Nat
  | .s => 0
  | .p => 1
  | .b => 2
  | .row => 3
  | .tag => 4
  | .sram => 5
  | .frec => 6

/-- The format a tag names; codes 14 and 15 are never held (R258). -/
def tagFmt (v : W64) : Fmt := (Dec.fmtOf (v.setWidth 4)).getD .raw
/-- Bit 4 of a tag (R258). -/
def tagPoi (v : W64) : Bool := v.getLsbD 4

/-- R324: an STF on tile k: form `fn`, index `x`, value with the format and poison of its source (DEDUCED, log 38). -/
def State.stfAt (s : State) (k fn x : Nat) (v : W64) (fmt : Fmt) (poi : Bool) : State :=
  s.modTile k fun t =>
    match fn with
    | 0 => { t with task := t.task.writeS x ⟨v, fmt, poi⟩ }
    | 1 => { t with task := t.task.writeP x ⟨v.getLsbD 0, poi⟩ }
    | 2 => { t with task := t.task.writeB x ⟨v.extractLsb' 6 15, v.getLsbD 0, poi⟩ }
    | 3 =>
      let o := t.readV (x / 16)
      let m : Row := (BitVec.allOnes 64).setWidth 1024 <<< (64 * (x % 16))
      t.writeV (x / 16) ⟨(o.bits &&& ~~~m) ||| (v.setWidth 1024 <<< (64 * (x % 16))), o.fmt, poi⟩
    | 4 =>
      if x < 32 then { t with task := t.task.writeS x { t.task.readS x with fmt := tagFmt v, poi := tagPoi v } }
      else t.writeV (x - 32) { t.readV (x - 32) with fmt := tagFmt v, poi := tagPoi v }
    | 5 => t.writeSram x (bytesOf 8 v.toNat) poi
    | _ => t

/-- The flags of a result ORed into FSTAT (R250). -/
def Ctx.orFlags (c : Ctx) (f : BitVec 5) : Ctx := { c with fstat := c.fstat ||| f }

/-- R161, R268: a scalar takes the enabled bits, the format and the poison of its result. -/
def Scalar.land (o : Scalar) (l : Latch) : Scalar :=
  let en : W64 := l.en.setWidth 64
  ⟨(o.v &&& ~~~en) ||| (l.val.setWidth 64 &&& en), l.fmt, l.poi⟩
/-- A predicate takes its result, or only its poison. -/
def Pred.land (o : Pred) (l : Latch) : Pred := ⟨if l.en = 0 then o.v else l.val.getLsbD 0, l.poi⟩
/-- R312: a branch target takes its address and poison, or its prepared flag, or only poison. -/
def Btgt.land (o : Btgt) (l : Latch) : Btgt :=
  if l.en = 0 then ⟨o.a, l.prep.getD o.prep, o.poi || l.poi⟩
  else ⟨l.val.setWidth 15, l.prep.getD o.prep, l.poi⟩
/-- R264: a row keeps the bits that are not enabled; its tag is the result's. -/
def RowReg.land (o : RowReg) (l : Latch) : RowReg := ⟨(o.bits &&& ~~~l.en) ||| (l.val &&& l.en), l.fmt, l.poi⟩

/-- The bytes of a piece of a value. -/
def pieceBytes (v : Row) (r : PendRead) : List Byte :=
  (List.range r.n).map fun i => v.extractLsb' (8 * (r.pos + i)) 8

/-- R268: the effect of a result at its due cycle. -/
def State.landAt (s : State) (w : Who) (l : Latch) : State :=
  match l.kind with
  | .scalar =>
    let c := s.ctxAt w
    s.setCtxAt w ((c.writeS l.dest ((c.readS l.dest).land l)).orFlags l.flags)
  | .pred =>
    let c := s.ctxAt w
    s.setCtxAt w ((c.writeP l.dest ((c.readP l.dest).land l)).orFlags l.flags)
  | .btgt =>
    let c := s.ctxAt w
    let c := c.writeB l.dest ((c.readB l.dest).land l)
    s.setCtxAt w
      (if l.en = 0 then c
       else { c with latches := c.latches.filter fun m =>
                !(m.kind == .btgt && m.dest == l.dest && m.en == 0 && m.prep == some true && m.issued ≤ l.issued &&
                  !(m.issued == l.issued && m.slot == l.slot)) })
  | .row =>
    let t := s.tile (whoKey w)
    let s := s.setTile (whoKey w) (t.writeV l.dest ((t.readV l.dest).land l))
    s.setCtxAt w ((s.ctxAt w).orFlags l.flags)
  | .sram =>
    s.modTile (whoKey w) fun t =>
      let t := l.reads.foldl (fun t r => t.writeSram r.addr (pieceBytes l.val r) l.poi) t
      { t with wroteAt := l.due, wrote := (if t.wroteAt = l.due then t.wrote else 0) ||| banksOf (l.reads.map fun r => (r.addr, r.n)) }
  | .special =>
    if l.dest < 0x1000 then landSpecial s w l.dest (l.val.setWidth 64)
    else s.stfAt (whoKey w) (l.dest - 0x1000) l.addr (l.val.setWidth 64) l.fmt l.poi

/-! ## Taking a trap (R158 to R161, R274) -/

/-- R161: a fault listed in the tile's record, up to 16; later ones set the overflow (DEDUCED, log 30). -/
def Tile.listFault (t : Tile) (f : DefFault) : Tile :=
  if t.deferred.length < 16 then { t with deferred := t.deferred ++ [f] } else { t with defOver := true }

/-- R162: an announcement of the front end, of a cause and subcode, as a request kept for the freeze. -/
def Freeze.request (z : Freeze) (cause sub : Nat) : Freeze :=
  { z with
    discardReq := z.discardReq || cause == 0x0A || cause == 0x10 || (cause == 0x0D && sub != 2)
    serviceReq := z.serviceReq || (cause == 0x0D && sub == 2)
    preemptReq := z.preemptReq || cause == 0x0E }

/-- A freeze announced at T with F. -/
def Freeze.announce (t f cause sub : Nat) (front : Bool) : Freeze :=
  ⟨t, f, cause, sub, front, false, false, false, false, false, .resume, 0xFF, 0, none, 0, [], false, none, false, []⟩

/-- R84: another cause takes the place of the announced one: an error outside every tile that was the cause is to be listed
(DEDUCED, log 16). -/
def Freeze.displace (z : Freeze) : Freeze := { z with errors := if z.bare then z.t :: z.errors else z.errors, bare := false }

/-- R158, R159: the freeze of a partition once tile k of it traps at cycle `l`: a new announcement, the first cause in
place of a front-end announcement of the same cycle, or no change (DEDUCED, log 50). -/
def Part.tileTrap (q : Part) (k l cause sub : Nat) : Part :=
  match q.freeze with
  | none => { q with freeze := some { Freeze.announce l (l + q.dist) cause sub false with by_ := some k } }
  | some z =>
    if z.t = l ∧ z.front = true then
      { q with freeze := some { (z.request z.cause z.sub).displace with
          f := l + q.dist, cause := cause, sub := sub, front := false, by_ := some k } }
    else q
/-- R164, R277: the announced cause, where it is that of tile k, once a lower slot of the same bundle gives it. -/
def Part.recause (q : Part) (k cause sub : Nat) : Part :=
  match q.freeze with
  | none => q
  | some z => if z.by_ = some k then { q with freeze := some { z with cause := cause, sub := sub } } else q
/-- R164, R277: a raising tile whose cause is of a higher slot of the same bundle. -/
def Raise.yields (r : Raise) (slot bundle : Nat) (post : Bool) : Bool :=
  !r.post && !post && r.bundle == bundle && slot < r.slot

/-- R157 to R159, R162: an announcement by the front end at cycle `l` that stops at `f`: a new freeze, or a request to
the one announced. An alignment loss takes the place of an uncorrectable error of its cycle (R86)
(DEDUCED, log 50). -/
def Part.frontTrap (q : Part) (l f cause sub : Nat) : Part :=
  match q.freeze with
  | none => { q with freeze := some (Freeze.announce l f cause sub true) }
  | some z =>
    if z.t = l ∧ z.front = true ∧ z.cause = 0x0A ∧ cause = 0x10 then
      { q with freeze := some { (z.request 0x0A 0).displace with f := f, cause := cause, sub := sub } }
    else { q with freeze := some (z.request cause sub) }

/-- R83, R84: an uncorrectable error outside every tile, of cycle `l`, that stops at `f`: alone it is the cause of the freeze;
beside an announcement made before it, it is to be listed (DEDUCED, log 16). -/
def Part.struck (q : Part) (l f : Nat) : Part :=
  match q.freeze with
  | none => { q with freeze := some { Freeze.announce l f 0x0A 0 true with bare := true } }
  | some z => { q with freeze := some { z.request 0x0A 0 with errors := z.errors ++ [l] } }

/-- R159: a tile that traps at `l` is a raising tile: no freeze is announced, or it was announced at `l`. -/
def Part.raisesAt (q : Part) (l : Nat) : Bool :=
  match q.freeze with
  | none => true
  | some z => z.t == l

/-- The causes that a voided tile does not announce (R170) (DEDUCED, log 30). -/
def mutedCause (cause : Nat) : Bool := (1 ≤ cause && cause ≤ 9) || cause == 0x0B || cause == 0x0C || cause == 0x0F

/-- R158 to R161, R164, R170: a tile takes a trap. Outside a shadow the trap announces a freeze at this cycle, the tile
is a raising tile and keeps what its trap registers receive at F; in a shadow, and on a voided tile, it only defers. Of
several slots of one bundle the lowest gives the cause (R164, R277). Every fault is listed. `slot` is 0xFF for a condition that no instruction of the tile started; `post` marks a condition
found after issue (DEDUCED, log 30; DEDUCED, log 31). -/
def State.raiseTask (s : State) (k cause sub slot bundle : Nat) (mask : Byte) (post : Bool) : State :=
  let l := s.lcycOf k
  let t := (s.tile k).listFault ⟨cause, sub, slot, bundle, l⟩
  match s.partOf k with
  | none => s.setTile k t
  | some q =>
    if t.voided && mutedCause cause then s.setTile k t
    else if q.raisesAt l then
      match t.raise with
      | none =>
        (s.setTile k { t with raise := some ⟨cause, sub, slot, bundle, if post then 0 else mask, post⟩ }).modPartOf k fun q =>
          q.tileTrap k l cause sub
      | some r =>
        if r.yields slot bundle post then
          (s.setTile k { t with raise := some { r with cause := cause, sub := sub, slot := slot } }).modPartOf k fun q =>
            q.recause k cause sub
        else s.setTile k t
    else s.setTile k t

/-- R274: a fault of a firmware context or a front-end core announces no freeze; the context stops and writes its own
trap registers (DEDUCED, log 32). -/
def Ctx.stop (c : Ctx) (gcyc cause sub : Nat) : Ctx :=
  if c.on then
    { c with on := false, trapc := BitVec.ofNat 64 (cause + 256 * sub), trapb := BitVec.ofNat 64 c.bundle,
             trapm := c.mask.setWidth 64, trapt := BitVec.ofNat 64 gcyc, faulted := true }
  else c

/-- R274: a firmware context or a front-end core that runs stops on a fault, and the front end receives a firmware-fault
event (DEDUCED, log 32). -/
def State.stopCtx (s : State) (w : Who) (cause sub : Nat) : State :=
  if (s.ctxAt w).on then
    { s.setCtxAt w ((s.ctxAt w).stop s.gcyc cause sub) with fwFaults := s.fwFaults ++ [⟨w, cause, sub, s.gcyc⟩] }
  else s

/-- The trap of a slot of the bundle being issued (DEDUCED, log 31; DEDUCED, log 32). -/
def State.raise (s : State) (cause sub slot : Nat) : State :=
  match s.cur.who with
  | .task x y => s.raiseTask (tileKey x y) cause sub slot s.ctx.bundle s.ctx.mask false
  | .fw x y => s.stopCtx (.fw x y) cause sub
  | .core i k => s.stopCtx (.core i k) cause sub

/-- A condition that an engine, a link or a check finds after issue (R158, R164) (DEDUCED, log 31). -/
def State.raisePost (s : State) (k cause sub slot bundle : Nat) : State := s.raiseTask k cause sub slot bundle 0 true

/-- R164: the trap registers of a tile at F. `base` is the cause and subcode of the first raising tile, `due` the
address of the bundle due at F, `tg` GCYC of T, `bun` R83's unmarked H. -/
def Tile.trapRegs (t : Tile) (base due tg : Nat) (bun : Bool) : Tile :=
  let extra := (if t.deferred.isEmpty then 0 else 2 ^ 17) + (if t.voided then 2 ^ 18 else 0) + (if bun then 2 ^ 19 else 0)
  let (c, b, m) : Nat × Nat × Nat := match t.raise with
    | some r => (r.cause + 256 * r.sub + 2 ^ 16, r.bundle, if r.post then 0 else r.mask.toNat)
    | none => (base, due, 0)
  { t with task := { t.task with trapc := BitVec.ofNat 64 (c + extra), trapb := BitVec.ofNat 64 b,
                                 trapm := BitVec.ofNat 64 m, trapt := BitVec.ofNat 64 tg } }

/-- R167: the return from a freeze: LBASE moves by G - F, so every action due at F + k is performed at G + k. -/
def Part.resumeAt (q : Part) (gcyc fgcyc : Nat) : Part := { q with lbase := q.lbase + (gcyc - fgcyc), freeze := none }
/-- R156, R167, R170: a tile goes back to its state before F, VOIDED if it is in the void set. -/
def Tile.resume (t : Tile) (void : Bool) : Tile :=
  { t with st := if t.st == .frozen then t.heldState else t.st, voided := t.voided || void, raise := none, deferred := [],
           defOver := false }

/-! ## The slot rule -/

/-- A check that fails with a cause and a subcode. -/
abbrev Try (α : Type) := Except (Nat × Nat) α

/-- A register an instruction would write, with the format and latency of its result (R161). -/
structure Dest where
  kind : LatchKind
  num : Nat
  fmt : Fmt
  lat : Nat
  deriving DecidableEq, Repr

/-- A guard as read at c: whether the slot acts, and its poison (R262, R266). -/
structure GuardVal where
  on : Bool
  poi : Bool
  deriving DecidableEq, Repr

/-- R266, R262: the guard of a slot; a poisoned one acts as true. -/
def Ctx.guard (c : Ctx) (g : Guard) : GuardVal :=
  let p := c.readP g.p.toNat
  ⟨(p.v != g.n) || p.poi, p.poi⟩

/-- R183: a row exists for the tile: it lies below the ROWS grant; the firmware context reaches every row. -/
def State.rowOk (s : State) (r : Nat) : Bool :=
  match s.cur.who with
  | .task _ _ => r < 512 && r < (s.bankOf s.myKey).rows
  | .fw _ _ => r < 512
  | .core _ _ => r < 512

/-- R161: the poison of the registers that a faulting instruction would have written (DEDUCED, log 41). -/
def State.poisonDests (s : State) (ds : List Dest) : State :=
  ds.foldl (fun s d =>
    if d.kind == .row && !s.rowOk d.num then s
    else s.push (.poisoning d.kind s.cur.slot d.num d.fmt s.now (s.now + d.lat))) s

/-- R164, R274: slot `cur.slot` of the bundle performed; a trap of the same bundle counts it in TRAPM (DEDUCED, log 38). -/
def State.performed (s : State) : State :=
  let bit : Byte := 1#8 <<< s.cur.slot
  let s := s.modCtx fun c => { c with mask := c.mask ||| bit, trapm := if c.faulted then c.trapm ||| bit.setWidth 64 else c.trapm }
  match s.cur.who with
  | .task x y =>
    let k := tileKey x y
    let same := match s.partOf k with
      | some q => q.raisesAt (s.lcycOf k)
      | none => false
    s.modTile k fun t =>
      match t.raise with
      | some r => if same && !r.post then { t with raise := some { r with mask := r.mask ||| bit } } else t
      | none => t
  | .fw _ _ => s
  | .core _ _ => s

/-- R266, R262, R161: a slot under its guard. A false guard does nothing; a fault performs nothing, is taken or
deferred, and poisons what the instruction would have written (DEDUCED, log 36; DEDUCED, log 57). -/
def State.slot (s : State) (g : Guard) (ds : List Dest) (act : Bool → State → Try State) : State :=
  let gv := s.ctx.guard g
  if gv.on then
    match act gv.poi s with
    | .ok t => t.performed
    | .error f => (s.raise f.1 f.2 s.cur.slot).poisonDests ds
  else s

/-- A check. -/
def need (b : Bool) (cause sub : Nat) : Try Unit := if b then .ok () else .error (cause, sub)

/-! ## Free values (log 6) -/

/-- The next free number of cycles, at least 1. -/
def State.nextDelay (s : State) : Nat × State := (Config.freeDelay s.freeCtr + 1, { s with freeCtr := s.freeCtr + 1 })
/-- An action put on the agenda at a cycle. -/
def State.at_ (s : State) (g : Nat) (i : Instr) : State := { s with agenda := s.agenda ++ [(g, i)] }
/-- An action that is next of all (DEDUCED, log 26). -/
def State.first (s : State) (i : Instr) : State := { s with agenda := (s.gcyc, i) :: s.agenda }
/-- An action for which the spec gives no cycle. -/
def State.soon (s : State) (i : Instr) : State :=
  let (n, s) := s.nextDelay
  s.at_ (s.gcyc + n) i

end Sys2Proof.Machine
end

