-- ==== Sys2Proof/Machine/Operands.lean ====
section
/-! DEFINITION. Operand forms: the formats an instruction accepts (R259), the XTAG prefix (R260), poison (R261), scalar
operands (R302 to R310), immediates and bit fields. -/

namespace Sys2Proof.Machine

/-! ## Format checks (R259, R260) -/

/-- An operand as a check sees it: its format, and the subcode that names it. -/
abbrev OpTag := Fmt × Nat

/-- R260: the format is accepted, or it is the XTAG's. -/
def accepts (acc : List Fmt) (x : Option Fmt) (f : Fmt) : Bool := acc.contains f || x == some f

/-- R260: every operand carries the XTAG's format. -/
def allTagged (x : Option Fmt) (ops : List OpTag) : Bool :=
  match x with
  | some f => ops.all fun o => o.1 == f
  | none => false

/-- R259: the first operand of a format that is not accepted traps 0x02 with its subcode. Where the entry accepts
several formats and every operand carries the XTAG's, that one must itself be accepted (R260) (DEDUCED, log 36). -/
def checkFmts (acc : List Fmt) (several : Bool) (x : Option Fmt) (ops : List OpTag) : Try Unit :=
  if several && allTagged x ops && !(match x with | some f => acc.contains f | none => true) then .error (2, 1)
  else
    match ops.find? fun o => !accepts acc x o.1 with
    | some o => .error (2, o.2)
    | none => .ok ()

/-- The formats of scalar integer operands (R259). -/
def intFmts : List Fmt := [.raw, .i32]

/-- R260: the format an operand is read in: one that carries the XTAG's is read in that of the first operand, of those
the instruction reads, that does not; where every operand carries it, in its own. -/
def readAs (x : Option Fmt) (ops : List Fmt) (f : Fmt) : Fmt :=
  if x == some f then (ops.find? fun g => x != some g).getD f else f
/-- R259: the result format of a bitwise operation; formats that differ, neither RAW, trap 0x02. -/
def bitwiseFmt (f g : Fmt) : Try Fmt :=
  if f == g then .ok f else if f == .raw then .ok g else if g == .raw then .ok f else .error (2, 2)

/-! ## Scalar instructions -/

/-- An integer instruction of two scalars: RAW and I32 in, I32 out after n cycles. -/
def State.int2 (s : State) (g : Guard) (x : Option Fmt) (d a b : R5) (n : Nat) (f : W64 → W64 → W64) : State :=
  s.slot g [⟨.scalar, d.toNat, .i32, n⟩] fun gp s => do
    let va := s.ctx.readS a.toNat
    let vb := s.ctx.readS b.toNat
    checkFmts intFmts true x [(va.fmt, 1), (vb.fmt, 2)]
    return s.pushS d .i32 (gp || va.poi || vb.poi) n (f va.v vb.v) 0

/-- An integer instruction of one scalar. -/
def State.int1 (s : State) (g : Guard) (x : Option Fmt) (d a : R5) (n : Nat) (f : W64 → W64) : State :=
  s.slot g [⟨.scalar, d.toNat, .i32, n⟩] fun gp s => do
    let va := s.ctx.readS a.toNat
    checkFmts intFmts true x [(va.fmt, 1)]
    return s.pushS d .i32 (gp || va.poi) n (f va.v) 0

/-- R302: a bitwise instruction of two scalars. The would-be format of a faulting one is that of its first source. -/
def State.bit2 (s : State) (g : Guard) (x : Option Fmt) (d a b : R5) (f : W64 → W64 → W64) : State :=
  let fa := (s.ctx.readS a.toNat).fmt
  s.slot g [⟨.scalar, d.toNat, fa, 1⟩] fun gp s => do
    let va := s.ctx.readS a.toNat
    let vb := s.ctx.readS b.toNat
    let ops := [va.fmt, vb.fmt]
    let fmt ← bitwiseFmt (readAs x ops va.fmt) (readAs x ops vb.fmt)
    return s.pushS d fmt (gp || va.poi || vb.poi) 1 (f va.v vb.v) 0

/-- A result that reads no register operand, tagged. -/
def State.imm1 (s : State) (g : Guard) (d : R5) (fmt : Fmt) (v : W64) : State :=
  s.slot g [⟨.scalar, d.toNat, fmt, 1⟩] fun gp s => return s.pushS d fmt gp 1 v 0

/-- A compare of two integer values. -/
def State.cmp2 (s : State) (g : Guard) (x : Option Fmt) (pd : P4) (a b : R5) (f : W64 → W64 → Bool) : State :=
  s.slot g [⟨.pred, pd.toNat, .raw, 1⟩] fun gp s => do
    let va := s.ctx.readS a.toNat
    let vb := s.ctx.readS b.toNat
    checkFmts intFmts true x [(va.fmt, 1), (vb.fmt, 2)]
    return s.pushP pd (gp || va.poi || vb.poi) 1 (f va.v vb.v) 0

/-- A compare with an immediate. -/
def State.cmp1 (s : State) (g : Guard) (x : Option Fmt) (pd : P4) (a : R5) (f : W64 → Bool) : State :=
  s.slot g [⟨.pred, pd.toNat, .raw, 1⟩] fun gp s => do
    let va := s.ctx.readS a.toNat
    checkFmts intFmts true x [(va.fmt, 1)]
    return s.pushP pd (gp || va.poi) 1 (f va.v) 0

/-- The MOD prefix of an instruction that takes MOD or XTAG (R243). -/
def modOf : Prefix → Mod
  | .mod m => m
  | .none => Mod.plain
  | .xtag _ => Mod.plain

/-! ## Integer functions (R302, R303, R305, R306) -/

/-- Bits 127:64 of the product. -/
def mulHigh (u : Bool) (a b : W64) : W64 :=
  if u then (a.setWidth 128 * b.setWidth 128).extractLsb' 64 64
  else (a.signExtend 128 * b.signExtend 128).extractLsb' 64 64

/-- R303: quotient and remainder, with no trap on any value; the remainder takes the sign of a. -/
def divRem (signed : Bool) (a b : W64) : W64 × W64 :=
  if b = 0 then (BitVec.allOnes 64, a)
  else if signed then
    if a = BitVec.intMin 64 ∧ b = BitVec.allOnes 64 then (BitVec.intMin 64, 0)
    else (BitVec.ofInt 64 (a.toInt.tdiv b.toInt), BitVec.ofInt 64 (a.toInt.tmod b.toInt))
  else (a / b, a % b)
/-- R303. -/
def divFn (f : DivForm) (a b : W64) : W64 :=
  match f with
  | .q => (divRem true a b).1
  | .qu => (divRem false a b).1
  | .r => (divRem true a b).2
  | .ru => (divRem false a b).2

/-- The low six bits as a shift count. -/
def sh6 (b : W64) : Nat := b.toNat % 64

/-- The trailing zeros of a value, counted from bit k for at most n bits. -/
def ctzFrom (a : W64) : Nat → Nat → Nat
  | 0, k => k
  | n + 1, k => if a.getLsbD k then k else ctzFrom a n (k + 1)
/-- The count of one bits below bit n. -/
def popBelow (a : W64) : Nat → Nat
  | 0 => 0
  | n + 1 => popBelow a n + (if a.getLsbD n then 1 else 0)
/-- Bit k moved to bit 63 - k. -/
def rev64 (a : W64) : W64 := a.reverse
/-- R302: BIT. -/
def bitFn (f : BitForm) (a : W64) : W64 :=
  match f with
  | .clz => BitVec.ofNat 64 (ctzFrom (rev64 a) 64 0)
  | .ctz => BitVec.ofNat 64 (ctzFrom a 64 0)
  | .popc => BitVec.ofNat 64 (popBelow a 64)
  | .brev => rev64 a

/-- R302: the lesser or the greater, signed or unsigned. -/
def pickInt (mx u : Bool) (a b : W64) : W64 :=
  let less := if u then decide (a.toNat < b.toNat) else decide (a.toInt < b.toInt)
  if less == mx then b else a

/-- A field of LEN + 1 bits of ones. -/
def fieldMask (len : BitVec 6) : W64 := (BitVec.allOnes 64) >>> (63 - len.toNat)
/-- R305: EXT. -/
def extFn (sx : Bool) (len pos : BitVec 6) (a : W64) : W64 :=
  let up := 63 - len.toNat
  let f := (a >>> pos.toNat) <<< up
  if sx then f.sshiftRight up else f >>> up
/-- R305: INS. -/
def insFn (len pos : BitVec 6) (d a : W64) : W64 :=
  let m := fieldMask len <<< pos.toNat
  (d &&& ~~~m) ||| ((a <<< pos.toNat) &&& m)

/-- R306: the relation holds. -/
def relFn (r : Rel) (a b : W64) : Bool :=
  match r with
  | .eq => a == b
  | .ne => a != b
  | .lt => a.slt b
  | .ge => !a.slt b
  | .le => !b.slt a
  | .gt => b.slt a
  | .ltu => a.ult b
  | .geu => !a.ult b
  | .leu => !b.ult a
  | .gtu => b.ult a
  | .tst => (a &&& b) != 0
  | .tstz => (a &&& b) == 0

/-- R307. -/
def plogFn (o : PlogOp) (a b : Bool) : Bool :=
  match o with
  | .and => a && b
  | .or => a || b
  | .xor => a != b

end Sys2Proof.Machine
end

