-- ==== Sys2Proof/Machine/Flags.lean ====
section
/-! DEFINITION. Scalar floating point with its flags (R308 to R310, R250, R251). The flags of an operation ride on its
latch and are ORed into FSTAT when its result is written. -/

namespace Sys2Proof.Machine

/-- R258: the FP32 value of a scalar, flushed under FTZ (R248). -/
def fpOf (md : Mod) (v : W64) : FNum := flushOperand md.ftz .fp32 (Fmt.fp32.value (v.toNat % 2 ^ 32))
/-- An exact result rounded to FP32, with the flags of the operation and of the rounding. -/
def fpOut (md : Mod) (r : FNum × FFlags) : W64 × FFlags :=
  let (b, f) := Fmt.fp32.write md 0 (exactly r.1)
  (BitVec.ofNat 64 b, r.2 ||| f)

/-- R308: FOP. -/
def fopFn (f : FopForm) (md : Mod) (a b : W64) : W64 × FFlags :=
  let x := fpOf md a
  let y := fpOf md b
  fpOut md (match f with
    | .fadd => x.add md.rnd y
    | .fsub => x.add md.rnd y.negate
    | .fmul => x.mul y
    | .fmin => x.pick false y
    | .fmax => x.pick true y)

/-- R308: FMA, over sa, sb and the old sd. -/
def fmaFn (f : FmaForm) (md : Mod) (a b d : W64) : W64 × FFlags :=
  let x := fpOf md a
  let y := fpOf md b
  let z := fpOf md d
  fpOut md (match f with
    | .fma => FNum.fma md.rnd x y z
    | .fms => FNum.fma md.rnd x y z.negate
    | .fnma => FNum.fma md.rnd x.negate y z)

/-- R309: the vector relation of the same name. -/
def fRelOf : FRel → VRel
  | .eq => .eq
  | .ne => .ne
  | .lt => .lt
  | .le => .le
  | .gt => .gt
  | .ge => .ge
  | .un => .un
  | .ord => .ord
/-- R309: FCMP, with NV for a signalling NaN. -/
def fcmpFn (r : FRel) (md : Mod) (a b : W64) : Bool × FFlags :=
  let x := fpOf md a
  let y := fpOf md b
  (floatRel (fRelOf r) x y, flagIf (x.isSNaN || y.isSNaN) fNV)

/-- R310: FCVT. FTZ has no effect on an integer result (R248). -/
def fcvtFn (f : CvtForm) (md : Mod) (a : W64) : W64 × FFlags :=
  match f with
  | .itof => fpOut md (FNum.ofInt a.toInt, 0)
  | .utof => fpOut md (.fin false a.toNat 0, 0)
  | .ftoi => let (b, g) := roundInt 64 true md.rnd 0 (fpOf { md with ftz := false } a); (BitVec.ofNat 64 b, g)
  | .ftou => let (b, g) := roundInt 64 false md.rnd 0 (fpOf { md with ftz := false } a); (BitVec.ofNat 64 b, g)
/-- R310: the formats FCVT accepts. -/
def cvtIn : CvtForm → List Fmt
  | .itof => intFmts
  | .utof => intFmts
  | .ftoi => [.fp32]
  | .ftou => [.fp32]
/-- R310: the format FCVT writes. -/
def cvtOut : CvtForm → Fmt
  | .itof => .fp32
  | .utof => .fp32
  | .ftoi => .i32
  | .ftou => .i32

end Sys2Proof.Machine
end

