-- ==== Sys2Proof/Machine/Device.lean ====
section
/-! DEFINITION. Device memory as programs see it: regions (R193, R194), slices and channels (R195), PEND and the
touched-slice mask (R198), the kind of a scope (R204), groups (R144). -/

namespace Sys2Proof.Machine

/-! ## Regions -/

/-- R193: a region holds an address. -/
def Region.hits (r : Region) (va : Nat) : Bool := r.vbase ≤ va && va < r.vbase + 2 ^ 21 * r.pages
/-- R193: the entry an address hits. -/
def findRegion (rs : List Region) (va : Nat) : Option Region := rs.find? fun r => r.hits va

/-- The rights a form needs (R194). -/
inductive Right where
  | r | w | a
  deriving DecidableEq, Repr

/-- The region has the right. -/
def Region.has (g : Region) : Right → Bool
  | .r => g.r
  | .w => g.w
  | .a => g.a

/-- Every byte of the ends of a range, and of every region border inside it, hits a region. -/
def rangeHit (rs : List Region) (va n : Nat) : Nat → Bool
  | 0 => false
  | fuel + 1 =>
    match findRegion rs va with
    | none => false
    | some r =>
      let left := r.vbase + 2 ^ 21 * r.pages - va
      if n ≤ left then true else rangeHit rs (va + left) (n - left) fuel
/-- A region of those a range crosses lacks a right. -/
def rangeLacks (rs : List Region) (need_ : Right) (va n : Nat) : Nat → Bool
  | 0 => false
  | fuel + 1 =>
    match findRegion rs va with
    | none => false
    | some r =>
      let left := r.vbase + 2 ^ 21 * r.pages - va
      !r.has need_ || (if n ≤ left then false else rangeLacks rs need_ (va + left) (n - left) fuel)

/-- R193, R194: the physical address of a range of n bytes, or the region fault: the lowest subcode that applies. -/
def checkRegion (rs : List Region) (need_ : Right) (va n : Nat) : Try Nat :=
  let n := if n = 0 then 1 else n
  let fuel := rs.length + 1
  if !rangeHit rs va n fuel then .error (8, 1)
  else if rangeLacks rs need_ va n fuel then .error (8, 2)
  else
    match findRegion rs va with
    | none => .error (8, 1)
    | some r => if va + n ≤ r.vbase + 2 ^ 21 * r.pages then .ok (r.pbase + (va - r.vbase)) else .error (8, 3)

/-! ## Slices (R195) -/

/-- Four bits of an address from bit k. -/
def nib (pa k : Nat) : Nat := pa / 2 ^ k % 16
/-- R195: the slice of a physical address. -/
def sliceOf (pa : Nat) : Nat :=
  16 * (pa / 2 ^ 12 % 2 ^ 36 % 7) + (nib pa 8 ^^^ nib pa 16 ^^^ nib pa 24 ^^^ nib pa 32)
/-- R195: the channel of a physical address. -/
def channelOf (pa : Nat) : Nat := nib pa 12 ^^^ nib pa 16

/-- R225: the first physical address of the sequencer spaces. -/
def seqBase : Nat := 0x800000000000
/-- R225: a physical address in one of the 28 spaces. -/
def inSeq (pa : Nat) : Bool := seqBase ≤ pa && pa < seqBase + 28 * 0x100000
/-- R225: the yard chiplet whose space holds such an address. -/
def seqChiplet (pa : Nat) : Nat := (pa - seqBase) / 0x100000

/-- The mask of the slices that the 256-byte blocks of a range fall in, block by block. -/
def sliceMaskFrom (blk : Nat) : Nat → BitVec 112
  | 0 => 0
  | n + 1 => sliceMaskFrom (blk + 1) n ||| (1#112 <<< sliceOf (256 * blk))
/-- The slices a range of bytes touches. -/
def sliceMask (pa n : Nat) : BitVec 112 :=
  if n = 0 then 0 else sliceMaskFrom (pa / 256) ((pa + n - 1) / 256 - pa / 256 + 1)

/-! ## Fields, quadrants, yard chiplets (R30, R31, R35, R36) -/

/-- R28: the physical site of a logical local column in a field-row whose retired site is `gone`, if it has one. -/
def siteOf (lx : Nat) (gone : Option Nat) : Nat :=
  match gone with
  | some k => if lx < k then lx else lx + 1
  | none => lx
/-- R29: the field of a tile, by number. -/
def fieldOfTile (x y : Nat) : Nat := 8 * (y / 24) + x / 32
/-- R30: the quadrant of a field. -/
def fieldQuadrant (f : Nat) : Nat := 2 * (f / 8 / 3) + f % 8 / 4
/-- R30: the quadrant of a tile. -/
def tileQuadrant (x y : Nat) : Nat := fieldQuadrant (fieldOfTile x y)
/-- R31: the field a yard chiplet is attached to, and the side. -/
def chipletEdge (i : Nat) : Nat × Side :=
  if i < 8 then (i, .n)
  else if i < 16 then (32 + i, .s)
  else if i < 19 then (8 * (i - 16), .w)
  else if i < 22 then (8 * (i - 16), .w)
  else (8 * (i - 22) + 7, .e)
/-- R31: the yard chiplet on a side of a field, if that side is an edge of the wafer. -/
def chipletAt (f : Nat) (d : Side) : Option Nat := (List.range 28).find? fun i => chipletEdge i == (f, d)
/-- R31: the quadrant of a yard chiplet. -/
def chipletQuadrant (i : Nat) : Nat := fieldQuadrant (chipletEdge i).1
/-- R35: the outward sides of a tile of the logical grid. -/
def outward (x y : Nat) : List Side :=
  (if y = 0 then [.n] else []) ++ (if y = 143 then [.s] else []) ++ (if x = 0 then [.w] else []) ++ (if x = 255 then [.e] else [])
/-- R35: the injection points of a tile: each outward side with the chiplet its bulk link ends in. -/
def injections (x y : Nat) : List (Side × Nat) :=
  (outward x y).filterMap fun d => (chipletAt (fieldOfTile x y) d).map fun i => (d, i)
/-- R35: the injection points a chiplet serves, by tile key. -/
def servedPoints (i : Nat) : List Nat :=
  let e := chipletEdge i
  let x0 := 32 * (e.1 % 8)
  let y0 := 24 * (e.1 / 8)
  match e.2 with
  | .n => (List.range 32).map fun j => x0 + j
  | .s => (List.range 32).map fun j => 256 * 143 + x0 + j
  | .w => (List.range 24).map fun j => 256 * (y0 + j)
  | .e => (List.range 24).map fun j => 256 * (y0 + j) + 255
/-- R36: the chiplets of a quadrant in the order that slices are numbered, north or south before west or east. -/
def quadChiplets (q : Nat) : List Nat := (List.range 28).filter fun i => chipletQuadrant i == q
/-- R36: the chiplet that carries a slice. -/
def chipletOf (slice : Nat) : Nat := (quadChiplets (slice / 28)).getD (slice % 28 / 4) 0

/-- R36: the HBM4 stack that a slice's channels lie in: of chiplet i stack 2i for its slices 0 and 1, 2i + 1 for 2 and 3. -/
def stackOf (slice : Nat) : Nat := 2 * chipletOf slice + slice % 4 / 2
/-- R36: the channel of that stack, 0 to 31, that is channel ch of a slice. -/
def stackChannel (slice ch : Nat) : Nat := 16 * (slice % 2) + ch

/-- The tiles of a partition, by lowest y, then lowest x. -/
def Part.tileKeys (q : Part) : List Nat :=
  (List.range (4 * q.h)).flatMap fun j => (List.range (4 * q.w)).map fun i => tileKey (4 * q.px0 + i) (4 * q.py0 + j)

/-- R196: the slice, by index, whose place the spare of a quadrant takes. -/
def State.spareFor (s : State) (q : Nat) : Option Nat :=
  let w := sget 0 s.remap q
  if w.getLsbD 8 then some (28 * q + (w.extractLsb' 0 5).toNat) else none
/-- R37, R196: the slice index that a controller serves: its own, the spare 112 + q that of the failed slice it replaces, which
then serves none (DEDUCED, log 63). -/
def State.indexOf (s : State) (c : Nat) : Option Nat :=
  if 112 ≤ c then s.spareFor (c - 112) else if s.spareFor (c / 28) = some c then none else some c
/-- R37: the controller that serves a slice index (DEDUCED, log 63). -/
def State.controllerOf (s : State) (i : Nat) : Nat := if s.spareFor (i / 28) = some i then 112 + i / 28 else i
/-- R36, R37: the chiplet that carries a controller: a quadrant's spare is on the first of its order
(DEDUCED, log 63). -/
def controllerChiplet (c : Nat) : Nat := if c < 112 then chipletOf c else (quadChiplets (c - 112)).headD 0

/-- R34: a yard chiplet has power: in ON every one, in STANDBY Y0 alone. -/
def State.chipletLit (s : State) (i : Nat) : Bool := s.power == .on || (s.power == .standby && i == 0)
/-- R34: the chiplets that hold a range of bytes have power. -/
def State.rangeLit (s : State) (pa n : Nat) : Bool :=
  if s.power == .on then true
  else if inSeq pa then s.chipletLit (seqChiplet pa) && s.chipletLit (seqChiplet (pa + n - 1))
  else
    let mask := sliceMask pa n
    (List.range 112).all fun i => !mask.getLsbD i || s.chipletLit (controllerChiplet (s.controllerOf i))

/-! ## Generations (R74, R75) -/

/-- An attempt runs on the partition: a freeze can be announced (DESIGN CHOICE, log 28). -/
def Part.runs (q : Part) : Bool :=
  match q.run with
  | some l => l.code.isEmpty
  | none => false
/-- R74: the accepted generation of a partition: that of its running launch, else the wafer generation. -/
def State.accepted (s : State) (q : Part) : Byte := if q.runs then q.gen else s.wgen
/-- R75: the messages of the slot being performed carry the accepted generation of the partition of its tile. -/
def State.genOk (s : State) : Bool :=
  match s.partOf s.myKey with
  | some q => s.ctx.gen == s.accepted q
  | none => s.ctx.gen == s.wgen

/-! ## PEND and TSM (R198) -/

/-- A transfer of a staging engine. -/
def RemOp.staged (o : RemOp) : Bool := o.kind == .stg || o.kind == .stp
/-- An operation that sets TSM bits: GST, STP or AMO. -/
def RemOp.touches (o : RemOp) : Bool :=
  match o.kind with
  | .gst => true
  | .stp => true
  | .amo _ => true
  | .cas _ => true
  | .stg => false
  | .ldg => false
  | .wake => false
  | .crdy => false
/-- R198, R368: an operation counts at a cycle: it was issued in an earlier one, and its deadline is later. -/
def RemOp.counts (o : RemOp) (l : Nat) : Bool := o.issued < l && l < o.deadline
/-- R198: bytes of STG and STP whose deadline is later than the cycle, 40 bits. -/
def Tile.pend (t : Tile) (l : Nat) : Nat :=
  (t.ops.foldl (fun n o => if o.staged && o.counts l then n + o.len else n) 0) % 2 ^ 40
/-- R198: slices of GST, STP and AMO whose deadline is later than the cycle; the slice hash does not apply to a sequencer
space (R225). -/
def Tile.tsm (t : Tile) (l : Nat) : BitVec 112 :=
  t.ops.foldl (fun m o => if o.touches && !inSeq o.pa && o.counts l then m ||| sliceMask o.pa o.len else m) 0

/-! ## The tree and its groups (R140, R142, R144, R204) -/

/-- The bit offset of a level in WID: the widths of the levels below it. -/
def levelOffset (tree : List Level) (n : Nat) : Nat := (tree.take n).foldl (fun a l => a + l.width) 0
/-- R142, R311: the tile's coordinate at a level; 0 for a level bound at LANE. -/
def coordAt (tree : List Level) (wid : W64) (n : Nat) : Nat :=
  match tree[n]? with
  | none => 0
  | some l => if l.bind == .lane then 0 else wid.toNat / 2 ^ levelOffset tree n % 2 ^ l.width

/-- R204: the kinds of scope. -/
inductive ScopeKind where
  | alone | within | spanning
  deriving DecidableEq, Repr

/-- R204: the kind of a scope; a level the tree does not have acts as the tile alone (it does not pass R145). -/
def scopeKind (tree : List Level) (n : Nat) : ScopeKind :=
  match tree[n]? with
  | none => .alone
  | some l =>
    match l.bind with
    | .lane => .alone
    | .tile => .within
    | .pen => .within
    | .field => .within
    | .wafer => .spanning
    | .node => .spanning
    | .rack => .spanning

/-- R144: two tiles of one launch lie in one group at a level: they agree at every level above it. -/
def sameGroup (tree : List Level) (n : Nat) (a b : W64) : Bool :=
  let o := levelOffset tree (n + 1)
  a.toNat / 2 ^ o == b.toNat / 2 ^ o
/-- The keys of the mapped tiles of a partition. -/
def State.mappedOf (s : State) (p : Nat) : List Nat :=
  (skeys s.tiles).filter fun k => let t := s.tile k; t.part == some p && t.mapped
/-- R144: the members on this module of a tile's group at a level, by tile key. -/
def State.groupOf (s : State) (k n : Nat) : List Nat :=
  match (s.tile k).part with
  | none => []
  | some p =>
    let tree := (s.bankOf k).tree
    let w := (s.tile k).wid
    (s.mappedOf p).filter fun j => sameGroup tree n w (s.tile j).wid

end Sys2Proof.Machine
end

