-- ==== Sys2Proof/Machine/Special.lean ====
section
/-! DEFINITION. The special registers: what RDS reads, and which contexts may read and write which (R275, R276, R325). -/

namespace Sys2Proof.Machine

/-- R156: the task-state codes of R166 and FWSTAT (DEDUCED, log 33). -/
def Tile.stateCode (t : Tile) : Nat :=
  match t.st with
  | .idle => 0
  | .loaded => 1
  | .running => if t.voided then 6 else 2
  | .ended => if t.voided then 6 else 3
  | .frozen => 4
  | .stabled => 5

/-- R137: bits 47:0 of PGEOM. -/
def Part.geom (q : Part) (p : Nat) : Nat := p + 2 ^ 16 * q.px0 + 2 ^ 24 * q.py0 + 2 ^ 32 * q.w + 2 ^ 40 * q.h

/-- R165: the device address of a tile's fault record, at partition-relative place. -/
def Part.recordAt (q : Part) (x y : Nat) : Nat :=
  q.save + 256 + 32768 * ((y - 4 * q.py0) * (4 * q.w) + (x - 4 * q.px0))

/-- R275: YCNT, the Y bundles among the last 4,096. -/
def yCount (y : BitVec 4096) : Nat := (List.range 4096).foldl (fun n i => if y.getLsbD i then n + 1 else n) 0

/-- R275: what the firmware context of a tile has added to its LBASE (DEDUCED, log 33). -/
def State.lbaseShift (s : State) (k : Nat) : W64 := sget 0 (s.tile k).fwRegs 0x002
/-- R275: LBASE of a tile. -/
def State.lbaseReg (s : State) (k : Nat) : W64 := BitVec.ofNat 64 (s.lbaseOf k) + s.lbaseShift k
/-- R275: LCYC of a tile as its contexts read it: GCYC - LBASE. -/
def State.lcycSeen (s : State) (k : Nat) : Nat :=
  if s.lbaseShift k = 0 then s.lcycOf k else (BitVec.ofNat 64 s.gcyc - s.lbaseReg k).toNat
/-- R275: a cycle that an instruction names as LCYC, counted from the partition's own LBASE: the two differ only by what
the firmware context wrote to LBASE (DEDUCED, log 33). -/
def State.ownCycle (s : State) (k e : Nat) : Nat :=
  if s.lbaseShift k = 0 then e else e + s.lcycOf k - s.lcycSeen k

/-- R275: a special register as a context of tile (x, y) reads it (DEDUCED, log 33). -/
def State.special (s : State) (w : Who) (x y n : Nat) : W64 :=
  let k := tileKey x y
  let t := s.tile k
  let b := s.bankOf k
  let c := s.ctxAt w
  let l := s.lcycOf k
  let fw (d : Nat) : W64 := (t.fwRegs.find? fun e => e.1 == n).elim (BitVec.ofNat 64 d) (·.2)
  let wm (i : Nat) : Nat := (sget AccTile.zero t.acc i).wm
  match n with
  | 0x000 => BitVec.ofNat 64 s.gcyc
  | 0x001 => BitVec.ofNat 64 (s.lcycSeen k)
  | 0x002 => s.lbaseReg k
  | 0x010 => t.wid
  | 0x011 => BitVec.ofNat 64 b.tree.length
  | 0x020 => BitVec.ofNat 64 (x % 256 + 256 * (y % 256) + 65536 * s.wgen.toNat)
  | 0x021 => match t.part, s.partOf k with
    | some p, some q => BitVec.ofNat 64 (q.geom p)
    | _, _ => 0
  | 0x030 => c.fstat.setWidth 64
  | 0x031 => t.la.setWidth 64
  | 0x032 => t.lb.setWidth 64
  | 0x040 => BitVec.ofNat 64 (t.pend l)
  | 0x041 => (t.tsm l).setWidth 64
  | 0x042 => ((t.tsm l) >>> 64).setWidth 64
  | 0x050 => BitVec.ofNat 64 (wm 0)
  | 0x051 => BitVec.ofNat 64 (wm 1)
  | 0x052 => BitVec.ofNat 64 (wm 2)
  | 0x053 => BitVec.ofNat 64 (wm 3)
  | 0x054 => BitVec.ofNat 64 (wm 4)
  | 0x055 => BitVec.ofNat 64 (wm 5)
  | 0x056 => BitVec.ofNat 64 (wm 6)
  | 0x057 => BitVec.ofNat 64 (wm 7)
  | 0x060 => BitVec.ofNat 64 b.rows
  | 0x070 => c.trapc
  | 0x071 => c.trapb &&& 0x1FFFFF
  | 0x072 => c.trapm &&& 0xFF
  | 0x073 => c.trapt
  | 0x080 => fw b.yshare
  | 0x100 => fw t.stateCode
  | 0x101 => fw (match s.partOf k with
    | some q => q.recordAt x y
    | none => 0)
  | 0x102 => BitVec.ofNat 64 (yCount t.yhist)
  | _ => 0

/-- R275, R325: a special register as the slot being performed reads it; on a core LCYC reads as GCYC. -/
def State.readSpecial (s : State) (n : Nat) : W64 :=
  match s.cur.who with
  | .task x y => s.special s.cur.who x y n
  | .fw x y => s.special s.cur.who x y n
  | .core _ _ => if n = 0x030 then s.ctx.fstat.setWidth 64 else BitVec.ofNat 64 s.gcyc

/-- R276: a read by a task of a number from 0x100 to 0x1FF traps 0x0F, subcode 1. -/
def mayRead (w : Who) (n : Nat) : Try Unit :=
  match w with
  | .task _ _ => need (!(0x100 ≤ n && n ≤ 0x1FF)) 0x0F 1
  | .fw _ _ => .ok ()
  | .core _ _ => .ok ()

/-- R275: the registers a task writes. -/
def taskWritable (n : Nat) : Bool := n == 0x030 || n == 0x031 || n == 0x032
/-- R275: the registers the firmware context writes. -/
def fwWritable (n : Nat) : Bool :=
  taskWritable n || n == 0x002 || n == 0x070 || n == 0x071 || n == 0x072 || n == 0x073 || n == 0x080 ||
    n == 0x100 || n == 0x101
/-- R276, R325: a write to a register its context may only read traps 0x0F, subcode 1. -/
def mayWrite (w : Who) (n : Nat) : Try Unit :=
  match w with
  | .task _ _ => need (taskWritable n) 0x0F 1
  | .fw _ _ => need (fwWritable n) 0x0F 1
  | .core _ _ => need (n == 0x030) 0x0F 1

/-- R245, R275: the latch of a WRS: the seeds are set at the end of the write cycle c, everything else at c + 1
(DEDUCED, log 33). -/
def State.pushSpecial (s : State) (n : Nat) (v : W64) : State :=
  let seed := n == 0x031 || n == 0x032
  let d := if seed then 0 else 1
  s.push { Latch.result .special s.cur.slot n .raw false s.now (s.now + d) (v.setWidth 1024) allBits 0 with atEnd := seed }

end Sys2Proof.Machine
end

