-- ==== Sys2Proof/Machine/Scalar.lean ====
section
/-! DEFINITION. The meanings of the SC slot (R302 to R311). -/

namespace Sys2Proof.Machine

/-- What performing an instruction answers. -/
abbrev Out := Host.Outcome State Fault Refusal

/-- NOP (R291) changes no state but that its slot counts as performed (R164). -/
def execNop (g : Guard) (s : State) : Out := .next (s.slot g [] fun _ s => .ok s)
/-- ADD (R302). -/
def execAdd (g : Guard) (x : Option Fmt) (d a b : R5) (s : State) : Out := .next (s.int2 g x d a b 1 fun a b => a + b)
/-- SUB (R302). -/
def execSub (g : Guard) (x : Option Fmt) (d a b : R5) (s : State) : Out := .next (s.int2 g x d a b 1 fun a b => a - b)
/-- ADDI, short form (R304). -/
def execAddi (g : Guard) (x : Option Fmt) (d a : R5) (imm : BitVec 9) (s : State) : Out :=
  .next (s.int1 g x d a 1 fun a => a + imm.signExtend 64)
/-- ADDI, long form (R304). -/
def execAddiLong (g : Guard) (x : Option Fmt) (d a : R5) (imm : W32) (s : State) : Out :=
  .next (s.int1 g x d a 1 fun a => a + imm.signExtend 64)
/-- MUL (R302). -/
def execMul (g : Guard) (x : Option Fmt) (d a b : R5) (s : State) : Out := .next (s.int2 g x d a b 3 fun a b => a * b)
/-- MULH (R302). -/
def execMulh (g : Guard) (x : Option Fmt) (u : Bool) (d a b : R5) (s : State) : Out :=
  .next (s.int2 g x d a b 3 (mulHigh u))
/-- DIV (R303). -/
def execDiv (g : Guard) (x : Option Fmt) (f : DivForm) (d a b : R5) (s : State) : Out :=
  .next (s.int2 g x d a b 18 (divFn f))
/-- AND (R302). -/
def execAnd (g : Guard) (x : Option Fmt) (d a b : R5) (s : State) : Out := .next (s.bit2 g x d a b fun a b => a &&& b)
/-- OR (R302). -/
def execOr (g : Guard) (x : Option Fmt) (d a b : R5) (s : State) : Out := .next (s.bit2 g x d a b fun a b => a ||| b)
/-- XOR (R302). -/
def execXor (g : Guard) (x : Option Fmt) (d a b : R5) (s : State) : Out := .next (s.bit2 g x d a b fun a b => a ^^^ b)
/-- ANDN (R302). -/
def execAndn (g : Guard) (x : Option Fmt) (d a b : R5) (s : State) : Out :=
  .next (s.bit2 g x d a b fun a b => a &&& ~~~b)
/-- SHL (R302). -/
def execShl (g : Guard) (x : Option Fmt) (d a b : R5) (s : State) : Out :=
  .next (s.int2 g x d a b 1 fun a b => a <<< sh6 b)
/-- SHR (R302). -/
def execShr (g : Guard) (x : Option Fmt) (d a b : R5) (s : State) : Out :=
  .next (s.int2 g x d a b 1 fun a b => a >>> sh6 b)
/-- SRA (R302). -/
def execSra (g : Guard) (x : Option Fmt) (d a b : R5) (s : State) : Out :=
  .next (s.int2 g x d a b 1 fun a b => a.sshiftRight (sh6 b))
/-- ROT (R302). -/
def execRot (g : Guard) (x : Option Fmt) (right : Bool) (d a b : R5) (s : State) : Out :=
  .next (s.int2 g x d a b 1 fun a b => if right then a.rotateRight (sh6 b) else a.rotateLeft (sh6 b))
/-- MIN (R302). -/
def execMin (g : Guard) (x : Option Fmt) (u : Bool) (d a b : R5) (s : State) : Out :=
  .next (s.int2 g x d a b 1 (pickInt false u))
/-- MAX (R302). -/
def execMax (g : Guard) (x : Option Fmt) (u : Bool) (d a b : R5) (s : State) : Out :=
  .next (s.int2 g x d a b 1 (pickInt true u))
/-- BIT (R302). -/
def execBit (g : Guard) (x : Option Fmt) (f : BitForm) (d a : R5) (s : State) : Out :=
  .next (s.int1 g x d a 1 (bitFn f))
/-- EXT (R305). -/
def execExt (g : Guard) (x : Option Fmt) (d a : R5) (sx : Bool) (len pos : BitVec 6) (s : State) : Out :=
  .next (s.int1 g x d a 1 (extFn sx len pos))
/-- INS (R305): the old sd is its third source. -/
def execIns (g : Guard) (x : Option Fmt) (d a : R5) (len pos : BitVec 6) (s : State) : Out :=
  .next (s.slot g [⟨.scalar, d.toNat, .i32, 1⟩] fun gp s => do
    let va := s.ctx.readS a.toNat
    let vd := s.ctx.readS d.toNat
    checkFmts intFmts true x [(va.fmt, 1), (vd.fmt, 3)]
    return s.pushS d .i32 (gp || va.poi || vd.poi) 1 (insFn len pos vd.v va.v) 0)
/-- SEL (R304): the guard field is the selector; no guard. -/
def execSel (g : Guard) (d a b : R5) (s : State) : Out :=
  let c := s.ctx
  let p := c.readP g.p.toNat
  let v := c.readS (if p.v != g.n then a.toNat else b.toNat)
  .next (s.pushS d v.fmt (v.poi || p.poi) 1 v.v 0).performed
/-- MOV (R304). -/
def execMov (g : Guard) (d a : R5) (s : State) : Out :=
  let v := s.ctx.readS a.toNat
  .next (s.slot g [] fun gp s => return s.pushS d v.fmt (gp || v.poi) 1 v.v 0)
/-- MOVI, short form (R304) (DEDUCED, log 38). -/
def execMovi (g : Guard) (d : R5) (imm : BitVec 9) (s : State) : Out := .next (s.imm1 g d .i32 (imm.signExtend 64))
/-- MOVI, long form (R304). -/
def execMoviLong (g : Guard) (t : MoviTag) (d : R5) (imm : W32) (s : State) : Out :=
  .next (match t with
    | .i32 => s.imm1 g d .i32 (imm.signExtend 64)
    | .fp32 => s.imm1 g d .fp32 (imm.setWidth 64)
    | .raw => s.imm1 g d .raw (imm.signExtend 64))
/-- MOVI, wide form (R304). -/
def execMoviWide (g : Guard) (raw : Bool) (d : R5) (imm : W64) (s : State) : Out :=
  .next (s.imm1 g d (if raw then .raw else .i32) imm)
/-- LEA, short form (R304) (DEDUCED, log 38). -/
def execLea (g : Guard) (x : Option Fmt) (d : R5) (imm : BitVec 9) (s : State) : Out :=
  let _ := x
  .next (s.imm1 g d .i32 (BitVec.ofNat 64 s.ctx.bundle + 64 * imm.signExtend 64))
/-- LEA, long form (R304); its sa field is not read. -/
def execLeaLong (g : Guard) (x : Option Fmt) (d a : R5) (imm : W32) (s : State) : Out :=
  let _ := (x, a)
  .next (s.imm1 g d .i32 (BitVec.ofNat 64 s.ctx.bundle + 64 * imm.signExtend 64))
/-- CMP (R306). -/
def execCmp (g : Guard) (x : Option Fmt) (r : Rel) (pd : P4) (a b : R5) (s : State) : Out :=
  .next (s.cmp2 g x pd a b (relFn r))
/-- CMPI, short form (R306). -/
def execCmpi (g : Guard) (x : Option Fmt) (lt : Bool) (pd : P4) (a : R5) (imm : BitVec 9) (s : State) : Out :=
  .next (s.cmp1 g x pd a fun a => relFn (if lt then .lt else .eq) a (imm.signExtend 64))
/-- CMPI, long form (R306). -/
def execCmpiLong (g : Guard) (x : Option Fmt) (r : Rel) (pd : P4) (a : R5) (imm : W32) (s : State) : Out :=
  .next (s.cmp1 g x pd a fun a => relFn r a (imm.signExtend 64))
/-- PLOG (R307). -/
def execPlog (g : Guard) (op : PlogOp) (pd : P4) (na : Bool) (pa : P4) (nb : Bool) (pb : P4) (s : State) : Out :=
  .next (s.slot g [⟨.pred, pd.toNat, .raw, 1⟩] fun gp s =>
    let a := s.ctx.readP pa.toNat
    let b := s.ctx.readP pb.toNat
    return s.pushP pd (gp || a.poi || b.poi) 1 (plogFn op (a.v != na) (b.v != nb)) 0)
/-- FOP (R308). -/
def execFop (g : Guard) (x : Prefix) (f : FopForm) (d a b : R5) (s : State) : Out :=
  .next (s.slot g [⟨.scalar, d.toNat, .fp32, 4⟩] fun gp s => do
    let va := s.ctx.readS a.toNat
    let vb := s.ctx.readS b.toNat
    checkFmts [.fp32] false (Dec.xOf x) [(va.fmt, 1), (vb.fmt, 2)]
    let r := fopFn f (modOf x) va.v vb.v
    return s.pushS d .fp32 (gp || va.poi || vb.poi) 4 r.1 r.2)
/-- FMA (R308): the old sd is its third source. -/
def execFma (g : Guard) (x : Prefix) (f : FmaForm) (d a b : R5) (s : State) : Out :=
  .next (s.slot g [⟨.scalar, d.toNat, .fp32, 4⟩] fun gp s => do
    let va := s.ctx.readS a.toNat
    let vb := s.ctx.readS b.toNat
    let vd := s.ctx.readS d.toNat
    checkFmts [.fp32] false (Dec.xOf x) [(va.fmt, 1), (vb.fmt, 2), (vd.fmt, 3)]
    let r := fmaFn f (modOf x) va.v vb.v vd.v
    return s.pushS d .fp32 (gp || va.poi || vb.poi || vd.poi) 4 r.1 r.2)
/-- FCMP (R309). -/
def execFcmp (g : Guard) (x : Prefix) (r : FRel) (pd : P4) (a b : R5) (s : State) : Out :=
  .next (s.slot g [⟨.pred, pd.toNat, .raw, 2⟩] fun gp s => do
    let va := s.ctx.readS a.toNat
    let vb := s.ctx.readS b.toNat
    checkFmts [.fp32] false (Dec.xOf x) [(va.fmt, 1), (vb.fmt, 2)]
    let o := fcmpFn r (modOf x) va.v vb.v
    return s.pushP pd (gp || va.poi || vb.poi) 2 o.1 o.2)
/-- FCVT (R310). -/
def execFcvt (g : Guard) (x : Prefix) (f : CvtForm) (d a : R5) (s : State) : Out :=
  .next (s.slot g [⟨.scalar, d.toNat, cvtOut f, 4⟩] fun gp s => do
    let va := s.ctx.readS a.toNat
    checkFmts (cvtIn f) (f == .itof || f == .utof) (Dec.xOf x) [(va.fmt, 1)]
    let r := fcvtFn f (modOf x) va.v
    return s.pushS d (cvtOut f) (gp || va.poi) 4 r.1 r.2)
/-- RDC (R311): the result is never poisoned (DEDUCED, log 57). -/
def execRdc (g : Guard) (lcyc : Bool) (d : R5) (s : State) : Out :=
  .next (s.slot g [] fun _ s => return s.pushS d .i32 false 1 (s.readSpecial (if lcyc then 1 else 0)) 0)
/-- RDW (R311, R142): the coordinate of the tile at a level (DEDUCED, log 57). -/
def execRdw (g : Guard) (d : R5) (level : BitVec 6) (s : State) : Out :=
  .next (s.slot g [] fun _ s =>
    let k := s.myKey
    return s.pushS d .i32 false 1 (BitVec.ofNat 64 (coordAt (s.bankOf k).tree (s.tile k).wid level.toNat)) 0)
/-- RDS (R311, R275, R276) (DEDUCED, log 57). -/
def execRds (g : Guard) (d : R5) (num : W32) (s : State) : Out :=
  .next (s.slot g [⟨.scalar, d.toNat, .i32, 1⟩] fun _ s => do
    mayRead s.cur.who num.toNat
    return s.pushS d .i32 false 1 (s.readSpecial num.toNat) 0)
/-- WRS (R311, R275, R276): a poisoned source, or a poisoned guard, writes nothing. -/
def execWrs (g : Guard) (num : W32) (a : R5) (s : State) : Out :=
  .next (s.slot g [] fun gp s => do
    mayWrite s.cur.who num.toNat
    let va := s.ctx.readS a.toNat
    checkFmts intFmts false none [(va.fmt, 1)]
    return if gp || va.poi then s else s.pushSpecial num.toNat va.v)

end Sys2Proof.Machine
end

