-- ==== Sys2Proof/Machine/Sync.lean ====
section
/-! DEFINITION. The meanings of the SY slot for tasks, firmware contexts and cores: branches, waits, barriers, drains,
checks, END and traps (R312 to R322), and the deadlines at which holds end. -/

namespace Sys2Proof.Machine

/-! ## Branches (R312 to R315) -/

/-- A branch taken: the bundle issued at c + 1. -/
def State.branchTo (s : State) (a : Nat) : State := s.modCtx fun c => { c with target := some a }

/-- R314: the address a branch through b takes, read at c; a poisoned guard or target traps 0x03, subcode 3, an
unprepared one 0x01, subcode 9. -/
def branchTarget (c : Ctx) (gp : Bool) (b : B3) : Try Nat := do
  let t := c.readB b.toNat
  need (!gp && !t.poi) 3 3
  need t.prep 1 9
  return t.addr

/-- PBR (R313, R312) (DEDUCED, log 34). -/
def execPbr (g : Guard) (b : B3) (imm : BitVec 16) (s : State) : Out :=
  .next (s.slot g [⟨.btgt, b.toNat, .raw, 1⟩] fun gp s =>
    let a := (BitVec.ofNat 64 s.ctx.bundle + 64 * imm.signExtend 64).toNat
    return (s.pushB b.toNat gp 1 a false).pushPrep b.toNat)
/-- PBRX (R313): a poisoned sa poisons b and is not checked further. -/
def execPbrx (g : Guard) (b : B3) (a : R5) (s : State) : Out :=
  .next (s.slot g [⟨.btgt, b.toNat, .raw, 1⟩] fun gp s => do
    let v := s.ctx.readS a.toNat
    checkFmts intFmts false none [(v.fmt, 1)]
    need (v.poi || v.v.toNat % 64 == 0) 7 2
    need (v.poi || v.v.toNat < 2 ^ 21) 7 1
    return (s.pushB b.toNat (gp || v.poi) 1 v.v.toNat false).pushPrep b.toNat)
/-- BR (R314). -/
def execBr (g : Guard) (b : B3) (s : State) : Out :=
  .next (s.slot g [] fun gp s => do
    let a ← branchTarget s.ctx gp b
    return s.branchTo a)
/-- CALL (R314, R312): the return address goes to b0, prepared at c + 1 (DEDUCED, log 34). -/
def execCall (g : Guard) (b : B3) (s : State) : Out :=
  .next (s.slot g [⟨.btgt, 0, .raw, 1⟩] fun gp s => do
    let a ← branchTarget s.ctx gp b
    return (s.pushB 0 false 1 (s.ctx.bundle + 64) true).branchTo a)
/-- RET (R314) differs from BR in name alone. -/
def execRet (g : Guard) (b : B3) (s : State) : Out :=
  .next (s.slot g [] fun gp s => do
    let a ← branchTarget s.ctx gp b
    return s.branchTo a)
/-- BRDEC (R315). -/
def execBrdec (g : Guard) (d : R5) (b : B3) (s : State) : Out :=
  .next (s.slot g [⟨.scalar, d.toNat, .i32, 1⟩] fun gp s => do
    let v := s.ctx.readS d.toNat
    checkFmts intFmts false none [(v.fmt, 1)]
    need (!gp && !v.poi) 3 3
    let n := v.v - 1
    if n = 0 then return s.pushS d .i32 false 1 n 0
    else
      let a ← branchTarget s.ctx gp b
      return (s.pushS d .i32 false 1 n 0).branchTo a)

/-! ## Waits (R316) -/

/-- The LCYC of the slot being performed: LCYC of the tile, GCYC on a core (R325). -/
def State.lcycNow (s : State) : Nat :=
  match s.cur.who with
  | .task x y => s.lcycSeen (tileKey x y)
  | .fw x y => s.lcycSeen (tileKey x y)
  | .core _ _ => s.gcyc
/-- An LCYC that the slot being performed names, counted from the partition's own LBASE (R275). -/
def State.ownNow (s : State) (d : Nat) : Nat :=
  match s.cur.who with
  | .task x y => s.ownCycle (tileKey x y) d
  | .fw x y => s.ownCycle (tileKey x y) d
  | .core _ _ => d

/-- Issue goes on n cycles after c + 1; nothing is held for n = 0. The hold keeps the LCYC of its issue. -/
def State.holdFor (s : State) (kind : HoldKind) (n : Nat) : State :=
  if n = 0 && kind == .wait then s
  else s.modCtx fun c => { c with hold := some ⟨kind, s.now + 1 + n, c.bundle, s.ownNow s.lcycNow⟩ }

/-- R316: WAITC to an LCYC; a target already passed traps 0x01, subcode 4. -/
def State.waitTo (s : State) (t : Nat) : Try State := do
  let l := s.lcycNow
  need (l < t) 1 4
  return s.holdFor .wait (t - l - 1)

/-- WAITC, short form (R316): the poison of sa is not checked. -/
def execWaitc (g : Guard) (a : R5) (s : State) : Out :=
  .next (s.slot g [] fun _ s => do
    let v := s.ctx.readS a.toNat
    checkFmts intFmts false none [(v.fmt, 1)]
    s.waitTo v.v.toNat)
/-- WAITC, long form (R316). -/
def execWaitcLong (g : Guard) (a : R5) (imm : W32) (s : State) : Out :=
  .next (s.slot g [] fun _ s => do
    let v := s.ctx.readS a.toNat
    checkFmts intFmts false none [(v.fmt, 1)]
    s.waitTo (v.v + imm.setWidth 64).toNat)
/-- WAITN, short form (R316). -/
def execWaitn (g : Guard) (n : BitVec 9) (s : State) : Out := .next (s.slot g [] fun _ s => return s.holdFor .wait n.toNat)
/-- WAITN, long form (R316). -/
def execWaitnLong (g : Guard) (n : W32) (s : State) : Out :=
  .next (s.slot g [] fun _ s => return s.holdFor .wait n.toNat)

/-! ## Completion of remote operations (R199) -/

/-- R199: the operation is a GST, STG, STP or AMO. -/
def RemOp.isChecked (o : RemOp) : Bool := o.touches || o.kind == .stg
/-- R199, R50, R170: the operation is complete. -/
def RemOp.complete (o : RemOp) : Bool := o.mute || o.done
/-- R199: deadlines up to l not yet checked (DESIGN CHOICE, log 62). -/
def Tile.dueChecks (t : Tile) (l : Nat) : List RemOp :=
  t.ops.filter fun o => o.isChecked && !o.checked && o.deadline ≤ l
/-- The tile with those deadlines checked; an operation past its deadline and its reply is no longer held
(DEDUCED, log 56). -/
def Tile.markChecked (t : Tile) (l : Nat) : Tile :=
  { t with ops := t.ops.map fun o => if o.isChecked && o.deadline ≤ l then { o with checked := true } else o }

/-! ## Barriers and drains (R317 to R319) -/

/-- R318: the arrival distance of a group. -/
def arrivalDistance (ks : List Nat) : Nat :=
  let xs := ks.map (· % 256)
  let ys := ks.map (· / 256)
  let x0 := xs.foldl Nat.min 255
  let x1 := xs.foldl Nat.max 0
  let y0 := ys.foldl Nat.min 255
  let y1 := ys.foldl Nat.max 0
  2 * ((x1 - x0 + 1) + (y1 - y0 + 1)) + 2 * ((x1 / 32 - x0 / 32) + (y1 / 24 - y0 / 24)) + 8

/-- R317: every member of the group has arrived in time with this level and deadline. -/
def State.allArrived (s : State) (k level d : Nat) : Bool :=
  let ms := s.groupOf k level
  let dist := arrivalDistance ms
  match s.partOf k with
  | none => false
  | some q => ms.all fun m =>
      q.bars.any fun b => tileKey b.x b.y == m && b.level == level && b.d == d && b.at_ + dist ≤ d

/-- R226: RESULT (byte 19 bits 3:2) set and BUSY (bit 1) clear in a sequencer entry. -/
def entryFinished (e : BitVec 512) : Bool := (e.getLsbD 154 || e.getLsbD 155) && !e.getLsbD 153

/-- R366: the extra cycles of a link that crosses a stitch boundary, between tile (x, y) and its neighbour on a side. -/
def stitchTo (x y : Nat) : Side → Nat
  | .n => if y % 24 = 0 then 2 else 0
  | .s => if y % 24 = 23 then 2 else 0
  | .e => if x % 32 = 31 then 2 else 0
  | .w => if x % 32 = 0 then 2 else 0
/-- R319: the cycle of the last SRAM access of a copy command of tile k, a burst's landing in the neighbour included
(DEDUCED, log 35). -/
def ChCmd.lastAccess (c : ChCmd) (k : Nat) : Nat :=
  c.c + c.lag + c.m +
    (match c.what with
    | .cpy .. => 1
    | .cpz _ => 0
    | .cpt .. => 0
    | .cpn dir _ _ => 3 + stitchTo (k % 256) (k / 256) dir
    | .acpOut .. => 1
    | .acpIn .. => 0
    | .sweep _ => 0)
/-- R319: the copy command has SRAM accesses still to make at cycle d (DEDUCED, log 35). -/
def ChCmd.accesses (c : ChCmd) (k d : Nat) : Bool :=
  match c.what with
  | .sweep _ => false
  | .cpy .. | .cpz _ | .cpt .. | .cpn .. | .acpOut .. | .acpIn .. => d ≤ c.lastAccess k

/-- R204: the copy command has SRAM writes still to make at cycle d: CPY, CPZ, the burst of a CPN in its neighbour, ACP OUT. -/
def ChCmd.writes (c : ChCmd) (k d : Nat) : Bool :=
  match c.what with
  | .cpy .. | .cpz _ | .cpn .. | .acpOut .. => d ≤ c.lastAccess k
  | .cpt .. | .acpIn .. | .sweep _ => false
/-- R319: a CPN issued at or before a cycle, whose channel is free again, still writes at cycle d. -/
def Tile.tailWrites (t : Tile) (issued d : Nat) : Bool := t.gTails.any fun e => e.1 ≤ issued && d ≤ e.2

/-- R317: what a BAR of tile k finds wrong at its deadline. -/
def State.barFails (s : State) (k level d : Nat) : Bool :=
  let t := s.tile k
  let ring := match scopeKind (s.bankOf k).tree level, s.partOf k with
    | .spanning, some q => q.ring.all fun r => !(r.level = level && r.d = d && r.inside && r.rings.isEmpty)
    | _, _ => false
  !s.allArrived k level d || ring || t.pend d != 0 || t.tsm d != 0 || (t.dueChecks d).any (fun o => !o.complete)

/-- R319: what a DRAIN of tile k finds wrong at its deadline (DEDUCED, log 35). -/
def State.drainFails (s : State) (k level d issued : Nat) : Bool :=
  let t := s.tile k
  let late := (t.dueChecks d).any fun o => !o.complete
  let busy := [t.ta, t.tb, t.g].any fun c => match c with
    | some c => c.c ≤ issued && c.accesses k d
    | none => false
  let busy := busy || t.tailWrites issued d
  let before := t.ops.filter fun o => o.issued ≤ issued
  let outside := t.pend d != 0 || t.tsm d != 0 || before.any fun o =>
    match o.kind with
    | .ldg => d < o.deadline
    | .amo _ => d < o.deadline
    | .cas _ => d < o.deadline
    | _ => false
  let entries := before.any fun o => o.kind == .crdy && !(o.done && entryFinished (sget 0 s.seqEntries o.pa))
  match scopeKind (s.bankOf k).tree level with
  | .alone => late || busy
  | .within => late || busy || outside
  | .spanning => late || busy || outside || entries

/-- R232: the LVL values of the rings that a barrier at a level goes round, from WAFER outwards. -/
def ringsOf (tree : List Level) (level : Nat) : List Nat :=
  let bound (b : Bind) : Bool := (tree.take (level + 1)).any fun l => l.bind == b
  (if bound .wafer then [1] else []) ++ (if bound .node then [2] else []) ++ (if bound .rack then [3] else [])
/-- R232: the sequencer entry reserved for barriers, entry 4,095 of Y8. -/
def barKey : Nat := 4096 * 8 + 4095
/-- R232: the ring of the barrier under way at cycle l; a barrier is over once its deadline has passed (DEDUCED, log 44). -/
def Part.ringAt (q : Part) (l : Nat) : Option BarRing := q.ring.filter fun r => r.d == 0 || l ≤ r.d
/-- R232: the ring once a member has arrived for a level and deadline: that of the barrier, which takes over what has come
for it already. -/
def Part.ringFor (q : Part) (l level d : Nat) : BarRing :=
  match q.ringAt l with
  | some r =>
    if r.level = level && r.d = d then r
    else ⟨level, d, ringsOf q.bank.tree level, false, r.frames, false⟩
  | none => ⟨level, d, ringsOf q.bank.tree level, false, [], false⟩
/-- R317: a tile's arrival at a barrier. At a level that spans modules the last arrival of this module sends, once it
has travelled, the module's own frame into the rings (R232). -/
def State.arrive (s : State) (k level d : Nat) : State :=
  let s := s.modPartOf k fun q => { q with bars := (q.bars.filter fun b => s.lcycOf k ≤ b.d) ++ [⟨k % 256, k / 256, level, d, s.lcycOf k⟩] }
  match scopeKind (s.bankOf k).tree level, (s.tile k).part with
  | .spanning, some p =>
    let ms := s.groupOf k level
    s.modPart p fun q =>
      { q with
        ring := some (q.ringFor (s.lcycOf k) level d)
        barFire :=
          if ms.all fun m => q.bars.any fun b => tileKey b.x b.y == m && b.level == level && b.d == d then
            some (s.lcycOf k + arrivalDistance ms)
          else q.barFire }
  | _, _ => s

/-- A hold until an LCYC that has not come. -/
def State.holdTo (s : State) (kind : HoldKind) (d : Nat) : Try State := do
  let l := s.lcycNow
  need (l < d) 1 4
  return s.holdFor kind (d - l - 1)

/-- BAR (R317). -/
def execBar (g : Guard) (a : R5) (level : BitVec 6) (off : BitVec 26) (s : State) : Out :=
  .next (s.slot g [] fun _ s => do
    let v := s.ctx.readS a.toNat
    checkFmts intFmts false none [(v.fmt, 1)]
    let d := (v.v + off.setWidth 64).toNat
    let own := s.ownNow d
    let s ← s.holdTo (.bar level.toNat own) d
    return s.arrive s.myKey level.toNat own)
/-- DRAIN, short form (R319). -/
def execDrain (g : Guard) (level : BitVec 5) (n : BitVec 9) (s : State) : Out :=
  .next (s.slot g [] fun _ s =>
    return s.holdFor (.drain level.toNat (s.ownNow (s.lcycNow + 1 + n.toNat))) n.toNat)
/-- DRAIN, long form (R319). -/
def execDrainLong (g : Guard) (a : R5) (level : BitVec 6) (off : BitVec 26) (s : State) : Out :=
  .next (s.slot g [] fun _ s => do
    let v := s.ctx.readS a.toNat
    checkFmts intFmts false none [(v.fmt, 1)]
    let d := (v.v + off.setWidth 64).toNat
    s.holdTo (.drain level.toNat (s.ownNow d)) d)

/-- The end of a hold at a deadline: the checks of R199 are made, and a failure traps 0x01, subcode 5, at d (R164:
TRAPB is the BAR or DRAIN). -/
def State.endHold (s : State) (k : Nat) (fails : Bool) (h : Hold) : State :=
  let s := s.modTile k fun t => { t.markChecked (s.lcycOf k) with task := { t.task with hold := none } }
  if fails then s.raisePost k 1 5 7 h.bundle else s

/-- R317, R208: the deadline of a BAR. -/
def execBarDeadline (x y : Nat) (s : State) : Out :=
  let k := tileKey x y
  .next (match (s.tile k).task.hold with
    | some ⟨.bar level d, u, b, c⟩ => s.endHold k (s.barFails k level d) ⟨.bar level d, u, b, c⟩
    | _ => s)
/-- R319: the deadline of a DRAIN. -/
def execDrainDeadline (x y : Nat) (s : State) : Out :=
  let k := tileKey x y
  .next (match (s.tile k).task.hold with
    | some ⟨.drain level d, u, b, c⟩ => s.endHold k (s.drainFails k level d c) ⟨.drain level d, u, b, c⟩
    | _ => s)

/-- R316: issue of a stream goes on. A BAR or DRAIN that a firmware context issued is judged here, and its failure
stops the context (R274) (DEDUCED, log 32). -/
def execWaitResume (w : Who) (s : State) : Out :=
  let c := s.ctxAt w
  let free := s.setCtxAt w { c with hold := none }
  let judged (fails : Bool) : State :=
    if fails then free.stopCtx w 1 5 else free
  .next (match w, c.hold with
    | .fw x y, some ⟨.bar level d, _, _, _⟩ => judged (s.barFails (tileKey x y) level d)
    | .fw x y, some ⟨.drain level d, _, _, i⟩ => judged (s.drainFails (tileKey x y) level d i)
    | _, _ => free)

/-! ## Checks, END and traps (R320 to R322) -/

/-- CHK (R320). -/
def execChk (g : Guard) (a b : R5) (s : State) : Out :=
  .next (s.slot g [] fun _ s => do
    need (!((s.ctx.readS a.toNat).poi || (s.ctx.readS b.toNat).poi)) 3 1
    return s)
/-- CHK.P (R320). -/
def execChkP (g : Guard) (pa pb : P4) (s : State) : Out :=
  .next (s.slot g [] fun _ s => do
    need (!((s.ctx.readP pa.toNat).poi || (s.ctx.readP pb.toNat).poi)) 3 1
    return s)
/-- CHK.V (R320, R183). -/
def execChkV (g : Guard) (v : R9) (s : State) : Out :=
  .next (s.slot g [] fun _ s => do
    need (s.rowOk v.toNat) 7 5
    need (!((s.tile s.myKey).readV v.toNat).poi) 3 1
    return s)
/-- CHK.B (R320). -/
def execChkB (g : Guard) (ba bb : B3) (s : State) : Out :=
  .next (s.slot g [] fun _ s => do
    need (!((s.ctx.readB ba.toNat).poi || (s.ctx.readB bb.toNat).poi)) 3 1
    return s)

/-- Deadlines found missed by the tile itself (R199): each trap names its transfer's own slot and bundle (R164). -/
def State.missed (s : State) (k : Nat) (os : List RemOp) : State :=
  (os.filter fun o => !o.complete).foldl (fun s o => s.raisePost k 1 5 o.slot o.bundle) s

/-- END (R321): the task enters ENDED and every deadline up to c is checked; a firmware context or core stops. -/
def endStream (s : State) : State :=
  match s.cur.who with
  | .task x y =>
    let k := tileKey x y
    let l := s.lcycOf k
    let due := (s.tile k).dueChecks l
    (s.modTile k fun t => { t.markChecked l with st := if t.st == .running then .ended else t.st }).missed k due
  | .fw _ _ => s.modCtx fun c => { c with on := false }
  | .core _ _ => s.modCtx fun c => { c with on := false }
/-- END (R321). -/
def execEndTask (g : Guard) (s : State) : Out := .next (s.slot g [] fun _ s => return endStream s)
/-- TRAP (R322). -/
def execTrap (g : Guard) (n : Byte) (s : State) : Out := .next (s.slot g [] fun _ _ => .error (0x0B, n.toNat))
/-- SYSC (R322). -/
def execSysc (g : Guard) (n : Byte) (s : State) : Out := .next (s.slot g [] fun _ _ => .error (0x0C, n.toNat))

end Sys2Proof.Machine
end

