-- ==== Sys2Proof/Machine/Memory.lean ====
section
/-! DEFINITION. Accesses to tile SRAM: the window (R183), borrowed banks (R78, R79), swizzles (R188), reservations (R185,
R186) and bank ports (R182, R361). -/

namespace Sys2Proof.Machine

/-! ## Banks lost and lent (R78, R79) -/

/-- A bank the tile has lost and borrows. -/
def Health.lost (h : Health) (b : Nat) : Bool :=
  (1 ≤ h.nlost.toNat && h.lb0.toNat == b) || (2 ≤ h.nlost.toNat && h.lb1.toNat == b)
/-- A bank the tile has lent: 63, then 62. -/
def Health.gave (h : Health) (b : Nat) : Bool :=
  (1 ≤ h.lent.toNat && b == 63) || (2 ≤ h.lent.toNat && b == 62)
/-- R79: 4 where a word of some ranges lies in a borrowed bank (DEDUCED, log 39). -/
def Tile.lagOf (t : Tile) (ws : List Nat) : Nat := if ws.any fun w => t.health.lost (w % 64) then 4 else 0

/-! ## The window (R183) -/

/-- The words of several ranges. -/
def wordsOfAll (rs : List (Nat × Nat)) : List Nat := rs.flatMap fun r => wordsOf r.1 r.2

/-- R78: the end of the SRAM a task of the tile may use, 24 KiB less for each bank lent (DEDUCED, log 39). -/
def Health.top (h : Health) : Nat := 0x180000 - 24576 * h.lent.toNat
/-- R183, R181, R78: ranges of addresses and byte counts, all inside the task window and the SRAM (subcode 1), no write into
the code region (subcode 3), no word of what the tile has lent (subcode 4) (DEDUCED, log 39). -/
def State.window (s : State) (k : Nat) (write : Bool) (rs : List (Nat × Nat)) : Try Unit := do
  let b := s.bankOf k
  let h := (s.tile k).health
  need (rs.all fun r => r.1 + r.2 ≤ 1024 * b.foot && r.1 + r.2 ≤ 0x180000) 7 1
  need (!write || rs.all fun r => r.1 + r.2 ≤ b.ioff || b.ioff + 64 * b.nbun ≤ r.1) 7 3
  need (rs.all (fun r => r.1 + r.2 ≤ h.top) && (wordsOfAll rs).all fun w => !h.gave (w % 64)) 7 4

/-! ## Swizzles (R188) -/

/-- The physical address of byte L of an image based at B. -/
def swizzle (kind : Swz) (base l : Nat) : Nat :=
  let w := l / 16
  let col := w % 64
  let r := w / 64
  let bank := match kind with
    | .lin => col
    | .xor => col ^^^ (r % 64)
    | .skew => (col + r % 64 + r / 64 % 64) % 64
    | .brev => col
  (base + 1024 * r + 16 * bank + l % 16) % 2 ^ 64

/-- The low n bits of j, reversed. -/
def revBits : Nat → Nat → Nat
  | 0, _ => 0
  | n + 1, j => j % 2 * 2 ^ n + revBits n (j / 2)
/-- The row position that logical row j of m takes. -/
def rowPos (kind : Swz) (m j : Nat) : Nat := if kind == .brev then revBits (Nat.log2 m) j else j

/-- The 16-byte words, as word numbers, of the `n` words of logical row j that starts j strides into an image. -/
def rowWords (kind : Swz) (base m stride n j : Nat) : List Nat :=
  (List.range n).map fun q => swizzle kind base ((rowPos kind m j * stride + 16 * q) % 2 ^ 64) / 16

/-! ## The rows of channel commands (R363 to R367) -/

/-- The SRAM words that logical row j of a command reads. -/
def ChCmd.readWords (c : ChCmd) (j : Nat) : List Nat :=
  match c.what with
  | .cpy _ src side kind => rowWords (if side then kind else .lin) src c.m 128 8 j
  | .cpz _ => []
  | .cpt src stride kind _ => rowWords kind src c.m stride 3 j
  | .cpn _ _ src => rowWords .lin src c.m 128 8 j
  | .acpOut _ _ _ => []
  | .acpIn _ _ src _ _ => rowWords .lin src c.m 128 8 j
  | .sweep _ => []
/-- The SRAM words of this tile that logical row j of a command writes. -/
def ChCmd.writeWords (c : ChCmd) (j : Nat) : List Nat :=
  match c.what with
  | .cpy dst _ side kind => rowWords (if side then .lin else kind) dst c.m 128 8 j
  | .cpz dst => rowWords .lin dst c.m 128 8 j
  | .cpt _ _ _ _ => []
  | .cpn _ _ _ => []
  | .acpOut _ _ dst => rowWords .lin dst c.m 128 8 j
  | .acpIn _ _ _ _ _ => []
  | .sweep _ => []
/-- The cycle at which row 0 is read; row j follows j cycles later. -/
def ChCmd.read0 (c : ChCmd) : Nat := c.c + c.lag + 1
/-- The cycle at the end of which row 0 is written. -/
def ChCmd.write0 (c : ChCmd) : Nat :=
  match c.what with
  | .cpz _ => c.c + c.lag + 1
  | .cpy .. | .cpt .. | .cpn .. | .acpOut .. | .acpIn .. | .sweep _ => c.c + c.lag + 2
/-- The banks a command reads in a cycle. -/
def ChCmd.readBanks (c : ChCmd) (l : Nat) : BitVec 64 :=
  if c.read0 ≤ l && l < c.read0 + c.m then (c.readWords (l - c.read0)).foldl (fun m w => m ||| bankBit w) 0 else 0
/-- The banks a command writes at the end of a cycle. -/
def ChCmd.writeBanks (c : ChCmd) (l : Nat) : BitVec 64 :=
  if c.write0 ≤ l && l < c.write0 + c.m then (c.writeWords (l - c.write0)).foldl (fun m w => m ||| bankBit w) 0 else 0

/-- The commands on the channels of a tile. -/
def Tile.commands (t : Tile) : List ChCmd := [t.ta, t.tb, t.g, t.sw].filterMap id

/-! ## Bank ports (R182, R361) -/

/-- The banks that accesses already issued read in a cycle, or write at its end. -/
def Tile.portBanks (t : Tile) (l : Nat) (write : Bool) : BitVec 64 :=
  let slots := t.task.latches.foldl (fun m x =>
    if write then
      if x.kind == .sram && x.due = l then m ||| banksOf (x.reads.map fun r => (r.addr, r.n)) else m
    else if x.kind != .sram && x.rdAt = l then m ||| banksOf (x.reads.map fun r => (r.addr, r.n)) else m) 0
  let slots := if write && t.wroteAt = l then slots ||| t.wrote else slots
  t.commands.foldl (fun m c => m ||| (if write then c.writeBanks l else c.readBanks l)) slots

/-! ## Reservations (R185, R186) -/

/-- The span that some words make: their banks, and the first and last bank row. -/
def spanOf (ws : List Nat) (write : Bool) : Span :=
  let rows := ws.map (· / 64)
  ⟨ws.foldl (fun m w => m ||| bankBit w) 0, rows.foldl Nat.min (ws.headD 0 / 64), rows.foldl Nat.max 0, write⟩
/-- R186: two spans share a bank and their bank-row ranges intersect, one of them for writing. -/
def Span.meets (a b : Span) : Bool := (a.banks &&& b.banks) != 0 && a.r0 ≤ b.r1 && b.r0 ≤ a.r1 && (a.write || b.write)
/-- R197: the window of an STG or STP. -/
def RemOp.span (o : RemOp) : Span := spanOf (wordsOf o.win o.len) (o.kind == .stg)
/-- R185: the spans held in a cycle: of channel commands through their busy period, of STG and STP through their
deadline. -/
def Tile.spansAt (t : Tile) (l : Nat) : List Span :=
  (t.commands.filter fun c => l ≤ c.busy).flatMap (·.spans) ++
    (t.ops.filter fun o => o.staged && l ≤ o.deadline).map (·.span)
/-- R186: an access to some words at a cycle meets a reservation it may not. -/
def Tile.spanHit (t : Tile) (ws : List Nat) (write : Bool) (l : Nat) : Bool :=
  (t.spansAt l).any fun sp => ws.any fun w => (spanOf [w] write).meets sp

/-! ## An access of the LD or ST slot -/

/-- R79, R161: the cycles more that a load of ranges takes, a faulting one included (DEDUCED, log 39). -/
def State.loadLag (s : State) (rs : List (Nat × Nat)) : Nat :=
  (s.tile s.myKey).lagOf (wordsOfAll (rs.filter fun r => r.1 + r.2 ≤ 0x180000))

/-- R374 steps 6 and 7: an access of the LD or ST slot to ranges of SRAM, made in cycle c + 1, 4 cycles later for a
borrowed range (R79), which is what the answer says (DEDUCED, log 39). -/
def State.localAccess (s : State) (write aligned : Bool) (rs : List (Nat × Nat)) : Try Nat := do
  need aligned 7 2
  s.window s.myKey write rs
  let t := s.tile s.myKey
  let ws := (wordsOfAll rs).eraseDups
  let lag := t.lagOf ws
  let at_ := s.now + 1 + lag
  need ((ws.map (· % 64)).eraseDups.length == ws.length) 1 2
  need (!t.spanHit ws write at_) 1 2
  need ((banksOf rs &&& t.portBanks at_ write) == 0) 1 2
  return lag

end Sys2Proof.Machine
end

