-- ==== Sys2Proof/Machine/VectorOps.lean ====
section
/-! DEFINITION. The lane model of the VA and VB slots (R264, R267, R326 to R329): ranges, lanes, masks, operand formats
under XTAG, draws, and the latch a vector result becomes. -/

namespace Sys2Proof.Machine

/-! ## Ranges and lanes -/

/-- R264: bits acted on. -/
def VRange.bits (r : VRange) : Nat :=
  match r.w with
  | .w256 => 256
  | .w512 => 512
  | .w1024 => 1024
/-- R264: the low bit of the range. -/
def VRange.low (r : VRange) : Nat := VRange.bits r * r.part.toNat

/-- R326: low bit, element width, number of lanes, element index of lane 0. -/
structure Lanes where
  lo : Nat
  e : Nat
  n : Nat
  m0 : Nat
  deriving DecidableEq, Repr

/-- R326: the lanes of a range at an element width. -/
def lanesOf (r : VRange) (e : Nat) : Lanes := ⟨VRange.low r, e, VRange.bits r / e, VRange.low r / e⟩

/-- Element m of a row at an element width. -/
def elem (e : Nat) (v : Row) (m : Nat) : Nat := v.toNat / 2 ^ (e * m) % 2 ^ e
/-- Lane i of a row. -/
def Lanes.lane (g : Lanes) (v : Row) (i : Nat) : Nat := elem g.e v (g.m0 + i)

/-- The number whose base-2^e digits, lowest first, are the list. -/
def packNat (e : Nat) : List Nat → Nat
  | [] => 0
  | v :: vs => v % 2 ^ e + 2 ^ e * packNat e vs
/-- A row that holds the lanes in their places and zeros elsewhere. -/
def Lanes.pack (g : Lanes) (vs : List Nat) : Row := BitVec.ofNat 1024 (packNat g.e vs * 2 ^ g.lo)
/-- The bits of a row that the lanes chosen by a list of Booleans take. -/
def Lanes.ones (g : Lanes) (on : List Bool) : Row := g.pack (on.map fun b => if b then 2 ^ g.e - 1 else 0)
/-- Every lane of a list. -/
def Lanes.each {α : Type} (g : Lanes) (f : Nat → α) : List α := (List.range g.n).map f

/-! ## Masks (R267) -/

/-- A mask as read: the mask row if there is one, ZERO mode, poison. -/
structure MaskVal where
  row : Option Row
  zero : Bool
  poi : Bool
  deriving DecidableEq, Repr

/-- The lane of element index m is enabled. -/
def MaskVal.on (m : MaskVal) (i : Nat) : Bool :=
  match m.row with
  | none => true
  | some r => r.getLsbD i

/-- R183, R257: a row operand. -/
def State.rowIn (s : State) (r : Nat) : Try RowReg := do
  need (s.rowOk r) 7 5
  return (s.tile s.myKey).readV r

/-- R267, R259: the mask row, tagged MSK, subcode 4. -/
def State.maskIn (s : State) (x : Option Fmt) (m : Mask) : Try MaskVal :=
  match m with
  | .none => .ok ⟨none, false, false⟩
  | .merge vm => do
    let r ← s.rowIn vm.toNat
    need (accepts [.msk] x r.fmt) 2 4
    return ⟨some r.bits, false, r.poi⟩
  | .zero vm => do
    let r ← s.rowIn vm.toNat
    need (accepts [.msk] x r.fmt) 2 4
    return ⟨some r.bits, true, r.poi⟩

/-- The mask merges. -/
def Mask.merges : Mask → Bool
  | .merge _ => true
  | .none => false
  | .zero _ => false

/-- R267: the destination, below the grant; under MERGE its old tag is the result format (subcode 3), and its poison
counts (R261). -/
def State.oldIn (s : State) (x : Option Fmt) (m : Mask) (vd : Nat) (rf : Fmt) : Try Bool := do
  let o ← s.rowIn vd
  if Mask.merges m then
    need (accepts [rf] x o.fmt) 2 3
    return o.poi
  else return false

/-! ## Operand formats (R260, R326) -/

/-- The second source of a vector instruction: none, a row, or the literal of a VL form (R287). -/
inductive VB where
  | none
  | row (r : R9)
  | lit (l : W32)
  deriving DecidableEq, Repr

/-- R287: a literal in every lane of the width of the format that va carries, its low e bits; a VIX lane takes the pair
(literal, 0). -/
def litRow (e : Nat) (l : W32) : Row := BitVec.ofNat 1024 (packNat e (List.replicate (1024 / e) l.toNat))

/-- The format of a row as it stands. -/
def State.rowFmt (s : State) (r : Nat) : Fmt := ((s.tile s.myKey).readV r).fmt

/-- The operands that help to fix the operation format, in the order va, vb, old vd (R260) (DEDUCED, log 36). -/
def State.vecTags (s : State) (va : R9) (b : VB) (vd : Option R9) : List OpTag :=
  let tb : List OpTag := match b with
    | .row r => [(s.rowFmt r.toNat, 2)]
    | .none => []
    | .lit _ => []
  let td : List OpTag := match vd with
    | some r => [(s.rowFmt r.toNat, 3)]
    | .none => []
  (s.rowFmt va.toNat, 1) :: tb ++ td

/-- R260, R326: the operation format: that of the first operand that does not carry the XTAG's format. -/
def opFmt (acc : List Fmt) (x : Option Fmt) (ops : List OpTag) : Fmt :=
  match ops with
  | [] => .raw
  | o :: _ =>
    if x != some o.1 then o.1
    else
      match acc with
      | [f] => f
      | _ =>
        match ops.find? fun p => x != some p.1 with
        | some p => p.1
        | none => o.1

/-- R260: the operation format is one the entry accepts; the subcode names the operand that fixes it
(DEDUCED, log 36). -/
def opFmtOk (acc : List Fmt) (x : Option Fmt) (ops : List OpTag) : Try Fmt :=
  let f := opFmt acc x ops
  let sub := match ops.find? fun p => x != some p.1 with
    | some p => p.2
    | none => 1
  if acc.contains f then .ok f else .error (2, sub)

/-- The sources of a vector instruction as read: operation format, va, vb, the accumulating old vd, and the poison of
all of them. -/
structure VIn where
  f : Fmt
  a : Row
  b : Row
  d : Row
  poi : Bool
  deriving DecidableEq, Repr

/-- R326, R330: the sources: va fixes the format, vb and an accumulating vd must carry it. `old` is the old vd where it
helps to fix the format. -/
def State.vecIn (s : State) (x : Option Fmt) (acc : List Fmt) (va : R9) (b : VB) (vd : Option R9) (accu : Bool) :
    Try VIn := do
  let ra ← s.rowIn va.toNat
  let f ← opFmtOk acc x (s.vecTags va b vd)
  let (vb, pb) : Row × Bool ← match b with
    | .none => pure (0, false)
    | .lit l => pure (litRow ra.fmt.width l, false)
    | .row r => do
      let rb ← s.rowIn r.toNat
      need (accepts [f] x rb.fmt) 2 2
      pure (rb.bits, rb.poi)
  let (d, pd) : Row × Bool ← match vd, accu with
    | some r, true => do
      let rd ← s.rowIn r.toNat
      need (accepts [f] x rd.fmt) 2 3
      pure (rd.bits, rd.poi)
    | _, _ => pure (0, false)
  return ⟨f, ra.bits, vb, d, ra.poi || pb || pd⟩

/-- The old vd as a further operand: of an accumulating form, or under MERGE (R260). -/
def oldFor (v : VCtl) (accu : Bool) (vd : R9) : Option R9 := if accu || Mask.merges v.m then some vd else none

/-! ## Draws (R245) -/

/-- R245: n draws from the stochastic state of the slot being performed: LA for VA, LB for VB (DEDUCED, log 37). -/
def State.draw (s : State) (n : Nat) : List Nat × State :=
  if n = 0 then ([], s)
  else
    let k := s.myKey
    let t := s.tile k
    if s.cur.slot = 2 then
      let (d, l) := draws n t.lb
      (d, s.setTile k { t with lb := l })
    else
      let (d, l) := draws n t.la
      (d, s.setTile k { t with la := l })

/-- R245: draws under RSR alone. -/
def drawCount (md : Mod) (n : Nat) : Nat := if md.rnd == .rsr then n else 0
/-- R245: the draws of an instruction: the width divided by the element width of the result (DEDUCED, log 37). -/
def laneDraws (md : Mod) (r : VRange) (result : Fmt) : Nat := drawCount md (VRange.bits r / result.width)

/-- A vector slot under its guard: the draws are taken at c, whether or not the instruction then faults (R245). -/
def State.vslot (s : State) (g : Guard) (ds : List Dest) (n : Nat) (act : List Nat → Bool → State → Try State) : State :=
  if (s.ctx.guard g).on then
    let (d, s) := s.draw n
    s.slot g ds (act d)
  else s

/-! ## Results -/

/-- R326, R267: the latch of a lane-wise result. An enabled lane is written, a masked one is written zero under ZERO and
not at all under MERGE; only enabled lanes raise flags (DEDUCED, log 58). -/
def State.pushLanes (s : State) (vd : Nat) (fmt : Fmt) (poi : Bool) (lat : Nat) (g : Lanes) (m : MaskVal)
    (vs : List (Nat × FFlags)) : State :=
  let on := (List.range vs.length).map fun i => m.on (g.m0 + i)
  let vals := (vs.zip on).map fun p => if p.2 then p.1.1 else 0
  let en := if m.zero then on.map fun _ => true else on
  let fl := (vs.zip on).foldl (fun (f : FFlags) p => if p.2 then f ||| p.1.2 else f) 0
  s.pushV vd fmt (poi || m.poi) lat (g.pack vals) (g.ones en) fl

/-- A lane of a float format, flushed under FTZ (R248). -/
def laneNum (md : Mod) (f : Fmt) (g : Lanes) (v : Row) (i : Nat) : FNum :=
  flushOperand md.ftz f (f.value (g.lane v i))
/-- An exact result written in a format under the prefix, with all its flags. -/
def wr (f : Fmt) (md : Mod) (draw : Nat) (r : FNum × FFlags) : Nat × FFlags :=
  let (b, fl) := f.write md draw (exactly r.1)
  (b, r.2 ||| fl)
/-- A selected value written as it stands; a NaN is written canonical (R331). -/
def wrPick (f : Fmt) (r : FNum × FFlags) : Nat × FFlags := ((f.write Mod.plain 0 (exactly r.1)).1, r.2)

/-- R246: an integer result of width e: clamped under SAT INT, else wrapped. -/
def intOut (e : Nat) (sat : Sat) (v : Int) : Nat :=
  let hi : Int := ((2 ^ (e - 1) : Nat) : Int) - 1
  let lo : Int := -((2 ^ (e - 1) : Nat) : Int)
  if sat == .int then ofSigned e (if v < lo then lo else if v > hi then hi else v) else ofSigned e v

/-- The three float formats. -/
def fl3 : List Fmt := [.fp32, .bf16, .fp16]
/-- The three integer formats. -/
def int3 : List Fmt := [.i8, .i16, .i32]
/-- Both. -/
def num6 : List Fmt := [.fp32, .bf16, .fp16, .i8, .i16, .i32]

/-- A lane-wise instruction: operands of one format F, a result of format `rf F`, at width `rf F` in lanes `lf F`.
`f` gives lane i from the sources, the draws and the lane number. -/
def State.lanewise (s : State) (g : Guard) (p : Prefix) (v : VCtl) (acc : List Fmt) (vd va : R9) (b : VB) (accu : Bool)
    (lat : Nat) (f : Mod → VIn → Lanes → List Nat → Try (List (Nat × FFlags))) : State :=
  let x := Dec.xOf p
  let md := modOf p
  let old := oldFor v accu vd
  let wf := opFmt acc x (s.vecTags va b old)
  s.vslot g [⟨.row, vd.toNat, wf, lat⟩] (laneDraws md v.r wf) fun ds gp s => do
    let i ← s.vecIn x acc va b old accu
    let m ← s.maskIn x v.m
    let po ← s.oldIn x v.m vd.toNat i.f
    let l := lanesOf v.r i.f.width
    let vs ← f md i l ds
    return s.pushLanes vd.toNat i.f (gp || i.poi || po) lat l m vs

/-- A lane-wise float instruction: exact result, one rounding. -/
def State.floatLanes (s : State) (g : Guard) (p : Prefix) (v : VCtl) (vd va : R9) (b : VB) (accu : Bool) (lat : Nat)
    (op : Rnd → FNum → FNum → FNum → FNum × FFlags) : State :=
  s.lanewise g p v fl3 vd va b accu lat fun md i l ds =>
    .ok (l.each fun k =>
      wr i.f md (ds.getD k 0)
        (op md.rnd (laneNum md i.f l i.a k) (laneNum md i.f l i.b k) (laneNum md i.f l i.d k)))

/-- A lane-wise float selection. -/
def State.pickLanes (s : State) (g : Guard) (p : Prefix) (v : VCtl) (vd va : R9) (b : VB) (mx : Bool) : State :=
  s.lanewise g p v fl3 vd va b false 3 fun md i l _ =>
    .ok (l.each fun k => wrPick i.f ((laneNum md i.f l i.a k).pick mx (laneNum md i.f l i.b k)))

/-- A lane-wise integer instruction: element width, saturation, rounding and draw, lanes a and b as bit patterns. -/
def State.intLanes (s : State) (g : Guard) (p : Prefix) (v : VCtl) (vd va : R9) (b : VB) (lat : Nat)
    (op : Nat → Mod → Nat → Nat → Nat → Nat) : State :=
  s.lanewise g p v int3 vd va b false lat fun md i l ds =>
    .ok (l.each fun k => (op l.e md (ds.getD k 0) (l.lane i.a k) (l.lane i.b k), 0))

end Sys2Proof.Machine
end

