-- ==== Sys2Proof/Machine/LoadStore.lean ====
section
/-! DEFINITION. The local loads and stores of the LD and ST slots (R373 to R381, R384), and the cycles at which their
accesses and every pipeline latch come about (R268, R270, R324). -/

namespace Sys2Proof.Machine

/-- R380: the bytes of an access size. -/
def Size.bytes : Size → Nat
  | .b => 1
  | .h => 2
  | .w => 4
  | .d => 8

/-- An address sum, modulo 2^64 (R374). -/
def addrSum (a b : W64) : Nat := (a + b).toNat

/-- The bits of n bytes of a row from byte k on. -/
def byteMask (k n : Nat) : Row := BitVec.ofNat 1024 ((2 ^ (8 * n) - 1) * 2 ^ (8 * k))

/-! ## Loads -/

/-- R161, R261: the poison of a row or scalar that a load would have written. -/
def State.poisonLoad (s : State) (kind : LatchKind) (d : Nat) (fmt : Fmt) (n : Nat) : State :=
  s.push (.poisoning kind s.cur.slot d fmt s.now (s.now + n))

/-- The latch of a load: its pieces are read at c + 1, and it is in place at c + n, both 4 later for a borrowed range
(R79). -/
def State.pushLoad (s : State) (kind : LatchKind) (d : Nat) (fmt : Fmt) (poi : Bool) (n lag : Nat) (en : Row)
    (rs : List PendRead) (spec : Bool) : State :=
  s.push { Latch.result kind s.cur.slot d fmt poi s.now (s.now + n + lag) 0 en 0 with
    rdAt := s.now + 1 + lag, reads := rs, spec := spec }

/-- R377: the faults that a speculative load defers. -/
def speculable (f : Nat × Nat) : Bool := f == (7, 1) || f == (7, 2) || f == (7, 4) || f == (1, 2)

/-- R377: a fault of a speculative load: in the shadow it is listed; else it is kept for the cycle, in case the cycle
proves to be the T of a freeze. -/
def State.noteSpec (s : State) (f : Nat × Nat) (slot : Nat) : State :=
  let k := s.myKey
  let l := s.lcycOf k
  let e : DefFault := ⟨f.1, f.2, slot, s.ctx.bundle, l⟩
  let frozen := match s.partOf k with
    | some q => q.freeze.isSome
    | none => false
  s.modTile k fun t => if frozen then t.listFault e else { t with spec := (t.spec.filter fun x => x.cyc = l) ++ [e] }

/-- A load of some ranges once its address is known: a fault traps, or, of a speculative load, poisons (R377). -/
def State.loadFrom (s : State) (kind : LatchKind) (d : Nat) (fmt : Fmt) (gp : Bool) (n : Nat) (en : Row)
    (aligned : Bool) (rs : List PendRead) (spec : Bool) : Try State :=
  match s.localAccess false aligned (rs.map fun r => (r.addr, r.n)) with
  | .ok lag => .ok (s.pushLoad kind d fmt gp n lag en rs spec)
  | .error f =>
    if spec && speculable f then
      .ok ((s.noteSpec f s.cur.slot).poisonLoad kind d fmt (n + s.loadLag (rs.map fun r => (r.addr, r.n))))
    else .error f

/-- R264, R375: the first byte and the byte count of a range. -/
def VRange.byte0 (r : VRange) : Nat := VRange.low r / 8
/-- The bytes of a range. -/
def VRange.nbytes (r : VRange) : Nat := VRange.bits r / 8

/-- R375: LD and LDS. -/
def State.loadRow (s : State) (g : Guard) (r : VRange) (t : Fmt) (base : R5) (v : R9) (off : BitVec 23) (spec : Bool) :
    State :=
  let b := s.ctx.readS base.toNat
  let a := addrSum b.v (off.signExtend 64)
  s.slot g [⟨.row, v.toNat, t, 6 + s.loadLag [(a, VRange.nbytes r)]⟩] fun gp s => do
    need (s.rowOk v.toNat) 7 5
    checkFmts intFmts false none [(b.fmt, 1)]
    if b.poi then return s.poisonLoad .row v.toNat t 6
    s.loadFrom .row v.toNat t gp 6 (byteMask (VRange.byte0 r) (VRange.nbytes r)) (a % 16 == 0)
      [⟨VRange.byte0 r, a, VRange.nbytes r⟩] spec

/-- LD (R375). -/
def execLd (g : Guard) (r : VRange) (t : Fmt) (base : R5) (v : R9) (off : BitVec 23) (s : State) : Out :=
  .next (s.loadRow g r t base v off false)
/-- LDS (R377). -/
def execLds (g : Guard) (r : VRange) (t : Fmt) (base : R5) (v : R9) (off : BitVec 23) (s : State) : Out :=
  .next (s.loadRow g r t base v off true)

/-- R236: the bytes of an element LDT gathers. -/
def gatherBytes (f : Fmt) : Nat :=
  match f with
  | .i16 | .bf16 | .fp16 => 2
  | .vix => 8
  | .raw | .i8 | .i32 | .fp32 | .e4m3 | .e5m2 | .e2m1 | .d2 | .scl | .msk => 4

/-- LDT (R378). -/
def execLdt (g : Guard) (r : VRange) (t : Fmt) (base : R5) (v : R9) (stride : BitVec 23) (s : State) : Out :=
  let b := s.ctx.readS base.toNat
  let e := gatherBytes t
  let st : W64 := stride.signExtend 64
  let reads := (List.range (VRange.nbytes r / e)).map fun i =>
    (⟨VRange.byte0 r + e * i, (b.v + BitVec.ofNat 64 i * st).toNat, e⟩ : PendRead)
  .next (s.slot g [⟨.row, v.toNat, t, 6 + s.loadLag (reads.map fun r => (r.addr, r.n))⟩] fun gp s => do
    need (s.rowOk v.toNat) 7 5
    checkFmts intFmts false none [(b.fmt, 1)]
    if b.poi then return s.poisonLoad .row v.toNat t 6
    s.loadFrom .row v.toNat t gp 6 (byteMask (VRange.byte0 r) (VRange.nbytes r))
      (b.v.toNat % e == 0 && st.toNat % e == 0) reads false)

/-- R380: LDW and LDWS at an offset. -/
def State.loadScalar (s : State) (g : Guard) (d a : R5) (sz : Size) (off : W64) (spec : Bool) : State :=
  let b := s.ctx.readS a.toNat
  let x := addrSum b.v off
  s.slot g [⟨.scalar, d.toNat, .raw, 5 + s.loadLag [(x, Size.bytes sz)]⟩] fun gp s => do
    checkFmts intFmts false none [(b.fmt, 1)]
    if b.poi then return s.poisonLoad .scalar d.toNat .raw 5
    s.loadFrom .scalar d.toNat .raw gp 5 allBits (x % Size.bytes sz == 0) [⟨0, x, Size.bytes sz⟩] spec

/-- R380: the offset of a 32-bit form. -/
def shortOff (sz : Size) (off : BitVec 6) : W64 := BitVec.ofNat 64 (off.toNat * Size.bytes sz)

/-- LDW, short form (R380). -/
def execLdw (g : Guard) (d a : R5) (sz : Size) (off : BitVec 6) (s : State) : Out :=
  .next (s.loadScalar g d a sz (shortOff sz off) false)
/-- LDW, long form (R380). -/
def execLdwLong (g : Guard) (d a : R5) (sz : Size) (off : W32) (s : State) : Out :=
  .next (s.loadScalar g d a sz (off.signExtend 64) false)
/-- LDWS, short form (R380, R377). -/
def execLdws (g : Guard) (d a : R5) (sz : Size) (off : BitVec 6) (s : State) : Out :=
  .next (s.loadScalar g d a sz (shortOff sz off) true)
/-- LDWS, long form (R380, R377). -/
def execLdwsLong (g : Guard) (d a : R5) (sz : Size) (off : W32) (s : State) : Out :=
  .next (s.loadScalar g d a sz (off.signExtend 64) true)

/-- R381: LDB with its bump. -/
def State.loadBump (s : State) (g : Guard) (d a : R5) (sz : Size) (k : W64) : State :=
  let b := s.ctx.readS a.toNat
  let x := b.v.toNat
  s.slot g [⟨.scalar, a.toNat, .i32, 1⟩, ⟨.scalar, d.toNat, .raw, 5 + s.loadLag [(x, Size.bytes sz)]⟩] fun gp s => do
    checkFmts intFmts false none [(b.fmt, 1)]
    if b.poi then return (s.pushS a .i32 true 1 (b.v + k) 0).poisonLoad .scalar d.toNat .raw 5
    s.loadFrom .scalar d.toNat .raw gp 5 allBits (x % Size.bytes sz == 0) [⟨0, x, Size.bytes sz⟩] false
      |>.map fun s => s.pushS a .i32 gp 1 (b.v + k) 0

/-- LDB, short form (R381). -/
def execLdb (g : Guard) (d a : R5) (sz : Size) (off : BitVec 6) (s : State) : Out :=
  .next (s.loadBump g d a sz (shortOff sz off))
/-- LDB, long form (R381). -/
def execLdbLong (g : Guard) (d a : R5) (sz : Size) (off : W32) (s : State) : Out :=
  .next (s.loadBump g d a sz (off.signExtend 64))

/-! ## Arrival registers (R211, R384) -/

/-- The arrival register of a side. -/
def Tile.arr (t : Tile) : Side → Option RowReg
  | .n => t.arrN
  | .e => t.arrE
  | .s => t.arrS
  | .w => t.arrW
/-- The tile with another word in the arrival register of a side. -/
def Tile.setArr (t : Tile) (d : Side) (w : Option RowReg) : Tile :=
  match d with
  | .n => { t with arrN := w }
  | .e => { t with arrE := w }
  | .s => { t with arrS := w }
  | .w => { t with arrW := w }

/-- RECV (R384, R211): an empty register traps, and in the shadow poisons v, which keeps its tag (DEDUCED, log 41). -/
def execRecv (g : Guard) (v : R9) (port : Side) (s : State) : Out :=
  .next (s.slot g [⟨.row, v.toNat, (((s.tile s.myKey).arr port).map (·.fmt)).getD (s.rowFmt v.toNat), 1⟩] fun gp s => do
    need (s.rowOk v.toNat) 7 5
    match (s.tile s.myKey).arr port with
    | none => .error (1, 7)
    | some w => return (s.modTile s.myKey fun t => t.setArr port none).pushV v.toNat w.fmt (w.poi || gp) 1 w.bits allBits 0)

/-! ## Stores -/

/-- The latch of a store: its pieces are written at the end of c + 1, 4 later for a borrowed range (R79). -/
def State.pushStore (s : State) (poi : Bool) (lag : Nat) (val : Row) (ps : List PendRead) : State :=
  s.push { Latch.result .sram s.cur.slot 0 .raw poi s.now (s.now + 1 + lag) val allBits 0 with
    addr := (ps.headD ⟨0, 0, 0⟩).addr, atEnd := true, reads := ps }

/-- A store of pieces once its address is known (R374). -/
def State.storeTo (s : State) (poi aligned : Bool) (val : Row) (ps : List PendRead) : Try State := do
  let lag ← s.localAccess true aligned (ps.map fun r => (r.addr, r.n))
  return s.pushStore poi lag val ps

/-- R375: ST and STT; `tag` is the format STT asks for. -/
def State.storeRow (s : State) (g : Guard) (r : VRange) (tag : Option Fmt) (base : R5) (v : R9) (off : BitVec 23) :
    State :=
  s.slot g [] fun gp s => do
    need (s.rowOk v.toNat) 7 5
    let b := s.ctx.readS base.toNat
    checkFmts intFmts false none [(b.fmt, 1)]
    let w := (s.tile s.myKey).readV v.toNat
    need (tag.all (· == w.fmt)) 2 3
    need (!b.poi) 3 2
    let a := addrSum b.v (off.signExtend 64)
    s.storeTo (w.poi || gp) (a % 16 == 0) w.bits [⟨VRange.byte0 r, a, VRange.nbytes r⟩]

/-- ST (R375, R376). -/
def execSt (g : Guard) (r : VRange) (base : R5) (v : R9) (off : BitVec 23) (s : State) : Out :=
  .next (s.storeRow g r none base v off)
/-- STT (R375, R376). -/
def execStt (g : Guard) (r : VRange) (t : Fmt) (base : R5) (v : R9) (off : BitVec 23) (s : State) : Out :=
  .next (s.storeRow g r (some t) base v off)

/-- R379: the values SCT leaves in the 32 words of its block, none where it writes nothing; later pairs overwrite. -/
def scatter (g : Lanes) (v : Row) : Nat → List (Option Nat)
  | 0 => List.replicate 32 none
  | n + 1 =>
    let p := g.lane v n
    let m := scatter g v n
    if p / 2 ^ 32 < 32 then m.set (p / 2 ^ 32) (some (p % 2 ^ 32)) else m

/-- R376, R379: the pieces SCT writes: a whole 16-byte word where all its four parts are written, else its parts. -/
def scatterPieces (a : Nat) (m : List (Option Nat)) : List PendRead :=
  (List.range 8).flatMap fun w =>
    let parts := (List.range 4).filter fun i => ((m[4 * w + i]?).getD none).isSome
    if parts.length = 4 then [⟨16 * w, a + 16 * w, 16⟩] else parts.map fun i => ⟨16 * w + 4 * i, a + 16 * w + 4 * i, 4⟩

/-- SCT (R379) (DEDUCED, log 39). -/
def execSct (g : Guard) (r : VRange) (base : R5) (v : R9) (off : BitVec 23) (s : State) : Out :=
  .next (s.slot g [] fun gp s => do
    need (s.rowOk v.toNat) 7 5
    let b := s.ctx.readS base.toNat
    checkFmts intFmts false none [(b.fmt, 1)]
    let w := (s.tile s.myKey).readV v.toNat
    need (w.fmt == .vix) 2 3
    need (!b.poi) 3 2
    let a := addrSum b.v (off.signExtend 64)
    need (a % 128 == 0) 7 2
    s.window s.myKey true [(a, 128)]
    let m := scatter (lanesOf r 64) w.bits (VRange.bits r / 64)
    s.storeTo (w.poi || gp) true (BitVec.ofNat 1024 (packNat 32 (m.map (·.getD 0)))) (scatterPieces a m))

/-- R380: STW at an offset. -/
def State.storeScalar (s : State) (g : Guard) (d a : R5) (sz : Size) (off : W64) : State :=
  s.slot g [] fun gp s => do
    let b := s.ctx.readS a.toNat
    checkFmts intFmts false none [(b.fmt, 1)]
    need (!b.poi) 3 2
    let v := s.ctx.readS d.toNat
    let x := addrSum b.v off
    s.storeTo (v.poi || gp) (x % Size.bytes sz == 0) (v.v.setWidth 1024) [⟨0, x, Size.bytes sz⟩]

/-- STW, short form (R380). -/
def execStw (g : Guard) (d a : R5) (sz : Size) (off : BitVec 6) (s : State) : Out :=
  .next (s.storeScalar g d a sz (shortOff sz off))
/-- STW, long form (R380). -/
def execStwLong (g : Guard) (d a : R5) (sz : Size) (off : W32) (s : State) : Out :=
  .next (s.storeScalar g d a sz (off.signExtend 64))

/-! ## A load or store and a command of one bundle (R186) -/

/-- R186: a copy-slot command reserves its spans from its issue, so an access of the LD or ST slot of its own bundle
that meets them traps; it is undone, and TRAPM no longer counts it (R164); an LDS or LDWS defers (DEDUCED, log 31). -/
def State.undoMeeting (s : State) (spans : List Span) (slot : Nat) : State :=
  let c := s.ctx
  let mine (l : Latch) : Bool := l.slot = slot && l.issued = s.now
  let meets (l : Latch) : Bool := mine l &&
    l.reads.any fun r => (wordsOf r.addr r.n).any fun w => spans.any fun sp => (spanOf [w] (l.kind == .sram)).meets sp
  if c.latches.any meets then
    let spec := c.latches.any fun l => mine l && l.spec
    let ls := c.latches.filterMap fun l =>
      if mine l then if l.kind == .sram then none else some (Latch.poisoning l.kind l.slot l.dest l.fmt l.issued l.due)
      else some l
    if spec then (s.modCtx fun c => { c with latches := ls }).noteSpec (1, 2) slot
    else
      let bit : Byte := 1#8 <<< slot
      let s := s.modCtx fun c => { c with latches := ls, mask := c.mask &&& ~~~bit }
      let s := s.modTile s.myKey fun t =>
        { t with raise := t.raise.map fun r => if !r.post && r.bundle == c.bundle then { r with mask := r.mask &&& ~~~bit } else r }
      s.raise 1 2 slot
  else s

/-! ## Latches at their cycles -/

/-- The due latch that comes first: the earliest issued, of one bundle that of the lowest slot (R269). -/
def firstLatch : List Latch → Option Latch
  | [] => none
  | l :: ls =>
    match firstLatch ls with
    | none => some l
    | some m => if m.issued < l.issued || (m.issued = l.issued && m.slot < l.slot) then some m else some l

/-- R327: a scalar of VEXT or VMSK and one of the SC slot in the same register: the latter lands first. -/
def Latch.yields (m x : Latch) : Bool :=
  m.kind == .scalar && (m.slot == 1 || m.slot == 2) && x.kind == .scalar && x.slot == 0 && x.dest == m.dest
/-- R269, R327: of the results that are due the one that lands first (DEDUCED, log 38). -/
def landFirst (ls : List Latch) : Option Latch := (firstLatch ls).map fun m => (ls.find? m.yields).getD m

/-- R324: what LTF reads: value, format and poison (DEDUCED, log 38). -/
def State.ltfRead (s : State) (k space x : Nat) : Scalar :=
  let t := s.tile k
  match space with
  | 0 => t.task.readS x
  | 1 => ⟨BitVec.ofNat 64 (t.task.readP x).v.toNat, .i32, (t.task.readP x).poi⟩
  | 2 =>
    let b := t.task.readB x
    ⟨BitVec.ofNat 64 (b.addr + b.prep.toNat), .i32, b.poi⟩
  | 3 => ⟨(t.readV (x / 16)).bits.extractLsb' (64 * (x % 16)) 64, .i32, (t.readV (x / 16)).poi⟩
  | 4 =>
    if x < 32 then ⟨(tagOf (t.task.readS x).fmt (t.task.readS x).poi).setWidth 64, .i32, false⟩
    else ⟨(tagOf (t.readV (x - 32)).fmt (t.readV (x - 32)).poi).setWidth 64, .i32, false⟩
  | 5 => ⟨BitVec.ofNat 64 (ofBytes (Memory.reads t.sram x 8)), .i32, poisonRead t.spoi x 8⟩
  | _ =>
    let a := (match s.partOf k with
      | some q => q.recordAt (k % 256) (k / 256)
      | none => 0) + x
    ⟨BitVec.ofNat 64 (ofBytes (Memory.reads s.dev a 8)), .i32, poisonRead s.devPoi a 8⟩

/-- The value of the pieces a load reads, each at its place, and their poison. -/
def Tile.gather (t : Tile) (rs : List PendRead) : Row × Bool :=
  rs.foldl (fun v r =>
    (v.1 ||| (BitVec.ofNat 1024 (ofBytes (Memory.reads t.sram r.addr r.n)) <<< (8 * r.pos)), v.2 || poisonRead t.spoi r.addr r.n))
    (0, false)

/-- A load at its read cycle: of a task SRAM; of a firmware context task state (R324). -/
def State.readLatch (s : State) (w : Who) (l : Latch) : Latch :=
  match w, l.reads with
  | .fw x y, r :: _ =>
    let v := s.ltfRead (tileKey x y) r.pos r.addr
    { l with val := v.v.setWidth 1024, fmt := v.fmt, poi := l.poi || v.poi, reads := [] }
  | _, rs =>
    let v := (s.tile (whoKey w)).gather rs
    { l with val := v.1, poi := l.poi || v.2, reads := [] }

/-- A latch taken out of a stream, wherever it stands. -/
def Ctx.drop (c : Ctx) (l : Latch) : Ctx := { c with latches := c.latches.erase l }

/-- R80, R82: the corrected errors that a tile detects where one of its streams reads or writes. -/
def State.detectAt (s : State) : Who → State
  | .task x y => s.detect (tileKey x y)
  | .fw x y => s.detect (tileKey x y)
  | .core _ _ => s

/-- A latch whose read cycle has come. -/
def Latch.readDue (l : Latch) (now : Nat) : Bool := l.kind != .sram && !l.reads.isEmpty && l.rdAt ≤ now

/-- R268, R270, R13: the next latch of a stream at its cycle: results first, in the order of R269, then the reads of
loads, then the writes at the end of the cycle. -/
def execResultLanding (w : Who) (s : State) : Out :=
  let c := s.ctxAt w
  let n := s.nowAt w
  let early := c.latches.filter fun l => !l.atEnd && l.due ≤ n
  let special := early.filter fun l => l.kind == .special
  let late := c.latches.filter fun l => l.atEnd && l.due ≤ n
  .next (match firstLatch special with
    | some l => (s.setCtxAt w (c.drop l)).landAt w l
    | none =>
      match landFirst early with
      | some l => (s.setCtxAt w (c.drop l)).landAt w l
      | none =>
        match c.latches.find? (·.readDue n) with
        | some l =>
          (s.setCtxAt w { c with latches := c.latches.map fun m => if m = l then s.readLatch w l else m }).detectAt w
        | none =>
          match firstLatch late with
          | some l => (s.setCtxAt w (c.drop l)).landAt w l
          | none => s)

end Sys2Proof.Machine
end

