-- ==== Sys2Proof/Machine/Events.lean ====
section
/-! DEFINITION. What the device tells the host: event rings (R102 to R104), MSI-X (R54, R103), queue errors and the
queue status word (R96, R104), and who owns a page of device memory (R111). -/

namespace Sys2Proof.Machine

/-! ## Keys -/

/-- A queue. -/
def State.queue (s : State) (q : Nat) : Queue := sget Queue.zero s.queues q
/-- The machine with a queue changed. -/
def State.modQueue (s : State) (q : Nat) (f : Queue → Queue) : State :=
  { s with queues := sset Queue.zero s.queues q (f (s.queue q)) }
/-- A port. -/
def State.port (s : State) (n : Nat) : Port := sget Port.zero s.ports n
/-- The machine with a port changed. -/
def State.modPort (s : State) (n : Nat) (f : Port → Port) : State :=
  { s with ports := sset Port.zero s.ports n (f (s.port n)) }
/-- R42, R43, R107: a port answers: port 0 from STANDBY on, every port in ON, and none whose PERST_N is low
(DEDUCED, log 11). -/
def State.answers (s : State) (port : Nat) : Bool :=
  (s.power == .on || (s.power == .standby && port == 0)) && s.perst.getLsbD port
/-- The partitions in use, in ascending id. -/
def State.partIds (s : State) : List Nat := skeys s.parts

/-! ## Numbers in bytes -/

/-- The number of n bytes of a memory from an address on, lowest byte first (R10). -/
def memNat (m : List Host.Cell) (a n : Nat) : Nat := ofBytes (Memory.reads m a n)
/-- The machine with host memory written. -/
def State.writeHost (s : State) (a : Nat) (bs : List Byte) : State := { s with host := Memory.write s.host a bs }
/-- A 64-bit word with its address bits 63:3 and its location in bit 0 (R94, R116): host memory or device physical
memory. -/
def State.writeAt (s : State) (where_ : Nat) (bs : List Byte) : State :=
  let a := where_ / 8 * 8
  if where_ % 2 = 1 then s.writeDev a bs false else s.writeHost a bs
/-- The bytes at such an address. -/
def State.readAt (s : State) (where_ n : Nat) : List Byte :=
  let a := where_ / 8 * 8
  if where_ % 2 = 1 then Memory.reads s.dev a n else Memory.reads s.host a n
/-- R117: a device word that holds a byte of the range is poisoned. -/
def State.poisonAt (s : State) (where_ n : Nat) : Bool := where_ % 2 = 1 && poisonRead s.devPoi (where_ / 8 * 8) n

/-- A record of bytes: fields of byte offset, byte count and value. -/
def record (fs : List (Nat × Nat × Nat)) : Nat :=
  fs.foldl (fun r f => r + f.2.2 % 2 ^ (8 * f.2.1) * 2 ^ (8 * f.1)) 0

/-! ## Event rings (R102, R103) -/

/-- R102, R103: an event record but for ESEQ and the flags of byte 5. `data` is bytes 24 to 63. -/
def eventRec (kind queue part code gcyc data : Nat) : BitVec 512 :=
  BitVec.ofNat 512 (record [(4, 1, kind), (6, 2, queue), (8, 2, part), (12, 4, code), (16, 8, gcyc), (24, 40, data)])

/-- No queue, no partition (R102). -/
def none16 : Nat := 0xFFFF

/-- R102: the ring of a port takes records and is not full. -/
def Port.room (p : Port) : Bool := p.evctl.getLsbD 0 && (p.evhead - p.evtail).toNat != 2 ^ (p.evsz.toNat % 32)

/-- R103: the vector that signals a record: QUEUE mod 63 for one that names a queue, else 63 (PRESUMED, log 42). -/
def vectorOf (r : BitVec 512) : Nat :=
  let q := (r.extractLsb' 48 16).toNat
  if q = none16 then 63 else q % 63

/-- R54, R103: a vector fires: its message is written to host memory, or it is pending while masked. A table entry is
address, data and control words, bit 0 of control the mask (PRESUMED, the PCIe form, log 42). -/
def State.fire (s : State) (n v : Nat) : State :=
  let p := s.port n
  if p.evctl.getLsbD 1 then
    let e (i : Nat) : Nat := (sget 0 p.msix (4 * v + i)).toNat
    if e 3 % 2 = 1 then s.modPort n fun p => { p with pending := p.pending ||| (1#64 <<< v) }
    else s.writeHost (e 0 + 2 ^ 32 * e 1) (bytesOf 4 (e 2))
  else s

/-- R102: a record written at EVHEAD; `held` is its HELD flag (DEDUCED, log 53). -/
def State.putRecord (s : State) (n : Nat) (r : BitVec 512) (held : Bool) : State :=
  let p := s.port n
  let flags := (if p.ovfPending then 1 else 0) + (if held then 4 else 0)
  let v := r.toNat + p.eseq.toNat + flags * 2 ^ 40
  let a := p.evbase.toNat + 64 * (p.evhead.toNat % 2 ^ (p.evsz.toNat % 32))
  let s := s.writeHost a (bytesOf 64 v)
  let s := s.modPort n fun p => { p with evhead := p.evhead + 1, eseq := p.eseq + 1, ovfPending := false }
  s.fire n (vectorOf r)

/-- A count that saturates at 32 bits. -/
def satInc (v : W32) : W32 := if v = BitVec.allOnes 32 then v else v + 1

/-- R104: a record that could not be written counts, and the next one carries OVF. -/
def State.lostRecord (s : State) (n : Nat) : State :=
  s.modPort n fun p => { p with evovf := satInc p.evovf, ovfPending := true }

/-- R102, R104: an event of another kind than a queue error, to the ring of a port. -/
def State.event (s : State) (n : Nat) (r : BitVec 512) : State :=
  if (s.port n).room then s.putRecord n r false else s.lostRecord n
/-- R103: an event to both rings: each enabled control ring receives a copy. -/
def State.eventBoth (s : State) (r : BitVec 512) : State :=
  [0, 1].foldl (fun s n => if (s.port n).evctl.getLsbD 0 then s.event n r else s) s
/-- An event that names neither queue nor partition: a management event, which asserts ALERT_N (R41)
(DESIGN CHOICE, log 64). -/
def State.note (s : State) (kind code data : Nat) : State :=
  { s with alertPending := true }.eventBoth (eventRec kind none16 none16 code s.gcyc data)
/-- R88: an event about a partition goes to its control port. -/
def State.notePart (s : State) (p kind code data : Nat) : State :=
  match s.part p with
  | some q => s.event q.ctl.toNat (eventRec kind none16 p code s.gcyc data)
  | none => s
/-- R90: an ownership violation, on the writer's ring; CODE is the offset (DEDUCED, log 19)
(DESIGN CHOICE, log 68). -/
def State.violation (s : State) (port off : Nat) : State :=
  if port < 2 then s.event port (eventRec 0x0F none16 none16 off s.gcyc 0) else s

/-! ## Queue status and queue errors (R96, R104) -/

/-- R96: the codes of the queue states. -/
def QState.code : QState → Nat
  | .disabled => 0
  | .running => 1
  | .error => 2
/-- R96: the status word of a queue. -/
def Queue.status (q : Queue) : W64 :=
  BitVec.ofNat 64 (q.ridx.toNat + 2 ^ 34 * q.st.code + (if q.held.isSome then 2 ^ 36 else 0) + 2 ^ 40 * q.err.toNat)
/-- R91, R94, R96: 8-byte word i of a queue's descriptor as the host reads it; STAT, the last, is the status word. -/
def Queue.word (q : Queue) (i : Nat) : W64 := if i = 7 then q.status else q.desc.extractLsb' (64 * i) 64
/-- R94: a field of a queue's descriptor: n bytes at offset o. -/
def Queue.field (q : Queue) (o n : Nat) : Nat := q.desc.toNat / 2 ^ (8 * o) % 2 ^ (8 * n)
/-- R94: the queue's control port. -/
def Queue.qport (q : Queue) : Nat := if q.desc.getLsbD 77 then 1 else 0
/-- R94: open wake. -/
def Queue.ow (q : Queue) : Bool := q.desc.getLsbD 78
/-- R94: the priority, 0 highest. -/
def Queue.prio (q : Queue) : Nat := q.field 9 1 % 4
/-- R94: the measurement context. -/
def Queue.ctx (q : Queue) : Nat := q.field 10 2 % 4096
/-- R94: the partitions of PSET, in order. -/
def Queue.pset (q : Queue) : List Nat :=
  (List.range 8).filterMap fun n =>
    let e := q.field (16 + 2 * n) 2
    if 2 ^ 15 ≤ e then some (e % 512) else none
/-- R96: the status word written at STADDR. -/
def State.writeStatus (s : State) (q : Nat) : State :=
  let d := s.queue q
  s.writeAt (d.field 32 8) (bytesOf 8 d.status.toNat)

/-- R103, R104: a queue error. The record is written, or held in the latch, which stops the queue; while the latch is
full a later one is lost and sets MORE (DEDUCED, log 53). -/
def State.queueError (s : State) (q code lseq detail part : Nat) : State :=
  let d := s.queue q
  let n := d.qport
  let r := eventRec 0x02 q part code s.gcyc (record [(0, 8, lseq), (8, 4, detail)])
  let s := s.modQueue q fun d => { d with err := BitVec.ofNat 8 code }
  if (s.port n).room then (s.putRecord n r false).writeStatus q
  else
    let s := s.lostRecord n
    match d.held with
    | some h => (s.modQueue q fun d => { d with held := some (h ||| BitVec.ofNat 512 (2 ^ 41)) }).writeStatus q
    | none => (s.modQueue q fun d => { d with held := some r, st := .error }).writeStatus q

/-- R104: the held records of a port's queues, written in ascending queue number as space allows (DEDUCED, log 20). -/
def State.flushHeld (s : State) (n : Nat) : List Nat → State
  | [] => s
  | q :: qs =>
    let d := s.queue q
    match d.held with
    | some r =>
      if d.qport = n && (s.port n).room then
        (((s.putRecord n r true).modQueue q fun d => { d with held := none }).writeStatus q).flushHeld n qs
      else s.flushHeld n qs
    | none => s.flushHeld n qs

/-! ## Page ownership (R111) -/

/-- A 2 MiB page of device memory. -/
def pageOf (pa : Nat) : Nat := pa / 2 ^ 21
/-- The pages a region covers. -/
def Region.covers (r : Region) (pg : Nat) : Bool := pageOf r.pbase ≤ pg && pg < pageOf r.pbase + r.pages

/-- The launches that hold pages on a partition: the running one, the one in the next slot and the stabled one (R112,
R113, R122). -/
def Part.holders (q : Part) : List Bank :=
  (match q.run with | some l => [l.bank] | none => []) ++ (match q.next with | some l => [l.bank] | none => []) ++
    (match q.stab with | some z => [z.launch.bank] | none => [])

/-- R57, R92: landing region k of a port: base, bytes, permitted ids. -/
def Landing.enabled (l : Landing) : Bool := l.ctl.getLsbD 0
/-- The landing region holds a device virtual address. -/
def Landing.hits (l : Landing) (va : Nat) : Bool :=
  l.enabled && l.base.toNat ≤ va && va < l.base.toNat + 2 ^ 21 * (l.len.toNat % 65536)
/-- R57: a requester may write to the landing region. -/
def Landing.permits (l : Landing) (rid : BitVec 16) : Bool :=
  (List.range 4).any fun j => l.ctl.getLsbD (1 + j) && l.rid.extractLsb' (16 * j) 16 == rid

/-- The region table that a port's accesses go through (R56). -/
def State.aperture (s : State) (n : Nat) : List Region :=
  match s.part ((s.port n).aper.toNat % 512) with
  | some q => q.bank.regions
  | none => []

/-- R111: the page belongs to an enabled landing region (DESIGN CHOICE, log 69). -/
def State.inLanding (s : State) (pg : Nat) : Bool :=
  (skeys s.ports).any fun n => (List.range 16).any fun k =>
    let l := sget Landing.zero (s.port n).lr k
    l.enabled && (List.range (l.len.toNat % 65536)).any fun i =>
      match findRegion (s.aperture n) (l.base.toNat + 2 ^ 21 * i) with
      | some r => pageOf (r.pbase + (l.base.toNat + 2 ^ 21 * i - r.vbase)) == pg
      | none => false
/-- R95, R111: the page belongs to the ring of an enabled queue with its ring in device memory. -/
def State.inRing (s : State) (pg : Nat) : Bool :=
  (skeys s.queues).any fun q =>
    let d := s.queue q
    let base := d.field 0 8 / 256 * 256
    d.en && d.desc.getLsbD 0 && pageOf base ≤ pg && pg ≤ pageOf (base + 256 * 2 ^ (d.field 8 1) - 1)
/-- R111: a shared page. -/
def State.sharedPage (s : State) (pg : Nat) : Bool := s.inLanding pg || s.inRing pg
/-- R111: a page is device-owned. -/
def State.deviceOwned (s : State) (pg : Nat) : Bool :=
  s.sharedPage pg || s.partIds.any fun p =>
    match s.part p with
    | some q => q.holders.any fun b => b.regions.any fun r => r.covers pg
    | none => false

end Sys2Proof.Machine
end

