-- ==== Sys2Proof/Machine/VectorLanes.lean ====
section
/-! DEFINITION. The meanings of the lane-wise instructions of the VA and VB slots (R331 to R338). -/

namespace Sys2Proof.Machine

/-! ## Integer lanes (R332, R333) -/

/-- v / 2^k rounded to an integer under a mode, with a draw. -/
def roundShift (md : Mod) (draw : Nat) (v : Int) (k : Nat) : Int :=
  let (q, _) := roundUnits md.rnd (v < 0) v.natAbs (-(k : Int)) 0 false draw
  if v < 0 then -(q : Int) else q

/-- R332: VIADD. -/
def viaddFn (sub : Bool) (e : Nat) (md : Mod) (_ : Nat) (a b : Nat) : Nat :=
  intOut e md.sat (if sub then toSigned e a - toSigned e b else toSigned e a + toSigned e b)
/-- R332: VIMUL. -/
def vimulFn (f : MulForm) (e : Nat) (md : Mod) (draw : Nat) (a b : Nat) : Nat :=
  let p := toSigned e a * toSigned e b
  match f with
  | .lo => intOut e md.sat p
  | .his => ofSigned e (p / ((2 ^ e : Nat) : Int))
  | .hiu => a * b / 2 ^ e
  | .q => intOut e md.sat (roundShift md draw p (e - 1))
/-- R332: VIMM. -/
def vimmFn (f : MmForm) (e : Nat) (_ : Mod) (_ : Nat) (a b : Nat) : Nat :=
  match f with
  | .min => if toSigned e b < toSigned e a then b else a
  | .max => if toSigned e a < toSigned e b then b else a
  | .minu => if b < a then b else a
  | .maxu => if a < b then b else a
/-- R333: VSHL. -/
def vshlFn (e : Nat) (md : Mod) (_ : Nat) (a b : Nat) : Nat :=
  intOut e md.sat (toSigned e a * ((2 ^ min b e : Nat) : Int))
/-- R333: VSHR. Beyond k = e + 17 the quotient rounds as at e + 17. -/
def vshrFn (f : ShrForm) (e : Nat) (md : Mod) (draw : Nat) (a b : Nat) : Nat :=
  match f with
  | .l => a / 2 ^ min b e
  | .a => ofSigned e (toSigned e a / ((2 ^ min b e : Nat) : Int))
  | .ar => ofSigned e (roundShift md draw (toSigned e a) (min b (e + 17)))

/-! ## Bitwise (R334) -/

/-- R334: a bitwise instruction on the range bits; the lanes, and a literal, have the width of the result format. The old
vd under MERGE is an operand that helps to fix the operation format (R260). -/
def State.bitLanes (s : State) (g : Guard) (x : Option Fmt) (v : VCtl) (vd va : R9) (b : VB) (f : Row → Row → Row) :
    State :=
  s.slot g [⟨.row, vd.toNat, s.rowFmt va.toNat, 3⟩] fun gp s => do
    let ra ← s.rowIn va.toNat
    let ops := (s.vecTags va b (oldFor v false vd)).map (·.1)
    let fa := readAs x ops ra.fmt
    let rb : RowReg ← match b with
      | .none => pure ⟨0, fa, false⟩
      | .lit l => pure ⟨litRow fa.width l, fa, false⟩
      | .row r => do
        let rb ← s.rowIn r.toNat
        pure { rb with fmt := readAs x ops rb.fmt }
    let fmt ← bitwiseFmt fa rb.fmt
    let m ← s.maskIn x v.m
    let po ← s.oldIn x v.m vd.toNat fmt
    let l := lanesOf v.r fmt.width
    let r := f ra.bits rb.bits
    return s.pushLanes vd.toNat fmt (gp || ra.poi || rb.poi || po) 3 l m (l.each fun k => (l.lane r k, 0))

/-! ## VUN (R335) -/

/-- R335: one float lane: a NaN is written canonical, else the sign is cleared, inverted or taken from b. -/
def vunFloat (f : UnForm) (t : Fmt) (a b : Nat) : Nat :=
  let h := 2 ^ (t.width - 1)
  if (t.value a).isNaN then t.canonNaN
  else match f with
    | .abs => a % h
    | .neg => if a < h then a + h else a - h
    | .cpysgn => a % h + b / h * h
/-- R335: one integer lane; it wraps. -/
def vunInt (f : UnForm) (e : Nat) (a b : Nat) : Nat :=
  let v := toSigned e a
  ofSigned e (match f with
    | .abs => (v.natAbs : Int)
    | .neg => -v
    | .cpysgn => if toSigned e b < 0 then -(v.natAbs : Int) else v.natAbs)

/-! ## VCMP (R337) -/

/-- R337: an integer relation. -/
def intRel (r : VRel) (e a b : Nat) : Bool :=
  let x := toSigned e a
  let y := toSigned e b
  match r with
  | .eq => a == b
  | .ne => a != b
  | .lt => x < y
  | .le => x ≤ y
  | .gt => y < x
  | .ge => y ≤ x
  | .un => false
  | .ord => false
  | .ltu => a < b
  | .leu => a ≤ b
  | .gtu => b < a
  | .geu => b ≤ a
/-- R337: the relation exists for the format. -/
def relLegal (r : VRel) (f : Fmt) : Bool :=
  match r with
  | .un => f.isFloat3
  | .ord => f.isFloat3
  | .ltu => !f.isFloat3
  | .leu => !f.isFloat3
  | .gtu => !f.isFloat3
  | .geu => !f.isFloat3
  | _ => true

/-- R337: VCMP writes one bit a lane, at the lane's element index, and the tag MSK. -/
def State.cmpLanes (s : State) (g : Guard) (p : Prefix) (v : VCtl) (r : VRel) (vd va : R9) (b : VB) : State :=
  let x := Dec.xOf p
  let md := modOf p
  s.vslot g [⟨.row, vd.toNat, .msk, 2⟩] (laneDraws md v.r .msk) fun _ gp s => do
    let i ← s.vecIn x num6 va b (oldFor v false vd) false
    need (relLegal r i.f) 2 1
    let m ← s.maskIn x v.m
    let po ← s.oldIn x v.m vd.toNat .msk
    let l := lanesOf v.r i.f.width
    let vs := l.each fun k =>
      if i.f.isFloat3 then
        let a := laneNum md i.f l i.a k
        let c := laneNum md i.f l i.b k
        ((floatRel r a c).toNat, flagIf (a.isSNaN || c.isSNaN) fNV)
      else ((intRel r l.e (l.lane i.a k) (l.lane i.b k)).toNat, 0)
    return s.pushLanes vd.toNat .msk (gp || i.poi || po) 2 ⟨l.m0, 1, l.n, l.m0⟩ m vs

/-! ## Meanings -/
/-- VADD (R331). -/
def execVadd (g : Guard) (x : Prefix) (v : VCtl) (vd va vb : R9) (s : State) : Out :=
  .next (s.floatLanes g x v vd va (.row vb) false 3 fun r a b _ => a.add r b)
/-- VADD (R331), with a literal. -/
def execVaddLit (g : Guard) (x : Prefix) (v : VCtl) (vd va : R9) (lit : W32) (s : State) : Out :=
  .next (s.floatLanes g x v vd va (.lit lit) false 3 fun r a b _ => a.add r b)
/-- VSUB (R331). -/
def execVsub (g : Guard) (x : Prefix) (v : VCtl) (vd va vb : R9) (s : State) : Out :=
  .next (s.floatLanes g x v vd va (.row vb) false 3 fun r a b _ => a.add r b.negate)
/-- VSUB (R331), with a literal. -/
def execVsubLit (g : Guard) (x : Prefix) (v : VCtl) (vd va : R9) (lit : W32) (s : State) : Out :=
  .next (s.floatLanes g x v vd va (.lit lit) false 3 fun r a b _ => a.add r b.negate)
/-- VMUL (R331). -/
def execVmul (g : Guard) (x : Prefix) (v : VCtl) (vd va vb : R9) (s : State) : Out :=
  .next (s.floatLanes g x v vd va (.row vb) false 4 fun _ a b _ => a.mul b)
/-- VMUL (R331), with a literal. -/
def execVmulLit (g : Guard) (x : Prefix) (v : VCtl) (vd va : R9) (lit : W32) (s : State) : Out :=
  .next (s.floatLanes g x v vd va (.lit lit) false 4 fun _ a b _ => a.mul b)
/-- VFMA (R331). -/
def execVfma (g : Guard) (x : Prefix) (v : VCtl) (vd va vb : R9) (s : State) : Out :=
  .next (s.floatLanes g x v vd va (.row vb) true 4 fun r a b d => FNum.fma r a b d)
/-- VFMA (R331), with a literal. -/
def execVfmaLit (g : Guard) (x : Prefix) (v : VCtl) (vd va : R9) (lit : W32) (s : State) : Out :=
  .next (s.floatLanes g x v vd va (.lit lit) true 4 fun r a b d => FNum.fma r a b d)
/-- VFMS (R331). -/
def execVfms (g : Guard) (x : Prefix) (v : VCtl) (vd va vb : R9) (s : State) : Out :=
  .next (s.floatLanes g x v vd va (.row vb) true 4 fun r a b d => FNum.fma r a b d.negate)
/-- VFMS (R331), with a literal. -/
def execVfmsLit (g : Guard) (x : Prefix) (v : VCtl) (vd va : R9) (lit : W32) (s : State) : Out :=
  .next (s.floatLanes g x v vd va (.lit lit) true 4 fun r a b d => FNum.fma r a b d.negate)
/-- VFNM (R331). -/
def execVfnm (g : Guard) (x : Prefix) (v : VCtl) (vd va vb : R9) (s : State) : Out :=
  .next (s.floatLanes g x v vd va (.row vb) true 4 fun r a b d => FNum.fma r a.negate b d)
/-- VFNM (R331), with a literal. -/
def execVfnmLit (g : Guard) (x : Prefix) (v : VCtl) (vd va : R9) (lit : W32) (s : State) : Out :=
  .next (s.floatLanes g x v vd va (.lit lit) true 4 fun r a b d => FNum.fma r a.negate b d)
/-- VMIN (R331). -/
def execVmin (g : Guard) (x : Prefix) (v : VCtl) (vd va vb : R9) (s : State) : Out :=
  .next (s.pickLanes g x v vd va (.row vb) false)
/-- VMIN (R331), with a literal. -/
def execVminLit (g : Guard) (x : Prefix) (v : VCtl) (vd va : R9) (lit : W32) (s : State) : Out :=
  .next (s.pickLanes g x v vd va (.lit lit) false)
/-- VMAX (R331). -/
def execVmax (g : Guard) (x : Prefix) (v : VCtl) (vd va vb : R9) (s : State) : Out :=
  .next (s.pickLanes g x v vd va (.row vb) true)
/-- VMAX (R331), with a literal. -/
def execVmaxLit (g : Guard) (x : Prefix) (v : VCtl) (vd va : R9) (lit : W32) (s : State) : Out :=
  .next (s.pickLanes g x v vd va (.lit lit) true)
/-- VUN (R335). -/
def execVun (g : Guard) (x : Option Fmt) (v : VCtl) (f : UnForm) (vd va vb : R9) (s : State) : Out :=
  .next (s.lanewise g (Dec.ofX x) v num6 vd va (if f == .cpysgn then .row vb else .none) false 3 fun _ i l _ =>
    .ok (l.each fun k =>
      let a := l.lane i.a k
      let b := l.lane i.b k
      (if i.f.isFloat3 then vunFloat f i.f a b else vunInt f l.e a b, 0)))
/-- VSF (R336). -/
def execVsf (g : Guard) (x : Prefix) (v : VCtl) (f : SfForm) (vd va : R9) (s : State) : Out :=
  .next (s.lanewise g x v fl3 vd va .none false 12 fun md i l ds =>
    .ok (l.each fun k =>
      let frac := match i.f.layout with
        | some y => y.f
        | none => 0
      let r := specialFn f frac (laneNum md i.f l i.a k)
      let o := i.f.write md (ds.getD k 0) r.1
      (o.1, r.2 ||| o.2)))
/-- VCMP (R337) (DEDUCED, log 38). -/
def execVcmp (g : Guard) (x : Prefix) (v : VCtl) (r : VRel) (vd va vb : R9) (s : State) : Out :=
  .next (s.cmpLanes g x v r vd va (.row vb))
/-- VCMP (R337), with a literal. -/
def execVcmpLit (g : Guard) (x : Prefix) (v : VCtl) (r : VRel) (vd va : R9) (lit : W32) (s : State) : Out :=
  .next (s.cmpLanes g x v r vd va (.lit lit))
/-- VSEL (R338): the mask row is its selector; every lane of the range is written. -/
def execVsel (g : Guard) (x : Option Fmt) (r : VRange) (vd va vb vn : R9) (s : State) : Out :=
  .next (s.slot g [⟨.row, vd.toNat, s.rowFmt va.toNat, 3⟩] fun gp s => do
    let ra ← s.rowIn va.toNat
    let rb ← s.rowIn vb.toNat
    let fmt := if x == some ra.fmt then rb.fmt else ra.fmt
    need (rb.fmt == fmt || x == some rb.fmt) 2 2
    let rn ← s.rowIn vn.toNat
    need (accepts [.msk] x rn.fmt) 2 4
    need (s.rowOk vd.toNat) 7 5
    let l := lanesOf r fmt.width
    return s.pushLanes vd.toNat fmt (gp || ra.poi || rb.poi || rn.poi) 3 l ⟨none, false, false⟩
      (l.each fun k => (l.lane (if rn.bits.getLsbD (l.m0 + k) then ra.bits else rb.bits) k, 0)))
/-- VAND (R334). -/
def execVand (g : Guard) (x : Option Fmt) (v : VCtl) (vd va vb : R9) (s : State) : Out :=
  .next (s.bitLanes g x v vd va (.row vb) fun a b => a &&& b)
/-- VAND (R334), with a literal. -/
def execVandLit (g : Guard) (x : Option Fmt) (v : VCtl) (vd va : R9) (lit : W32) (s : State) : Out :=
  .next (s.bitLanes g x v vd va (.lit lit) fun a b => a &&& b)
/-- VOR (R334). -/
def execVor (g : Guard) (x : Option Fmt) (v : VCtl) (vd va vb : R9) (s : State) : Out :=
  .next (s.bitLanes g x v vd va (.row vb) fun a b => a ||| b)
/-- VOR (R334), with a literal. -/
def execVorLit (g : Guard) (x : Option Fmt) (v : VCtl) (vd va : R9) (lit : W32) (s : State) : Out :=
  .next (s.bitLanes g x v vd va (.lit lit) fun a b => a ||| b)
/-- VXOR (R334). -/
def execVxor (g : Guard) (x : Option Fmt) (v : VCtl) (vd va vb : R9) (s : State) : Out :=
  .next (s.bitLanes g x v vd va (.row vb) fun a b => a ^^^ b)
/-- VXOR (R334), with a literal. -/
def execVxorLit (g : Guard) (x : Option Fmt) (v : VCtl) (vd va : R9) (lit : W32) (s : State) : Out :=
  .next (s.bitLanes g x v vd va (.lit lit) fun a b => a ^^^ b)
/-- VANDN (R334). -/
def execVandn (g : Guard) (x : Option Fmt) (v : VCtl) (vd va vb : R9) (s : State) : Out :=
  .next (s.bitLanes g x v vd va (.row vb) fun a b => a &&& ~~~b)
/-- VANDN (R334), with a literal. -/
def execVandnLit (g : Guard) (x : Option Fmt) (v : VCtl) (vd va : R9) (lit : W32) (s : State) : Out :=
  .next (s.bitLanes g x v vd va (.lit lit) fun a b => a &&& ~~~b)
/-- VSHL (R333). -/
def execVshl (g : Guard) (x : Prefix) (v : VCtl) (vd va vb : R9) (s : State) : Out :=
  .next (s.intLanes g x v vd va (.row vb) 3 vshlFn)
/-- VSHL (R333), with a literal. -/
def execVshlLit (g : Guard) (x : Prefix) (v : VCtl) (vd va : R9) (lit : W32) (s : State) : Out :=
  .next (s.intLanes g x v vd va (.lit lit) 3 vshlFn)
/-- VSHR (R333). -/
def execVshr (g : Guard) (x : Prefix) (v : VCtl) (f : ShrForm) (vd va vb : R9) (s : State) : Out :=
  .next (s.intLanes g x v vd va (.row vb) 3 (vshrFn f))
/-- VSHR (R333), with a literal. -/
def execVshrLit (g : Guard) (x : Prefix) (v : VCtl) (f : ShrForm) (vd va : R9) (lit : W32) (s : State) : Out :=
  .next (s.intLanes g x v vd va (.lit lit) 3 (vshrFn f))
/-- VIADD (R332). -/
def execViadd (g : Guard) (x : Prefix) (v : VCtl) (sub : Bool) (vd va vb : R9) (s : State) : Out :=
  .next (s.intLanes g x v vd va (.row vb) 3 (viaddFn sub))
/-- VIADD (R332), with a literal. -/
def execViaddLit (g : Guard) (x : Prefix) (v : VCtl) (sub : Bool) (vd va : R9) (lit : W32) (s : State) : Out :=
  .next (s.intLanes g x v vd va (.lit lit) 3 (viaddFn sub))
/-- VIMUL (R332). -/
def execVimul (g : Guard) (x : Prefix) (v : VCtl) (f : MulForm) (vd va vb : R9) (s : State) : Out :=
  .next (s.intLanes g x v vd va (.row vb) 4 (vimulFn f))
/-- VIMUL (R332), with a literal. -/
def execVimulLit (g : Guard) (x : Prefix) (v : VCtl) (f : MulForm) (vd va : R9) (lit : W32) (s : State) : Out :=
  .next (s.intLanes g x v vd va (.lit lit) 4 (vimulFn f))
/-- VIMM (R332). -/
def execVimm (g : Guard) (x : Option Fmt) (v : VCtl) (f : MmForm) (vd va vb : R9) (s : State) : Out :=
  .next (s.intLanes g (Dec.ofX x) v vd va (.row vb) 3 (vimmFn f))
/-- VIMM (R332), with a literal. -/
def execVimmLit (g : Guard) (x : Option Fmt) (v : VCtl) (f : MmForm) (vd va : R9) (lit : W32) (s : State) : Out :=
  .next (s.intLanes g (Dec.ofX x) v vd va (.lit lit) 3 (vimmFn f))
end Sys2Proof.Machine
end

