-- ==== Sys2Proof/Machine/VectorRows.lean ====
section
/-! DEFINITION. The meanings of the VA and VB instructions that convert, quantise, reduce, scan, permute, move elements
and compute on complex pairs (R339 to R351). -/

namespace Sys2Proof.Machine

/-! ## Conversions (R339, R251) -/

/-- R251: one element converted. D2 and UE8M0 targets ignore the prefix (R239, R240), and FTZ has no effect on an integer
result (R248). -/
def convElem (md : Mod) (draw : Nat) (f t : Fmt) (b : Nat) : Nat × FFlags :=
  if f.isInt && t.isInt then (intOut t.width md.sat (toSigned f.width b), 0)
  else
    let x := f.value b
    let x := if t == .d2 || t == .scl || t.isInt then x else flushOperand md.ftz f x
    t.write md draw (exactly x)

/-- R339: the source formats of VCVT. -/
def cvtSources : List Fmt := [.fp32, .bf16, .fp16, .e4m3, .e5m2, .e2m1, .d2, .scl, .i8, .i16, .i32]

/-- R339: source lanes and destination lanes of a conversion between widths es and et at position p: the narrow side
starts at the p-th of the q parts of the range. -/
def cvtLanes (r : VRange) (es et p : Nat) : Lanes × Lanes :=
  let ew := max es et
  let nw := min es et
  let n := VRange.bits r / ew
  let sub := VRange.low r + p * n * nw
  let src := if et < es then VRange.low r else sub
  let dst := if et < es then sub else VRange.low r
  (⟨src, es, n, src / es⟩, ⟨dst, et, n, dst / et⟩)

/-- VCVT (R339). -/
def execVcvt (g : Guard) (x : Prefix) (v : VCtl) (t : Fmt) (p : B3) (vd va : R9) (s : State) : Out :=
  let md := modOf x
  let xt := Dec.xOf x
  .next (s.vslot g [⟨.row, vd.toNat, t, 4⟩] (laneDraws md v.r t) fun ds gp s => do
    let i ← s.vecIn xt cvtSources va .none (oldFor v false vd) false
    need (t != .scl || i.f.isFloat) 2 1
    need (p.toNat < max i.f.width t.width / min i.f.width t.width) 2 1
    let m ← s.maskIn xt v.m
    let po ← s.oldIn xt v.m vd.toNat t
    let (a, d) := cvtLanes v.r i.f.width t.width p.toNat
    let vs := d.each fun k => convElem md (ds.getD k 0) i.f t (a.lane i.a k)
    return s.pushLanes vd.toNat t (gp || i.poi || po) 4 d m vs)

/-! ## Block quantisation (R340, R341) -/

/-- R340: the largest finite magnitude of a block-scaled format. -/
def fmaxOf (t : Fmt) : Nat × Int :=
  match t.layout with
  | some l => l.maxFinite
  | none => (2, 0)

/-- The larger of two finite magnitudes. -/
def magMax (a b : Nat × Int) : Nat × Int :=
  let u := min a.2 b.2
  if unitsOf a.1 a.2 u < unitsOf b.1 b.2 u then b else a

/-- R340: an element of an infinite lane is converted with NV, and no other flag, whatever the target (DEDUCED, log 58). -/
def vqntFlags (x : FNum) (r : Nat × FFlags) : Nat × FFlags := if x.isInf then (r.1, fNV) else r

/-- R340, R240: the scale of a block of lanes and its flags: the smallest power of two at least max|lane| / Fmax. -/
def blockScale (t : Fmt) (xs : List FNum) : Nat × FFlags :=
  if xs.any FNum.isNaN then (0xFF, fNV)
  else if xs.any FNum.isInf then (0xFE, fOF)
  else
    let mag := xs.foldl (fun a n => match n with
      | .fin _ m e => magMax a (m, e)
      | _ => a) (0, 0)
    if mag.1 = 0 then (0, 0)
    else
      let fm := fmaxOf t
      let k0 : Int := (mag.2 + bitLen mag.1) - (fm.2 + bitLen fm.1)
      let u := min mag.2 (fm.2 + k0)
      let k := if unitsOf mag.1 mag.2 u ≤ unitsOf fm.1 (fm.2 + k0) u then k0 else k0 + 1
      let e := k + 127
      if e < 0 then (0, fOF) else if e > 254 then (254, fOF) else (e.toNat, 0)

/-- A value divided by its block scale: a NaN when the scale is (R340). -/
def unscale (sc : Nat) (x : FNum) : FNum := if sc == 0xFF then .nan false else x.scale (127 - (sc : Int))

/-- VQNT (R340) (DEDUCED, log 58). FTZ has no effect on the UE8M0 scales (R248). -/
def execVqnt (g : Guard) (x : Prefix) (v : VCtl) (t : Fmt) (p : B3) (soff : R9) (vd va : R9) (s : State) : Out :=
  let md := modOf x
  let xt := Dec.xOf x
  .next (s.vslot g [⟨.row, vd.toNat, t, 4⟩, ⟨.row, vd.toNat + 1, .scl, 4⟩] (laneDraws md v.r t) fun ds gp s => do
    let i ← s.vecIn xt fl3 va .none (oldFor v false vd) false
    let (a, d) := cvtLanes v.r i.f.width t.width p.toNat
    need (a.n % 16 == 0 && p.toNat < i.f.width / t.width) 2 1
    let m ← s.maskIn xt v.m
    let po ← s.oldIn xt v.m vd.toNat t
    need (s.rowOk (vd.toNat + 1)) 7 5
    let rd : Mod := { md with ftz := md.ftz && t != .d2 }
    let lane (k : Nat) : FNum := laneNum rd i.f a i.a k
    let kept (k : Nat) : FNum := laneNum { rd with ftz := false } i.f a i.a k
    let scales := (List.range (a.n / 16)).map fun b => blockScale t ((List.range 16).map fun j => kept (16 * b + j))
    let on (b : Nat) : Bool := (List.range 16).any fun j => m.on (d.m0 + 16 * b + j)
    let vs := d.each fun k =>
      let y := unscale (scales.getD (k / 16) (0, 0)).1 (lane k)
      vqntFlags y (t.write md (ds.getD k 0) (exactly y))
    let fl := (List.range scales.length).foldl (fun f b => if on b then f ||| (scales.getD b (0, 0)).2 else f) (0 : FFlags)
    let poi := gp || i.poi || po
    let q : Lanes := ⟨8 * soff.toNat, 8, scales.length, soff.toNat⟩
    let s := s.pushLanes vd.toNat t poi 4 d m vs
    return s.pushV (vd.toNat + 1) .scl (poi || m.poi) 4 (q.pack (scales.map (·.1)))
      (q.ones ((List.range scales.length).map on)) fl)

/-- VDQ (R341); a signalling element raises NV whatever its scale (R249). -/
def execVdq (g : Guard) (x : Prefix) (v : VCtl) (t : Fmt) (p : B3) (soff : R9) (vd va : R9) (s : State) : Out :=
  let md := modOf x
  let xt := Dec.xOf x
  let narrow : List Fmt := [.e4m3, .e5m2, .e2m1, .d2]
  .next (s.vslot g [⟨.row, vd.toNat, t, 4⟩] (laneDraws md v.r t) fun ds gp s => do
    let i ← s.vecIn xt narrow va .none (oldFor v false vd) false
    let rs ← s.rowIn (va.toNat + 1)
    need (accepts [.scl] xt rs.fmt) 2 2
    let (a, d) := cvtLanes v.r i.f.width t.width p.toNat
    need (p.toNat < t.width / i.f.width) 2 1
    let m ← s.maskIn xt v.m
    let po ← s.oldIn xt v.m vd.toNat t
    let vs := d.each fun k =>
      let sc := elem 8 rs.bits (soff.toNat + k / 16)
      let n := laneNum md i.f a i.a k
      t.write md (ds.getD k 0) (exactly (if sc == 0xFF then .nan n.isSNaN else n.scale ((sc : Int) - 127)))
    return s.pushLanes vd.toNat t (gp || i.poi || rs.poi || po) 4 d m vs)

/-! ## Reductions and scans (R342, R254, R255) -/

/-- R342: the formats an operator accepts. -/
def redFmts : RedOp → List Fmt
  | .sum => num6
  | .max => num6
  | .min => num6
  | .maxi => [.vix]
  | .mini => [.vix]

/-- R342, R220: the identity of an operator in a format. -/
def redIdentity (o : RedOp) (f : Fmt) : Nat :=
  let inf (neg : Bool) : Nat := match f.layout with
    | some l => l.infBits neg
    | none => 0
  match o with
  | .sum => if f.isFloat3 then 2 ^ (f.width - 1) else 0
  | .max => if f.isFloat3 then inf true else 2 ^ (f.width - 1)
  | .min => if f.isFloat3 then inf false else 2 ^ (f.width - 1) - 1
  | .maxi => 0xFF800000 + 2 ^ 32 * 0xFFFFFFFF
  | .mini => 0x7F800000 + 2 ^ 32 * 0xFFFFFFFF

/-- R256: the winner of two VIX pairs held as 64-bit numbers. -/
def pickVix (mx : Bool) (a b : Nat) : Nat :=
  let sp (n : Nat) : BitVec 32 × BitVec 32 := (BitVec.ofNat 32 n, BitVec.ofNat 32 (n / 2 ^ 32))
  let w := pickPair mx (sp a) (sp b)
  w.1.toNat + 2 ^ 32 * w.2.toNat

/-- R248: a VIX pair, as a 64-bit number, with its FP32 value flushed under FTZ. -/
def flushVix (ftz : Bool) (a : Nat) : Nat :=
  if ftz && a / 2 ^ 23 % 256 = 0 then a / 2 ^ 31 % 2 * 2 ^ 31 + a / 2 ^ 32 * 2 ^ 32 else a
/-- R256, R248, R249: the winner of two pairs under a prefix, with the flag of a signalling NaN. -/
def vixNode (mx : Bool) (md : Mod) (a b : Nat) : Nat × FFlags :=
  let sn (v : Nat) : Bool := (Fmt.fp32.value (v % 2 ^ 32)).isSNaN
  (pickVix mx (flushVix md.ftz a) (flushVix md.ftz b), flagIf (sn a || sn b) fNV)

/-- R254: one node of a fold, rounded to the operand format under the prefix. -/
def redNode (o : RedOp) (f : Fmt) (md : Mod) (draw : Nat) (a b : Nat) : Nat × FFlags :=
  let n (v : Nat) : FNum := flushOperand md.ftz f (f.value v)
  match o with
  | .sum =>
    if f.isFloat3 then wr f md draw ((n a).add md.rnd (n b))
    else (intOut f.width md.sat (toSigned f.width a + toSigned f.width b), 0)
  | .max =>
    if f.isFloat3 then wrPick f ((n a).pick true (n b))
    else (if toSigned f.width a < toSigned f.width b then b else a, 0)
  | .min =>
    if f.isFloat3 then wrPick f ((n a).pick false (n b))
    else (if toSigned f.width b < toSigned f.width a then b else a, 0)
  | .maxi => vixNode true md a b
  | .mini => vixNode false md a b

/-- R255, R234, R248: lane 0 of a scan as it is written: a NaN canonical, a subnormal flushed under FTZ. -/
def scanFirst (o : RedOp) (f : Fmt) (md : Mod) (a : Nat) : Nat :=
  if f.isFloat3 then (wrPick f (flushOperand md.ftz f (f.value a), 0)).1
  else match o with
    | .maxi => (vixNode true md a a).1
    | .mini => (vixNode false md a a).1
    | .sum => a
    | .max => a
    | .min => a

/-- R254: one level of the tree, lane pairs in ascending order; the draws that are left. -/
def redLevel (node : Nat → Nat → Nat → Nat × FFlags) : List Nat → List Nat → List (Nat × FFlags) × List Nat
  | a :: b :: vs, ds =>
    let r := redLevel node vs ds.tail
    (node (ds.headD 0) a b :: r.1, r.2)
  | [a], ds => ([(a, 0)], ds)
  | [], ds => ([], ds)
/-- R254: the pairwise tree, at most `fuel` levels. -/
def redTree (node : Nat → Nat → Nat → Nat × FFlags) : Nat → List Nat → List Nat → FFlags → Nat × FFlags
  | 0, vs, _, f => (vs.headD 0, f)
  | fuel + 1, vs, ds, f =>
    if vs.length ≤ 1 then (vs.headD 0, f)
    else
      let (r, ds) := redLevel node vs ds
      redTree node fuel (r.map (·.1)) ds (r.foldl (fun f p => f ||| p.2) f)
/-- R255: the left fold, each value with its own flags. -/
def scanFold (node : Nat → Nat → Nat → Nat × FFlags) (y : Nat) : List Nat → List Nat → List (Nat × FFlags)
  | [], _ => []
  | v :: vs, ds =>
    let r := node (ds.headD 0) y v
    r :: scanFold node r.1 vs ds.tail

/-- The draws of a fold over n lanes: n - 1 of a .SUM operator (R254, R255). -/
def redDraws (o : RedOp) (md : Mod) (n : Nat) : Nat := if o == .sum then drawCount md (n - 1) else 0

/-- VRED (R342, R254): the result goes to lane 0 whatever the mask. -/
def execVred (g : Guard) (x : Prefix) (v : VCtl) (op : RedOp) (vd va : R9) (s : State) : Out :=
  let md := modOf x
  let xt := Dec.xOf x
  let old := oldFor v false vd
  let wf := opFmt (redFmts op) xt (s.vecTags va .none old)
  .next (s.vslot g [⟨.row, vd.toNat, wf, 6⟩] (redDraws op md (VRange.bits v.r / wf.width)) fun ds gp s => do
    let i ← s.vecIn xt (redFmts op) va .none old false
    let m ← s.maskIn xt v.m
    let po ← s.oldIn xt v.m vd.toNat i.f
    let l := lanesOf v.r i.f.width
    let vs := l.each fun k => if m.on (l.m0 + k) then l.lane i.a k else redIdentity op i.f
    let r := redTree (redNode op i.f md) 11 vs ds 0
    return s.pushLanes vd.toNat i.f (gp || i.poi || po || m.poi) 6 ⟨l.lo, l.e, 1, l.m0⟩ ⟨none, false, false⟩ [r])

/-- VSCAN (R342, R255). -/
def execVscan (g : Guard) (x : Prefix) (v : VCtl) (op : RedOp) (ex : Bool) (vd va : R9) (s : State) : Out :=
  let md := modOf x
  let xt := Dec.xOf x
  let old := oldFor v false vd
  let wf := opFmt (redFmts op) xt (s.vecTags va .none old)
  .next (s.vslot g [⟨.row, vd.toNat, wf, 6⟩] (redDraws op md (VRange.bits v.r / wf.width)) fun ds gp s => do
    let i ← s.vecIn xt (redFmts op) va .none old false
    let m ← s.maskIn xt v.m
    let po ← s.oldIn xt v.m vd.toNat i.f
    let l := lanesOf v.r i.f.width
    let vs := l.each fun k => if m.on (l.m0 + k) then l.lane i.a k else redIdentity op i.f
    let first := vs.headD 0
    let inc := (scanFirst op i.f md first, 0) :: scanFold (redNode op i.f md) first vs.tail ds
    let out := if ex then (redIdentity op i.f, 0) :: inc.dropLast else inc
    return s.pushLanes vd.toNat i.f (gp || i.poi || po) 6 l m out)

/-! ## Permutes and shuffles (R343, R344) -/

/-- R343: every format but RAW, E2M1 and MSK. -/
def permFmts : List Fmt := [.i8, .i16, .i32, .fp32, .bf16, .fp16, .e4m3, .e5m2, .d2, .scl, .vix]
/-- R344: every format but RAW. -/
def shufFmts : List Fmt := .e2m1 :: .msk :: permFmts

/-- VPERM (R343): vb holds I8 lane numbers, read by element index. -/
def execVperm (g : Guard) (x : Option Fmt) (v : VCtl) (wrap : Bool) (vd va vb : R9) (s : State) : Out :=
  let old := oldFor v false vd
  let wf := opFmt permFmts x (s.vecTags va (.row vb) old)
  .next (s.slot g [⟨.row, vd.toNat, wf, 3⟩] fun gp s => do
    let ra ← s.rowIn va.toNat
    let f ← opFmtOk permFmts x (s.vecTags va (.row vb) old)
    let rb ← s.rowIn vb.toNat
    need (accepts [.i8] x rb.fmt) 2 2
    let m ← s.maskIn x v.m
    let po ← s.oldIn x v.m vd.toNat f
    let l := lanesOf v.r f.width
    let vs := l.each fun k =>
      let j := elem 8 rb.bits (l.m0 + k)
      (if j < l.n then l.lane ra.bits j else if wrap then l.lane ra.bits (j % l.n) else 0, 0)
    return s.pushLanes vd.toNat f (gp || ra.poi || rb.poi || po) 3 l m vs)

/-- The low b bits of i in reversed order (R344). -/
def brev : Nat → Nat → Nat
  | 0, _ => 0
  | b + 1, i => i % 2 * 2 ^ b + brev b (i / 2)

/-- VSHUF (R344). -/
def execVshuf (g : Guard) (x : Option Fmt) (v : VCtl) (f : ShufForm) (vd va vb : R9) (s : State) : Out :=
  let b : VB := match f with
    | .ilv _ => .row vb
    | .bitrev => .none
    | .dilv => .none
    | .rotl _ => .none
  .next (s.lanewise g (Dec.ofX x) v shufFmts vd va b false 3 fun _ i l _ =>
    .ok (l.each fun k =>
      (match f with
       | .bitrev => l.lane i.a (brev (Nat.log2 l.n) k)
       | .ilv hi =>
         let j := (if hi then l.n / 2 else 0) + k / 2
         if k % 2 = 0 then l.lane i.a j else l.lane i.b j
       | .dilv => if k < l.n / 2 then l.lane i.a (2 * k) else l.lane i.a (2 * (k - l.n / 2) + 1)
       | .rotl r => l.lane i.a ((k + l.n - r.toNat % l.n) % l.n), 0)))

/-! ## Element moves (R345 to R347, R351) -/

/-- A row of one source written lane by lane in a format of its own (R345, R347). -/
def State.moveLanes (s : State) (g : Guard) (v : VCtl) (vd : R9) (src : Option R9) (t : Fmt → Fmt)
    (f : Lanes → Row → Nat → Nat) : State :=
  let wf := t (match src with
    | some r => s.rowFmt r.toNat
    | none => .raw)
  s.slot g [⟨.row, vd.toNat, wf, 3⟩] fun gp s => do
    let ra ← match src with
      | some r => s.rowIn r.toNat
      | none => pure RowReg.zero
    let fmt := t ra.fmt
    let m ← s.maskIn none v.m
    let po ← s.oldIn none v.m vd.toNat fmt
    let l := lanesOf v.r fmt.width
    return s.pushLanes vd.toNat fmt (gp || ra.poi || po) 3 l m (l.each fun k => (f l ra.bits k, 0))

/-- VBC.L (R345). -/
def execVbcL (g : Guard) (v : VCtl) (vd va : R9) (k : Byte) (s : State) : Out :=
  .next (s.moveLanes g v vd (some va) id fun l r _ => l.lane r (k.toNat % l.n))
/-- VBC.I (R345). -/
def execVbcI (g : Guard) (v : VCtl) (t : Fmt) (vd : R9) (lit : W32) (s : State) : Out :=
  .next (s.moveLanes g v vd none (fun _ => t) fun l _ _ => lit.toNat % 2 ^ l.e)
/-- VMOV (R347). -/
def execVmov (g : Guard) (v : VCtl) (vd va : R9) (s : State) : Out :=
  .next (s.moveLanes g v vd (some va) id fun l r k => l.lane r k)
/-- VTAG (R347). -/
def execVtag (g : Guard) (v : VCtl) (t : Fmt) (vd va : R9) (s : State) : Out :=
  .next (s.moveLanes g v vd (some va) (fun _ => t) fun l r k => l.lane r k)
/-- VIOTA (R347). -/
def execViota (g : Guard) (v : VCtl) (t : Fmt) (vd : R9) (base : R9) (s : State) : Out :=
  .next (s.moveLanes g v vd none (fun _ => t) fun l _ k =>
    let n := l.m0 + k + base.toNat
    if t.isInt then n % 2 ^ l.e else (t.write Mod.plain 0 (exactly (.fin false n 0))).1)

/-- R346: the format a scalar takes from an element. -/
def extFmt (f : Fmt) : Fmt := if f.isInt then .i32 else if f == .fp32 then .fp32 else .raw
/-- VEXT (R346). -/
def execVext (g : Guard) (x : Option Fmt) (r : VRange) (d : R5) (va : R9) (k : Byte) (s : State) : Out :=
  let _ := x
  .next (s.slot g [⟨.scalar, d.toNat, extFmt (s.rowFmt va.toNat), 3⟩] fun gp s => do
    let ra ← s.rowIn va.toNat
    let l := lanesOf r ra.fmt.width
    let e := l.lane ra.bits (k.toNat % l.n)
    let v : W64 := if ra.fmt.isInt then BitVec.ofInt 64 (toSigned l.e e) else BitVec.ofNat 64 e
    return s.pushS d (extFmt ra.fmt) (gp || ra.poi) 3 v 0)
/-- R346: the scalar and row formats VINS accepts. -/
def insPair (sf vf : Fmt) : Bool := sf == .raw || (sf == .i32 && vf.isInt) || (sf == .fp32 && vf == .fp32)
/-- VINS (R346): the old vd is its third source and keeps its tag. Under an XTAG of its format alone it is read in the
scalar's (R260) (DEDUCED, log 36). -/
def execVins (g : Guard) (x : Option Fmt) (r : VRange) (vd : R9) (a : R5) (k : Byte) (s : State) : Out :=
  .next (s.slot g [⟨.row, vd.toNat, s.rowFmt vd.toNat, 3⟩] fun gp s => do
    let va := s.ctx.readS a.toNat
    let o ← s.rowIn vd.toNat
    need (insPair va.fmt o.fmt || x == some va.fmt || x == some o.fmt) 2 1
    let e := if insPair va.fmt o.fmt || x == some va.fmt then o.fmt.width else va.fmt.width
    let l := lanesOf r e
    let j := k.toNat % l.n
    let one : Lanes := ⟨l.lo + j * l.e, l.e, 1, l.m0 + j⟩
    return s.pushLanes vd.toNat o.fmt (gp || va.poi || o.poi) 3 one ⟨none, false, false⟩ [(va.v.toNat % 2 ^ l.e, 0)])

/-- The position of the first lane of a list that is as wanted, else the length. -/
def firstOf (want : Bool) : List Bool → Nat
  | [] => 0
  | b :: bs => if b == want then 0 else firstOf want bs + 1
/-- VMSK (R351). -/
def execVmsk (g : Guard) (x : Option Fmt) (r : VRange) (f : MskForm) (d : R5) (va : R9) (s : State) : Out :=
  .next (s.slot g [⟨.scalar, d.toNat, .i32, 3⟩] fun gp s => do
    let ra ← s.rowIn va.toNat
    need (accepts [.msk] x ra.fmt) 2 1
    let bs := (List.range (VRange.bits r)).map fun i => ra.bits.getLsbD (VRange.low r + i)
    let n := match f with
      | .count => firstOf false bs
      | .first => firstOf true bs
      | .popc => (bs.filter id).length
    return s.pushS d .i32 (gp || ra.poi) 3 (BitVec.ofNat 64 n) 0)

/-! ## Complex arithmetic and classes (R348 to R350) -/

/-- A complex value, both parts exact. -/
structure Cplx where
  re : FNum
  im : FNum
  deriving DecidableEq, Repr

/-- Complex element j of a row: lanes 2j and 2j + 1. -/
def cplxAt (md : Mod) (f : Fmt) (l : Lanes) (v : Row) (j : Nat) : Cplx :=
  ⟨laneNum md f l v (2 * j), laneNum md f l v (2 * j + 1)⟩

/-- R348: one part of a product: the real part at an even lane, the imaginary part at an odd one. -/
def cplxMulPart (r : Rnd) (a b : Cplx) (odd : Bool) : FNum × FFlags :=
  if odd then FNum.dot2 r a.re b.im a.im b.re else FNum.dot2 r a.re b.re a.im.negate b.im
/-- R348: the conjugate. -/
def Cplx.conj (a : Cplx) : Cplx := ⟨a.re, a.im.negate⟩
/-- A part. -/
def Cplx.part (a : Cplx) (odd : Bool) : FNum := if odd then a.im else a.re

/-- VCMUL (R348). -/
def execVcmul (g : Guard) (x : Prefix) (v : VCtl) (conj : Bool) (vd va vb : R9) (s : State) : Out :=
  .next (s.lanewise g x v fl3 vd va (.row vb) false 4 fun md i l ds =>
    .ok (l.each fun k =>
      let a := cplxAt md i.f l i.a (k / 2)
      let b := cplxAt md i.f l i.b (k / 2)
      wr i.f md (ds.getD k 0) (cplxMulPart md.rnd a (if conj then b.conj else b) (k % 2 == 1))))

/-- R349: one part of the two results of a butterfly over w, a and b; every part is exact. -/
def bflyPart (dif : Bool) (r : Rnd) (w a b : Cplx) (odd : Bool) : (FNum × FFlags) × (FNum × FFlags) :=
  let sum (p q : FNum × FFlags) : FNum × FFlags := let z := p.1.add r q.1; (z.1, p.2 ||| q.2 ||| z.2)
  let neg (p : FNum × FFlags) : FNum × FFlags := (p.1.negate, p.2)
  let at_ (c : Cplx) : FNum × FFlags := (c.part odd, 0)
  if dif then
    let dr := a.re.add r b.re.negate
    let di := a.im.add r b.im.negate
    let q := cplxMulPart r ⟨dr.1, di.1⟩ w odd
    (sum (at_ a) (at_ b), (q.1, dr.2 ||| di.2 ||| q.2))
  else
    let p := cplxMulPart r w b odd
    (sum (at_ a) p, sum (at_ a) (neg p))

/-- VBFLY (R349): the old vd is the twiddle; vd and vd + 1 are written. -/
def execVbfly (g : Guard) (x : Prefix) (v : VCtl) (dif : Bool) (vd va vb : R9) (s : State) : Out :=
  let md := modOf x
  let xt := Dec.xOf x
  let wf := opFmt fl3 xt (s.vecTags va (.row vb) (some vd))
  .next (s.vslot g [⟨.row, vd.toNat, wf, 5⟩, ⟨.row, vd.toNat + 1, wf, 5⟩]
      (laneDraws md v.r wf) fun ds gp s => do
    let i ← s.vecIn xt fl3 va (.row vb) (some vd) true
    let m ← s.maskIn xt v.m
    let po ← s.oldIn xt v.m vd.toNat i.f
    let pn ← s.oldIn xt v.m (vd.toNat + 1) i.f
    let l := lanesOf v.r i.f.width
    let poi := gp || i.poi || po || pn
    let part (k : Nat) : (FNum × FFlags) × (FNum × FFlags) :=
      bflyPart dif md.rnd (cplxAt md i.f l i.d (k / 2)) (cplxAt md i.f l i.a (k / 2)) (cplxAt md i.f l i.b (k / 2))
        (k % 2 == 1)
    let s := s.pushLanes vd.toNat i.f poi 5 l m (l.each fun k => wr i.f md (ds.getD k 0) (part k).1)
    return s.pushLanes (vd.toNat + 1) i.f poi 5 l m (l.each fun k => wr i.f md (ds.getD k 0) (part k).2))

/-- R350: the class bit of a float. -/
def classBit (f : Fmt) (b : Nat) : Nat :=
  match f.layout with
  | none => 0
  | some l =>
    let sub (e : Int) (m : Nat) : Bool := e + bitLen m ≤ 1 - (l.bias : Int)
    2 ^ (match f.value b with
      | .inf neg => if neg then 0 else 7
      | .nan sig => if sig then 8 else 9
      | .fin neg m e =>
        if m == 0 then if neg then 3 else 4
        else if sub e m then if neg then 2 else 5
        else if neg then 1 else 6)
/-- R350: the count of the bits below the sign bit that equal it. -/
def signBits (e b : Nat) : Nat :=
  let sign := b / 2 ^ (e - 1) % 2
  ((List.range (e - 1)).filter fun i => b / 2 ^ i % 2 == sign).length
/-- VCLS (R350). -/
def execVcls (g : Guard) (x : Option Fmt) (v : VCtl) (cls : Bool) (vd va : R9) (s : State) : Out :=
  let acc := if cls then int3 else fl3
  let rf (f : Fmt) : Fmt := if cls then f else if f == .fp32 then .i32 else .i16
  let wf := opFmt acc x (s.vecTags va .none (oldFor v false vd))
  .next (s.slot g [⟨.row, vd.toNat, rf wf, 3⟩] fun gp s => do
    let i ← s.vecIn x acc va .none (oldFor v false vd) false
    let m ← s.maskIn x v.m
    let po ← s.oldIn x v.m vd.toNat (rf i.f)
    let l := lanesOf v.r i.f.width
    let vs := l.each fun k => (if cls then signBits l.e (l.lane i.a k) else classBit i.f (l.lane i.a k), 0)
    return s.pushLanes vd.toNat (rf i.f) (gp || i.poi || po) 3 l m vs)

end Sys2Proof.Machine
end

