-- ==== Sys2Proof/Machine/Fold.lean ====
section
/-! DEFINITION. The operators that fold rows and elements between tiles and modules (R220, R228), and left and right folds
of possibly empty terms (R221). -/

namespace Sys2Proof.Machine

/-- R220: the formats an operator accepts; none for any tag. -/
def sweepFmts : SweepOp → Option (List Fmt)
  | .fadd | .fmul | .fmax | .fmin => some fl3
  | .maxi | .mini => some [.vix]
  | .iadd => some int3
  | .and | .or | .xor => none

/-- An exact value written in a format, RNE, subnormals honoured, NaN canonical (R220). -/
def plainBits (f : Fmt) (x : FNum) : Nat := (f.write Mod.plain 0 (exactly x)).1

/-- R220: one operation on two elements of a format. -/
def foldElem (o : SweepOp) (f : Fmt) (a b : Nat) : Nat :=
  match o with
  | .fadd => plainBits f ((f.value a).add .rne (f.value b)).1
  | .fmul => plainBits f ((f.value a).mul (f.value b)).1
  | .fmax => plainBits f ((f.value a).pick true (f.value b)).1
  | .fmin => plainBits f ((f.value a).pick false (f.value b)).1
  | .maxi => pickVix true a b
  | .mini => pickVix false a b
  | .iadd => (a + b) % 2 ^ f.width
  | .and => a &&& b
  | .or => a ||| b
  | .xor => a ^^^ b

/-- R234, R256: an element that a fold of one term writes: a NaN canonical. -/
def foldOne (o : SweepOp) (f : Fmt) (a : Nat) : Nat :=
  match o with
  | .fadd | .fmul | .fmax | .fmin => if (f.value a).isNaN then plainBits f (.nan false) else a
  | .maxi => pickVix true a a
  | .mini => pickVix false a a
  | .iadd => a
  | .and => a
  | .or => a
  | .xor => a

/-- R220: the identity of an operator at a format, one element. -/
def foldIdentity (o : SweepOp) (f : Fmt) : Nat :=
  match o with
  | .fadd => plainBits f (.fin true 0 0)
  | .fmul => plainBits f (.fin false 1 0)
  | .fmax => plainBits f (.inf true)
  | .fmin => plainBits f (.inf false)
  | .maxi => plainBits .fp32 (.inf true) + 2 ^ 32 * 0xFFFFFFFF
  | .mini => plainBits .fp32 (.inf false) + 2 ^ 32 * 0xFFFFFFFF
  | .iadd => 0
  | .and => 2 ^ f.width - 1
  | .or => 0
  | .xor => 0

/-- The lanes of a whole row at a width. -/
def wholeRow (e : Nat) : Lanes := ⟨0, e, 1024 / e, 0⟩
/-- R220: one operation on two rows, lane by lane across the whole row. -/
def foldRow (o : SweepOp) (f : Fmt) (a b : Row) : Row :=
  let g := wholeRow f.width
  g.pack (g.each fun i => foldElem o f (g.lane a i) (g.lane b i))
/-- R234: a row as a fold takes it, lane by lane: alone it is what the fold writes. -/
def soleRow (o : SweepOp) (f : Fmt) (a : Row) : Row :=
  let g := wholeRow f.width
  g.pack (g.each fun i => foldOne o f (g.lane a i))
/-- The identity in every lane of a row. -/
def identityRow (o : SweepOp) (f : Fmt) : Row :=
  let g := wholeRow f.width
  g.pack (g.each fun _ => foldIdentity o f)

/-- R221: the left fold of the terms that are not empty. -/
def leftFold {α : Type} (f : α → α → α) : List (Option α) → Option α
  | [] => none
  | none :: xs => leftFold f xs
  | some a :: xs =>
    some (xs.foldl (fun acc x => match x with | some b => f acc b | none => acc) a)
/-- R221: the right fold of the terms that are not empty. -/
def rightFold {α : Type} (f : α → α → α) : List (Option α) → Option α
  | [] => none
  | none :: xs => rightFold f xs
  | some a :: xs => match rightFold f xs with
    | some b => some (f a b)
    | none => some a

end Sys2Proof.Machine
end

