-- ==== Sys2Proof/Machine/Sm3.lean ====
section
/-! DEFINITION. The SM3 hash that measures objects (R34, R127), PRESUMED to be that of GB/T 32905, SM2 signatures of receipts
(R131), PRESUMED to be those of GB/T 32918, and extension (R127). -/

namespace Sys2Proof.Machine

/-- The permutation of the compression function. -/
def sm3P0 (x : W32) : W32 := x ^^^ x.rotateLeft 9 ^^^ x.rotateLeft 17
/-- The permutation of the message expansion. -/
def sm3P1 (x : W32) : W32 := x ^^^ x.rotateLeft 15 ^^^ x.rotateLeft 23
/-- The constant of round j. -/
def sm3T (j : Nat) : W32 := if j < 16 then 0x79CC4519 else 0x7A879D8A
/-- The first Boolean function of round j. -/
def sm3FF (j : Nat) (x y z : W32) : W32 := if j < 16 then x ^^^ y ^^^ z else (x &&& y) ||| (x &&& z) ||| (y &&& z)
/-- The second Boolean function of round j. -/
def sm3GG (j : Nat) (x y z : W32) : W32 := if j < 16 then x ^^^ y ^^^ z else (x &&& y) ||| (~~~x &&& z)

/-- The message words, in reverse order, extended by n. -/
def sm3Expand : Nat → List W32 → List W32
  | 0, ws => ws
  | n + 1, ws =>
    let at_ (i : Nat) : W32 := ws.getD (i - 1) 0
    sm3Expand n ((sm3P1 (at_ 16 ^^^ at_ 9 ^^^ (at_ 3).rotateLeft 15) ^^^ (at_ 13).rotateLeft 7 ^^^ at_ 6) :: ws)

/-- The eight words of the state. -/
abbrev Sm3State := List W32

/-- One round: W_j and W_{j+4}. -/
def sm3Round (v : Sm3State) (j : Nat) (w w4 : W32) : Sm3State :=
  match v with
  | [a, b, c, d, e, f, g, h] =>
    let ss1 := (a.rotateLeft 12 + e + (sm3T j).rotateLeft (j % 32)).rotateLeft 7
    let ss2 := ss1 ^^^ a.rotateLeft 12
    let t1 := sm3FF j a b c + d + ss2 + (w ^^^ w4)
    let t2 := sm3GG j e f g + h + ss1 + w
    [t1, a, b.rotateLeft 9, c, sm3P0 t2, e, f.rotateLeft 19, g]
  | _ => v

/-- A big-endian word of four bytes. -/
def beWord (bs : List Byte) : W32 := BitVec.ofNat 32 (ofBytes (bs.take 4).reverse)
/-- The words of a block. -/
def beWords : Nat → List Byte → List W32
  | 0, _ => []
  | n + 1, bs => beWord bs :: beWords n (bs.drop 4)

/-- One block of 64 bytes. -/
def sm3Block (v : Sm3State) (block : List Byte) : Sm3State :=
  let ws := (sm3Expand 52 (beWords 16 block).reverse).reverse
  let r := (List.range 64).foldl (fun s j => sm3Round s j (ws.getD j 0) (ws.getD (j + 4) 0)) v
  (r.zip v).map fun p => p.1 ^^^ p.2

/-- The blocks of a padded message. -/
def sm3Blocks : Nat → Sm3State → List Byte → Sm3State
  | 0, v, _ => v
  | n + 1, v, bs => sm3Blocks n (sm3Block v (bs.take 64)) (bs.drop 64)

/-- SM3 of a byte string: byte 0 is the most significant of the digest. -/
def sm3 (bs : List Byte) : List Byte :=
  let n := bs.length
  let zeros := (119 - n % 64) % 64
  let msg := bs ++ [0x80#8] ++ List.replicate zeros 0#8 ++ (bytesOf 8 (8 * n)).reverse
  let v := sm3Blocks (msg.length / 64)
    [0x7380166F, 0x4914B2B9, 0x172442D7, 0xDA8A0600, 0xA96F30BC, 0x163138AA, 0xE38DEE4D, 0xB0FB0E4E] msg
  v.flatMap fun w => (bytesOf 4 w.toNat).reverse

/-- A digest held with byte 0 lowest. -/
def digestOf (bs : List Byte) : BitVec 256 := BitVec.ofNat 256 (ofBytes (sm3 bs))
/-- The 32 bytes of a digest. -/
def digestBytes (d : BitVec 256) : List Byte := bytesOf 32 d.toNat

/-- A keyed digest: HMAC over SM3 (PRESUMED, log 52). -/
def hmacSm3 (key msg : List Byte) : List Byte :=
  let k := key ++ List.replicate (64 - key.length) 0#8
  sm3 (k.map (· ^^^ 0x5C#8) ++ sm3 (k.map (· ^^^ 0x36#8) ++ msg))
/-- R121, R176: the 64-bit keyed truncation of SM3, byte 0 lowest. -/
def keyTag (key : BitVec 256) (msg : List Byte) : W64 := BitVec.ofNat 64 (ofBytes ((hmacSm3 (digestBytes key) msg).take 8))

/-! ## SM2 signatures (R131, R126), PRESUMED to be those of GB/T 32918 on its recommended curve (log 52) -/

/-- The prime of the field. -/
def sm2P : Nat := 0xFFFFFFFEFFFFFFFFFFFFFFFFFFFFFFFFFFFFFFFF00000000FFFFFFFFFFFFFFFF
/-- The coefficients of the curve. -/
def sm2A : Nat := 0xFFFFFFFEFFFFFFFFFFFFFFFFFFFFFFFFFFFFFFFF00000000FFFFFFFFFFFFFFFC
/-- The coefficients of the curve. -/
def sm2B : Nat := 0x28E9FA9E9D9F5E344D5A9E4BCF6509A7F39789F515AB8F92DDBCBD414D940E93
/-- The base point. -/
def sm2G : Nat × Nat :=
  (0x32C4AE2C1F1981195F9904466A39C9948FE30BBFF2660BE1715A4589334C74C7,
    0xBC3736A2F4F6779C59BDCEE36B692153D0A9877CC62A474002DF32E52139F0A0)
/-- The order of the base point. -/
def sm2N : Nat := 0xFFFFFFFEFFFFFFFFFFFFFFFFFFFFFFFF7203DF6B21C6052B53BBF40939D54123

/-- A power modulo m, for exponents of at most `fuel` bits. -/
def powMod (m : Nat) : Nat → Nat → Nat → Nat
  | 0, _, _ => 1 % m
  | fuel + 1, b, e =>
    let h := powMod m fuel (b * b % m) (e / 2)
    if e % 2 = 1 then b * h % m else h
/-- The inverse modulo a prime of 256 bits. -/
def invMod (m a : Nat) : Nat := powMod m 256 (a % m) (m - 2)
/-- A difference modulo m. -/
def subMod (m a b : Nat) : Nat := (a + (m - b % m)) % m
/-- A point of the curve, or the point at infinity. -/
abbrev Point := Option (Nat × Nat)
/-- The point on a line of slope `l` through two points. -/
def sm2Third (l : Nat) (a b : Nat × Nat) : Point :=
  let x := subMod sm2P (subMod sm2P (l * l) a.1) b.1
  some (x, subMod sm2P (l * subMod sm2P a.1 x) a.2)
/-- The sum of two points. -/
def sm2Add : Point → Point → Point
  | none, q => q
  | some a, none => some a
  | some a, some b =>
    if a.1 != b.1 then sm2Third (subMod sm2P b.2 a.2 * invMod sm2P (subMod sm2P b.1 a.1) % sm2P) a b
    else if (a.2 + b.2) % sm2P = 0 then none
    else sm2Third ((3 * a.1 * a.1 + sm2A) * invMod sm2P (2 * a.2) % sm2P) a b
/-- A multiple of a point, by a number of at most `fuel` bits. -/
def sm2Mul : Nat → Nat → Point → Point
  | 0, _, _ => none
  | fuel + 1, k, q =>
    let h := sm2Mul fuel (k / 2) (sm2Add q q)
    if k % 2 = 1 then sm2Add q h else h
/-- A number of 256 bits, most significant byte first. -/
def sm2Bytes (v : Nat) : List Byte := (bytesOf 32 v).reverse
/-- R126: the private key: a number from 1 to n - 2. -/
def sm2Secret : Nat := Config.deviceKey % (sm2N - 2) + 1
/-- The public key of a private key, as x ‖ y. -/
def sm2Public (d : Nat) : List Byte :=
  match sm2Mul 256 d (some sm2G) with
  | some q => sm2Bytes q.1 ++ sm2Bytes q.2
  | none => sm2Bytes 0 ++ sm2Bytes 0
/-- R131: r and s of a digest `e` with a private key and a nonce, if that nonce gives a signature. -/
def sm2Try (d e k : Nat) : Option (Nat × Nat) :=
  match sm2Mul 256 k (some sm2G) with
  | none => none
  | some q =>
    let r := (e + q.1) % sm2N
    let s := invMod sm2N (1 + d) * subMod sm2N k (r * d) % sm2N
    if r = 0 || r + k = sm2N || s = 0 then none else some (r, s)
/-- R131: the signature of a digest with the first nonce of some that gives one. -/
def sm2Sign (d e : Nat) (ks : List Nat) : Nat × Nat := (ks.findSome? (sm2Try d e)).getD (0, 0)
/-- R126: byte k of the device identity block: the public key stands in it, as x ‖ y. -/
def identityAt (k : Nat) : Byte :=
  if Config.keyOffset ≤ k && k < Config.keyOffset + 64 then (sm2Public sm2Secret).getD (k - Config.keyOffset) 0
  else Config.identityByte k
/-- R131: Z of a public key: the hash of ENTL, the default user identity, the curve's constants and the key. -/
def sm2Z (key : List Byte) : List Byte :=
  sm3 ([0x00#8, 0x80#8] ++ [0x31#8, 0x32#8, 0x33#8, 0x34#8, 0x35#8, 0x36#8, 0x37#8, 0x38#8, 0x31#8, 0x32#8, 0x33#8, 0x34#8, 0x35#8,
      0x36#8, 0x37#8, 0x38#8] ++
    sm2Bytes sm2A ++ sm2Bytes sm2B ++ sm2Bytes sm2G.1 ++ sm2Bytes sm2G.2 ++ key)
/-- R131: the signature over bytes 0 to 191 of a receipt: r ‖ s, big-endian, over SM3(Z ‖ bytes), with a nonce that is free
(log 6); the tries are 256. -/
def receiptSig (bytes : BitVec 1536) : BitVec 512 :=
  let dig := sm3 (sm2Z (sm2Public sm2Secret) ++ bytesOf 192 bytes.toNat)
  let e := ofBytes dig.reverse
  let r := sm2Sign sm2Secret e ((List.range 256).map fun i => Config.sm2Nonce (BitVec.ofNat 256 e) i % (sm2N - 1) + 1)
  BitVec.ofNat 512 (ofBytes (sm2Bytes r.1 ++ sm2Bytes r.2))

/-- R127: a value extended by an object of a kind. -/
def extendBy (c : BitVec 256) (kind : Nat) (object : List Byte) : BitVec 256 :=
  digestOf (digestBytes c ++ [BitVec.ofNat 8 kind] ++ bytesOf 8 object.length ++ sm3 object)

end Sys2Proof.Machine
end

