-- ==== Sys2Proof/Machine/Sequencer.lean ====
section
/-! DEFINITION. The collective sequencers (R225 to R231), their frames (R60 to R62) and barriers between modules
(R232). -/

namespace Sys2Proof.Machine

/-! ## The sequencer spaces (R225) -/

/-- R225: the entry a physical address falls in, 4096 times the chiplet plus the index, and the byte in it. -/
def seqKey (pa : Nat) : Option (Nat × Nat) :=
  let o := pa - seqBase
  let r := o % 0x100000
  if r < 0x40000 then some (4096 * (o / 0x100000) + r / 64, r % 64) else none
/-- R232: the byte of the group table of Y8 an address names. -/
def groupByte (pa : Nat) : Option Nat :=
  let b := seqBase + 8 * 0x100000 + 0x40000
  if b ≤ pa && pa < b + 1536 then some (pa - b) else none

/-- The entry of a key. -/
def State.entry (s : State) (key : Nat) : BitVec 512 := sget 0 s.seqEntries key
/-- The machine with an entry. -/
def State.setEntry (s : State) (key : Nat) (e : BitVec 512) : State := { s with seqEntries := sset 0 s.seqEntries key e }
/-- n bytes at offset o of an entry. -/
def entField (e : BitVec 512) (o n : Nat) : Nat := e.toNat / 2 ^ (8 * o) % 2 ^ (8 * n)
/-- An entry with byte o replaced. -/
def entSet (e : BitVec 512) (o : Nat) (b : Byte) : BitVec 512 :=
  (e &&& ~~~((255#8).setWidth 512 <<< (8 * o))) ||| (b.setWidth 512 <<< (8 * o))
/-- R226: BUSY. -/
def entBusy (e : BitVec 512) : Bool := e.getLsbD 153
/-- R226: the owner, where OWNV is set. -/
def entOwner (e : BitVec 512) : Option Nat := if e.getLsbD 169 then some (entField e 20 2 % 512) else none
/-- R226: RESULT, BUSY and READY set together. -/
def entState (e : BitVec 512) (result : Nat) (busy ready : Bool) : BitVec 512 :=
  entSet e 19 (BitVec.ofNat 8 (4 * result + 2 * busy.toNat + ready.toNat))

/-- R225: a byte of a sequencer space; a byte in which the spec puts nothing is a free value (DEDUCED, log 44). -/
def State.seqByte (s : State) (pa : Nat) : Byte :=
  match seqKey pa with
  | some (k, o) => BitVec.ofNat 8 (entField (s.entry k) o 1)
  | none =>
    match groupByte pa with
    | some o => sget 0 s.groupTab o
    | none => (Config.freeValue (2 ^ 64 + pa)).setWidth 8
/-- R225: n bytes of a sequencer space. -/
def State.seqRead (s : State) (pa n : Nat) : List Byte := (List.range n).map fun i => s.seqByte (pa + i)

/-- R137, R232: MGRP is writable, so the group table is. -/
def State.groupsOpen (s : State) (p : Nat) : Bool :=
  match s.part p with
  | some q => q.run.isNone && q.next.isNone && q.stab.isNone
  | none => false

/-- R226: one byte written to a sequencer space for a partition: whether it is dropped under the OWNER rule, and the
machine after it. A write to a running entry, and to READY, RESULT, BUSY, OWNER or OWNV, changes nothing. -/
def State.seqPut (s : State) (p pa : Nat) (b : Byte) : Bool × State :=
  match seqKey pa with
  | some (k, o) =>
    let e := s.entry k
    if entOwner e != some p then (true, s)
    else if entBusy e || o = 19 || o = 20 || o = 21 then (false, s)
    else (false, s.setEntry k (entSet e o b))
  | none =>
    match groupByte pa with
    | some o => if s.groupsOpen p then (false, { s with groupTab := sset 0 s.groupTab o b }) else (true, s)
    | none => (true, s)

/-- R225, R226: an address is the READY byte of an entry of Y0 to Y7, whose every fire is refused. -/
def refusesFire (pa : Nat) : Bool :=
  match seqKey pa with
  | some (k, o) => k / 4096 < 8 && o == 19
  | none => false
/-- R226, R56: bytes written; a dropped write counts once in DROPCNT of a port, and is reported (DEDUCED, log 43). -/
def State.seqWriteFrom (s : State) (p pa : Nat) : List Byte → Bool × State
  | [] => (false, s)
  | b :: bs =>
    let r := s.seqPut p pa b
    let q := r.2.seqWriteFrom p (pa + 1) bs
    (r.1 || q.1, q.2)
/-- R56: a write dropped at a port: counted and reported (DEDUCED, log 43). -/
def State.dropWrite (s : State) (n : Nat) : State :=
  (s.modPort n fun p => { p with dropcnt := (satInc (p.dropcnt.setWidth 32)).setWidth 64 }).note 0x09 n 0
/-- R225, R226: bytes that the host writes: a fire of an entry that refuses every fire is not a write that its owner must make. -/
def State.hostSeqWrite (s : State) (p pa : Nat) : List Byte → Bool × State
  | [] => (false, s)
  | b :: bs =>
    let r := if refusesFire pa && b.getLsbD 0 then (false, s) else s.seqPut p pa b
    let q := r.2.hostSeqWrite p (pa + 1) bs
    (r.1 || q.1, q.2)
/-- R226: a GST to a sequencer space; a drop counts at the partition's control port (DEDUCED, log 43). -/
def State.seqStore (s : State) (p pa : Nat) (bs : List Byte) : State :=
  let r := s.seqWriteFrom p pa bs
  if r.1 then r.2.dropWrite (match s.part p with | some q => q.ctl.toNat | none => 0) else r.2

/-! ## Frames (R60) -/

/-- n bytes at offset o of a frame header, network byte order. -/
def fField (f : Frame) (o n : Nat) : Nat := f.hdr.toNat / 2 ^ (8 * (24 - o - n)) % 2 ^ (8 * n)
/-- R60: a header from its fields: offset, bytes, value. -/
def header (fs : List (Nat × Nat × Nat)) : BitVec 192 :=
  BitVec.ofNat 192 (fs.foldl (fun r f => r + f.2.2 % 2 ^ (8 * f.2.1) * 2 ^ (8 * (24 - f.1 - f.2.1))) 0)
/-- R60: a frame of a kind (DEDUCED, log 44). -/
def mkFrame (kind fmt lvl kc hop smod dmod tidx chunk nel : Nat) (payload : List Byte) : Frame :=
  ⟨0, 0, some 0xA000, 0x88B5, header [(0, 1, 16 + kind), (1, 1, 16 * fmt + lvl), (2, 1, 32 * kc), (3, 1, hop), (4, 2, smod), (6, 2, dmod),
    (8, 2, tidx), (10, 2, payload.length), (12, 4, chunk), (16, 4, nel)], payload, 0⟩
/-- KIND. -/
def fKind (f : Frame) : Nat := (fField f 0 1) % 16
/-- LVL. -/
def fLvl (f : Frame) : Nat := (fField f 1 1) % 16
/-- HOP. -/
def fHop (f : Frame) : Nat := (fField f 3 1)
/-- TIDX. -/
def fTidx (f : Frame) : Nat := (fField f 8 2)
/-- CHUNK. -/
def fChunk (f : Frame) : Nat := (fField f 12 4)
/-- R60: the format codes a frame may carry. -/
def frameFmt (c : Nat) : Option Fmt :=
  match c with
  | 3 => some .i32
  | 4 => some .fp32
  | 5 => some .bf16
  | 6 => some .fp16
  | 13 => some .vix
  | _ => none
/-- R229: the elements a top-k code keeps of each block of 64. -/
def keptOf (kc : Nat) : Nat :=
  match kc with
  | 1 => 4
  | 2 => 8
  | 3 => 16
  | 4 => 32
  | _ => 0

/-- n bytes of a number, the highest first. -/
def netBytes (n v : Nat) : List Byte := (bytesOf n v).reverse
/-- The bytes of a frame up to its FCS, in the order of R60. -/
def frameBytes (f : Frame) : List Byte :=
  netBytes 6 f.dst.toNat ++ netBytes 6 f.src.toNat ++ (match f.tag with | some t => netBytes 2 0x8100 ++ netBytes 2 t.toNat | none => []) ++
    netBytes 2 f.etype.toNat ++ netBytes 24 f.hdr.toNat ++ f.payload
/-- n steps of the CRC-32 of IEEE 802.3 (PRESUMED, log 44). -/
def crc32Bits : Nat → W32 → W32
  | 0, c => c
  | n + 1, c => crc32Bits n (if c.getLsbD 0 then (c >>> 1) ^^^ 0xEDB88320#32 else c >>> 1)
/-- The FCS of a frame (PRESUMED, log 44). -/
def frameCheck (f : Frame) : W32 := ~~~((frameBytes f).foldl (fun c b => crc32Bits 8 (c ^^^ b.setWidth 32)) (BitVec.allOnes 32))
/-- R59: the MAC address of an Ethernet port, from the device identity block, highest byte first (DESIGN CHOICE, log 44). -/
def portMac (port : Nat) : BitVec 48 :=
  BitVec.ofNat 48 ((List.range 6).foldl (fun v i => 256 * v + (identityAt (Config.macOffset + 6 * port + i)).toNat) 0)
/-- R60: a frame as it leaves a port, with its addresses and its FCS. -/
def frameSealed (f : Frame) (port : Nat) : Frame :=
  let f := { f with src := portMac port, dst := Config.peerMac (fField f 6 2) port }
  { f with fcs := frameCheck f }
/-- The machine with a frame sent through an Ethernet port. -/
def State.sendFrame (s : State) (port : Nat) (f : Frame) : State := { s with ethOut := s.ethOut ++ [(port, frameSealed f port)] }
/-- R60: a frame dropped and counted. -/
def State.dropFrame (s : State) : State := { s with ethDrops := s.ethDrops + 1 }

/-- R60: what stands around the header: the EtherType, the priority of a tag, the FCS (DEDUCED, log 44). Neither MAC address is
looked at: R60 gives them no fate of their own, so a frame for another port's address is taken too (DESIGN CHOICE, log 44). -/
def frameLinkOk (f : Frame) : Bool := f.etype == 0x88B5 && f.tag.all (fun t => t.toNat / 2 ^ 13 == 5) && f.fcs == frameCheck f
/-- R60: a frame for this module breaks no rule; `limit` is its greatest HOP (DEDUCED, log 44). -/
def State.frameOk (s : State) (f : Frame) (kind limit : Nat) : Bool :=
  frameLinkOk f && (fField f 0 1) / 16 == 1 && (fKind f) == kind && (frameFmt ((fField f 1 1) / 16)).isSome && (fLvl f) ≤ 3 &&
    ((fLvl f) == 0 || (fTidx f) == 0xFFF) && (fField f 2 1) % 32 == 0 && (fField f 2 1) / 32 ≤ 4 && (fHop f) ≤ limit &&
    (fField f 6 2) == s.modid.toNat && (fTidx f) < (if kind = 2 then 2 ^ 15 else 2 ^ 12) &&
    (fField f 10 2) == f.payload.length && f.payload.length ≤ 8704 && (fField f 20 4) == 0

/-! ## Entries (R226) -/

/-- R226: the fields of an entry a run uses. -/
structure Ent where
  n : Nat
  peers : List Nat
  fmt : Fmt
  op : Nat
  cv : Bool
  kc : Nat
  laddr : Nat
  raddr : Nat
  nelem : Nat
  saddr : Nat
  deriving DecidableEq, Repr

/-- The fields of an entry. -/
def Ent.of (e : BitVec 512) : Ent :=
  let n := entField e 16 1 % 16
  ⟨n, (List.range n).map fun i => entField e (2 * i) 2, (frameFmt (entField e 17 1 / 16)).getD .raw, entField e 17 1 % 16,
    e.getLsbD 147, entField e 18 1 % 8, entField e 24 8, entField e 32 8, entField e 40 4, entField e 48 8⟩

/-- R228: the operator accepts the format. -/
def seqAccepts (op : Nat) (f : Fmt) : Bool := if op = 7 || op = 8 then f == .vix else f != .vix
/-- R226: no condition refuses the fire. -/
def State.fireOk (s : State) (key : Nat) (e : BitVec 512) : Bool :=
  let x := Ent.of e
  8 ≤ key / 4096 && key / 4096 ≤ 27 && entField e 16 1 / 16 == 0 && 2 ≤ x.n && x.n ≤ 8 &&
    (x.peers.filter (· == s.modid.toNat)).length == 1 && (frameFmt (entField e 17 1 / 16)).isSome && x.op ≤ 8 &&
    seqAccepts x.op x.fmt && entField e 18 1 / 16 == 0 && !(x.cv && (x.kc != 0 || x.raddr == x.laddr)) && x.kc ≤ 4 &&
    (x.kc == 0 || (x.op == 0 && x.fmt.isFloat3)) && entField e 22 2 == 0 && x.laddr % 16 == 0 && x.raddr % 16 == 0 &&
    1 ≤ x.nelem && x.nelem ≤ 2 ^ 28 && (x.kc == 0 || x.nelem % 64 == 0) && entField e 44 4 == 0 && x.saddr % 8 == 0 &&
    entField e 56 8 == 0

/-- R228: one operation on two elements. -/
def seqElem (op : Nat) (f : Fmt) (a b : Nat) : Nat :=
  let sgn (v : Nat) : Int := toSigned 32 v
  match op, f with
  | 0, .i32 => foldElem .iadd .i32 a b
  | 0, _ => foldElem .fadd f a b
  | 1, .i32 => if sgn a < sgn b then b else a
  | 1, _ => foldElem .fmax f a b
  | 2, .i32 => if sgn b < sgn a then b else a
  | 2, _ => foldElem .fmin f a b
  | 3, .i32 => (a * b) % 2 ^ 32
  | 3, _ => foldElem .fmul f a b
  | 4, _ => foldElem .and f a b
  | 5, _ => foldElem .or f a b
  | 6, _ => foldElem .xor f a b
  | 7, _ => foldElem .maxi f a b
  | _, _ => foldElem .mini f a b

/-- R228, R234: an element that an operation on one term writes: a NaN canonical. -/
def seqOne (op : Nat) (f : Fmt) (a : Nat) : Nat :=
  if op = 7 then foldOne .maxi f a else if op = 8 then foldOne .mini f a
  else if 4 ≤ op || f == .i32 then a else foldOne .fadd f a
/-- The bytes of an element of a frame format. -/
def elemBytes (f : Fmt) : Nat := f.width / 8
/-- The elements of a byte string. -/
def elemsOf (f : Fmt) (bs : List Byte) : List Nat :=
  (List.range (bs.length / elemBytes f)).map fun i => ofBytes ((bs.drop (i * elemBytes f)).take (elemBytes f))
/-- A byte string of elements. -/
def bytesOfElems (f : Fmt) (es : List Nat) : List Byte := es.flatMap fun e => bytesOf (elemBytes f) e
/-- R228: one operation on two chunks, element by element. -/
def seqFold (op : Nat) (f : Fmt) (a b : List Byte) : List Byte :=
  bytesOfElems f (List.zipWith (seqElem op f) (elemsOf f a) (elemsOf f b))

/-- R234: what a fold of one chunk writes. -/
def seqSole (op : Nat) (f : Fmt) (a : List Byte) : List Byte := bytesOfElems f ((elemsOf f a).map (seqOne op f))

/-- R228, R61: the bytes of chunk k, all of them and their count. -/
def Ent.chunkLen (x : Ent) (k : Nat) : Nat := Nat.min 8192 (x.nelem * elemBytes x.fmt - 8192 * k)
/-- R228: the number of chunks. -/
def Ent.chunks (x : Ent) : Nat := (x.nelem * elemBytes x.fmt + 8191) / 8192

/-! ## Top-k compression (R229) -/

/-- R229: element b beats element a in the choice: a larger magnitude, a NaN the largest; a tie stays with the lower
index. -/
def beats (f : Fmt) (a b : Nat) : Bool :=
  let x := f.value a
  let y := f.value b
  let ab (v : FNum) : FNum := if v.sign then v.negate else v
  match x.isNaN, y.isNaN with
  | true, _ => false
  | false, true => true
  | false, false => (ab x).compare? (ab y) == some .lt
/-- The index of the element of a block to keep next, among those not kept yet. -/
def bestOf (f : Fmt) (es : List Nat) (kept : List Nat) : Option Nat :=
  (List.range es.length).foldl (fun best i =>
    if kept.contains i then best
    else match best with
      | none => some i
      | some j => if beats f (es.getD j 0) (es.getD i 0) then some i else some j) none
/-- R229: the indices of the k elements kept of a block. -/
def topK (f : Fmt) (es : List Nat) : Nat → List Nat
  | 0 => []
  | n + 1 =>
    let kept := topK f es n
    match bestOf f es kept with
    | some i => i :: kept
    | none => kept
/-- A list cut into blocks of n. -/
def blocksOf {α : Type} (n : Nat) (xs : List α) : Nat → List (List α)
  | 0 => []
  | fuel + 1 => if xs.isEmpty then [] else xs.take n :: blocksOf n (xs.drop n) fuel
/-- R61, R229: a block as its record: the mask, then the kept values in ascending index order. -/
def packBlock (f : Fmt) (k : Nat) (es : List Nat) : List Byte :=
  let kept := topK f es k
  let idx := (List.range 64).filter fun i => kept.contains i
  bytesOf 8 (idx.foldl (fun m i => m + 2 ^ i) 0) ++ idx.flatMap fun i => bytesOf (elemBytes f) (es.getD i 0)
/-- R61: the payload of a chunk. -/
def payloadOf (x : Ent) (bs : List Byte) : List Byte :=
  if x.kc = 0 then bs
  else (blocksOf 64 (elemsOf x.fmt bs) bs.length).flatMap (packBlock x.fmt (keptOf x.kc))
/-- R61: the records of a compressed payload: the selected elements of each block, by index. -/
def records (f : Fmt) (k : Nat) (bs : List Byte) : Nat → List (List (Option Nat))
  | 0 => []
  | fuel + 1 =>
    if bs.isEmpty then []
    else
      let m := ofBytes (bs.take 8)
      let idx := (List.range 64).filter fun i => m.testBit i
      let vs := elemsOf f ((bs.drop 8).take (k * elemBytes f))
      ((List.range 64).map fun i => (idx.idxOf? i).map fun j => vs.getD j 0) ::
        records f k (bs.drop (8 + k * elemBytes f)) fuel
/-- R61: a payload is NEL elements, or one record for each block of 64 (DESIGN CHOICE, log 44). -/
def nelOk (fmt : Fmt) (kc nel len : Nat) : Bool :=
  if kc = 0 then len == nel * elemBytes fmt else nel % 64 == 0 && len == nel / 64 * (8 + keptOf kc * elemBytes fmt)
/-- R61: every mask has exactly k bits set. -/
def masksOk (f : Fmt) (k : Nat) (bs : List Byte) : Bool :=
  (records f k bs bs.length).all fun r => (r.filter Option.isSome).length == k
/-- R229: an expanded chunk: the selected elements, +0.0 elsewhere. -/
def expand (x : Ent) (payload : List Byte) : List Byte :=
  if x.kc = 0 then payload
  else bytesOfElems x.fmt (((records x.fmt (keptOf x.kc) payload payload.length).flatten).map fun e => e.getD 0)
/-- R228, R229: what a position of the reduce phase makes of a payload and its own chunk. -/
def combine (x : Ent) (payload own : List Byte) : List Byte :=
  if x.kc = 0 then seqFold x.op x.fmt payload own
  else
    let rs := (records x.fmt (keptOf x.kc) payload payload.length).flatten
    bytesOfElems x.fmt (List.zipWith (fun r o => match r with | some v => seqElem x.op x.fmt v o | none => seqOne x.op x.fmt o) rs
      (elemsOf x.fmt own))

/-! ## Running an entry (R228, R231) -/

/-- R226: bytes read through the owner's region table; none where a region or right is missing or a word is poisoned
(R230). -/
def State.ownerRead (s : State) (p va n : Nat) : Option (List Byte) :=
  match s.part p with
  | none => none
  | some q =>
    match checkRegion q.bank.regions .r va n with
    | .ok pa => if poisonRead s.devPoi pa n then none else some (Memory.reads s.dev pa n)
    | .error _ => none
/-- R226: bytes written through the owner's region table; nothing where no region admits it. -/
def State.ownerWrite (s : State) (p va : Nat) (bs : List Byte) : State :=
  match s.part p with
  | none => s
  | some q =>
    match checkRegion q.bank.regions .w va bs.length with
    | .ok pa => s.writeDev pa bs false
    | .error _ => s

/-- The run of an entry. -/
def State.run? (s : State) (key : Nat) : Option SeqRun := sget none s.seqRuns key
/-- The machine with a run. -/
def State.setRun (s : State) (key : Nat) (r : SeqRun) : State := { s with seqRuns := sset none s.seqRuns key (some r) }
/-- R60, R225: the Ethernet port of a yard chiplet. -/
def seqPort (key : Nat) : Nat := key / 4096 - 8
/-- R62: the cycles of 64 us. -/
def ackCycles : Nat := 153600

/-- R228, R62: a chunk sent to a position of the ring, and held until it is acknowledged. -/
def State.sendChunk (s : State) (key k hop dst : Nat) (bs : List Byte) : State :=
  let x := Ent.of (s.entry key)
  match s.run? key with
  | none => s
  | some r =>
    let peer := x.peers.getD (dst % x.n) 0
    let fmt := (entField (s.entry key) 17 1) / 16
    let f := mkFrame 0 fmt 0 x.kc hop s.modid.toNat peer (key % 4096) k (x.chunkLen k / elemBytes x.fmt) (payloadOf x bs)
    let s := s.setRun key { r with sent := r.sent ++ [⟨k, hop, BitVec.ofNat 16 peer, f, 0, s.gcyc, false⟩] }
    (s.sendFrame (seqPort key) f).at_ (s.gcyc + ackCycles) (.retransmitTimeout key k hop)

/-- R230: every chunk is written at this module. -/
def SeqRun.isDone (r : SeqRun) : Bool := (List.range r.chunks).all fun j => sget 0 r.status j == 2
/-- R230: a run that is over, or has every chunk done, no longer aborts. -/
def SeqRun.settled (r : SeqRun) : Bool := r.aborted || r.ended || r.isDone

/-- R230, R62: an entry aborts: every peer is told, and the entry ends (DEDUCED, log 44). -/
def State.abortEntry (s : State) (key : Nat) : State :=
  match s.run? key with
  | none => s
  | some r =>
    if r.settled then s
    else
      let x := Ent.of (s.entry key)
      let fmt := (entField (s.entry key) 17 1) / 16
      let s := s.setRun key { r with aborted := true }
      let s := (x.peers.filter (· != s.modid.toNat)).foldl (fun s p =>
        s.sendFrame (seqPort key) (mkFrame 3 fmt 0 0 0 s.modid.toNat p (key % 4096) 0 0 [])) s
      s.soon (.seqEntryEnd key)

/-- R230: the status of a chunk; an entry that has every chunk DONE ends. -/
def State.setChunk (s : State) (key k code : Nat) : State :=
  match s.run? key with
  | none => s
  | some r =>
    let u := { r with status := sset 0 r.status k code }
    let s := s.setRun key u
    if u.isDone && !r.isDone then s.soon (.seqEntryEnd key) else s

/-- A chunk written at RADDR with its status. -/
def State.putChunk (s : State) (key k code : Nat) (bs : List Byte) : State :=
  match s.run? key with
  | none => s
  | some r => (s.ownerWrite r.part ((Ent.of (s.entry key)).raddr + 8192 * k) bs).setChunk key k code

/-- The chunk of LADDR; a poisoned word or an address the owner may not read aborts the entry (R230). -/
def State.ownChunk (s : State) (key k : Nat) : Option (List Byte) :=
  match s.run? key with
  | none => none
  | some r => let x := Ent.of (s.entry key)
    s.ownerRead r.part (x.laddr + 8192 * k) (x.chunkLen k)

/-- R228, R231: what a position sends when its entry fires. -/
def State.firstSends (s : State) (key pos : Nat) : List Nat → State
  | [] => s
  | k :: ks =>
    let x := Ent.of (s.entry key)
    let mine := if x.cv then pos = 0 || pos + 1 = x.n else k % x.n = pos
    if mine then
      match s.ownChunk key k with
      | none => s.abortEntry key
      | some bs =>
        (if x.cv then if pos = 0 then s.sendChunk key k 0 1 bs else s.sendChunk key k (x.n - 1) (x.n - 2) bs
         else s.sendChunk key k 0 (pos + 1) bs).firstSends key pos ks
    else s.firstSends key pos ks

/-- R228: the run of an entry that fires; frames of its earlier run that are not acknowledged are still sent again. -/
def State.newRun (s : State) (key p pos n chunks : Nat) : SeqRun :=
  let old := match s.run? key with
    | some r => r.sent.map fun x => { x with stale := true }
    | none => []
  ⟨p, pos, n, chunks, [], [], [], [], old, false, false, 0⟩
/-- R226, R228: a fire of an entry for a partition, under the OWNER rule; an entry of Y0 to Y7 refuses every fire
(R225). -/
def State.fireEntry (s : State) (key p port : Nat) : State :=
  let e := s.entry key
  if key / 4096 < 8 then s.setEntry key (entState e 3 false false)
  else if entOwner e != some p then s.dropWrite port
  else if entBusy e then s
  else if !s.fireOk key e then s.setEntry key (entState e 3 false false)
  else
    let x := Ent.of e
    let pos := (x.peers.idxOf? s.modid.toNat).getD 0
    let s := s.setEntry key (entState e 0 true true)
    let s := s.setRun key (s.newRun key p pos x.n x.chunks)
    s.firstSends key pos (List.range x.chunks)

/-- R62: the acknowledgement of a DATA frame. -/
def State.ack (s : State) (port : Nat) (f : Frame) : State :=
  s.sendFrame port (mkFrame 1 ((fField f 1 1) / 16) (fLvl f) 0 (fHop f) s.modid.toNat ((fField f 4 2)) (fTidx f) (fChunk f) 0 [])

/-- R231, R234: P(q) ⊕ S(q), leaving out an empty term. -/
def Ent.cavity (x : Ent) : Option (List Byte) → Option (List Byte) → List Byte
  | some a, some b => seqFold x.op x.fmt a b
  | some a, none => seqSole x.op x.fmt a
  | none, some b => seqSole x.op x.fmt b
  | none, none => []
/-- R231: a term of a cavity chunk has arrived: its result is written once it has both. -/
def State.cavityDone (s : State) (key k : Nat) : State :=
  let x := Ent.of (s.entry key)
  match s.run? key with
  | none => s
  | some r =>
    let p := (r.prefix_.find? (·.1 == k)).map (·.2)
    let q := (r.suffix_.find? (·.1 == k)).map (·.2)
    if (r.pos == 0 || p.isSome) && (r.pos + 1 == r.n || q.isSome) then
      s.putChunk key k 2 (x.cavity p q)
    else s

/-- R231: a frame of a cavity entry at this position. -/
def State.cavityApply (s : State) (key k hop : Nat) (bs : List Byte) : State :=
  let x := Ent.of (s.entry key)
  match s.run? key, s.ownChunk key k with
  | none, _ => s
  | some _, none => s.abortEntry key
  | some r, some own =>
    if hop + 1 < x.n then
      let s := s.setRun key { r with prefix_ := sset [] r.prefix_ k bs }
      let s := if r.pos + 1 < x.n then s.sendChunk key k r.pos (r.pos + 1) (seqFold x.op x.fmt bs own) else s
      s.cavityDone key k
    else
      let s := s.setRun key { r with suffix_ := sset [] r.suffix_ k bs }
      let s := if 0 < r.pos then s.sendChunk key k (2 * x.n - 2 - r.pos) (r.pos - 1) (seqFold x.op x.fmt own bs) else s
      s.cavityDone key k

/-- R228, R229: a frame of an all-reduce at this position. -/
def State.ringApply (s : State) (key k hop : Nat) (payload : List Byte) : State :=
  let x := Ent.of (s.entry key)
  match s.run? key with
  | none => s
  | some r =>
    if hop + 1 < x.n then
      match s.ownChunk key k with
      | none => s.abortEntry key
      | some own =>
        let y := combine x payload own
        if hop + 2 < x.n then (s.putChunk key k 1 y).sendChunk key k (hop + 1) (r.pos + 1) y
        else
          let fin := expand x (payloadOf x y)
          (s.putChunk key k 2 fin).sendChunk key k (hop + 1) (r.pos + 1) fin
    else
      let fin := expand x payload
      let s := s.putChunk key k 2 fin
      if hop + 3 < 2 * x.n then s.sendChunk key k (hop + 1) (r.pos + 1) fin else s

/-- R228, R231: the position a hop of chunk k arrives at. -/
def Ent.target (x : Ent) (k hop : Nat) : Nat :=
  if x.cv then if hop + 1 < x.n then hop + 1 else 2 * x.n - 3 - hop
  else (k % x.n + hop + 1) % x.n

/-- R62: two frames name one chunk: SMOD, TIDX, CHUNK, LVL and HOP agree. -/
def sameChunk (a b : Frame) : Bool :=
  fField a 4 2 == fField b 4 2 && fTidx a == fTidx b && fChunk a == fChunk b && fLvl a == fLvl b && fHop a == fHop b
/-- R62: a frame that the run has already applied. Once the entry has ended, only what can still be a retransmission of it
is taken for one: the same bits, while a sender still tries (DEDUCED, log 44). -/
def SeqRun.again (r : SeqRun) (f : Frame) (gcyc : Nat) : Bool :=
  if r.ended then r.applied.contains f && gcyc ≤ r.endedAt + 5 * ackCycles else r.applied.any fun a => sameChunk a f
/-- R228, R231: the frame is one that the run waits for: chunk, hop, format, compression and length are its entry's. -/
def SeqRun.expects (r : SeqRun) (x : Ent) (f : Frame) : Bool :=
  !r.ended && !r.aborted && fChunk f < r.chunks && x.target (fChunk f) (fHop f) == r.pos &&
    frameFmt (fField f 1 1 / 16) == some x.fmt && fField f 2 1 / 32 == x.kc &&
    fField f 16 4 == x.chunkLen (fChunk f) / elemBytes x.fmt
/-- R61: the payload of a DATA frame is laid out as its own header says. -/
def payloadOk (f : Frame) : Bool :=
  let fmt := (frameFmt (fField f 1 1 / 16)).getD .raw
  let kc := fField f 2 1 / 32
  nelOk fmt kc (fField f 16 4) f.payload.length && (kc == 0 || masksOk fmt (keptOf kc) f.payload)

/-- R228, R60 to R62: a DATA frame of a tile-table entry. One that the entry does not expect, or for an entry that has not
fired, is not acknowledged (DEDUCED, log 44). -/
def State.dataFrame (s : State) (port key : Nat) (f : Frame) : State :=
  let x := Ent.of (s.entry key)
  if !s.frameOk f 0 (2 * x.n - 3) || !payloadOk f then s.dropFrame
  else
    match s.run? key with
    | none => s
    | some r =>
      if r.again f s.gcyc then s.ack port f
      else if !r.expects x f then s
      else
        let s := s.setRun key { r with applied := r.applied ++ [f] }
        let s := s.ack port f
        if x.cv then s.cavityApply key (fChunk f) (fHop f) f.payload else s.ringApply key (fChunk f) (fHop f) f.payload

/-! ## Barriers between modules (R232) -/

/-- R138: the count of a place of a module group: 0 WAFER, 1 NODE, 2 RACK. -/
def Part.groupCount (q : Part) (l : Nat) : Nat := (q.mgrp.extractLsb' (8 * l) 8).toNat + 1
/-- R138: this module's position at a place. -/
def Part.groupPos (q : Part) (l : Nat) : Nat := (q.mgrp.extractLsb' (24 + 8 * l) 8).toNat
/-- R232: module m of list l of the group table. -/
def State.ringModule (s : State) (l m : Nat) : Nat :=
  (sget 0 s.groupTab (512 * l + 2 * m)).toNat + 256 * (sget 0 s.groupTab (512 * l + 2 * m + 1)).toNat
/-- The partition that holds a barrier ring, if any. -/
def State.ringPart (s : State) : Option (Nat × Part × BarRing) :=
  s.partIds.findSome? fun p =>
    match s.part p with
    | some q => q.ring.map fun r => (p, q, r)
    | none => none
/-- R232: the partition that holds the whole wafer. -/
def State.waferPart (s : State) : Option (Nat × Part) :=
  s.partIds.findSome? fun p =>
    match s.part p with
    | some q => if q.w = 64 && q.h = 36 then some (p, q) else none
    | none => none
/-- R232: the partition for which entry 4,095 of Y8 acts. -/
def State.barPart (s : State) : Option (Nat × Part) :=
  match s.ringPart with
  | some (p, q, _) => some (p, q)
  | none => s.waferPart
/-- R232, R62: a barrier frame sent to the next module of a ring, and held until it is acknowledged, by ring and hop;
`chunk` is the CHUNK it carries (DEDUCED, log 44). -/
def State.sendBar (s : State) (q : Part) (lvl hop chunk : Nat) : State :=
  let l := lvl - 1
  let peer := s.ringModule l ((q.groupPos l + 1) % q.groupCount l)
  let f := mkFrame 0 3 lvl 0 hop s.modid.toNat peer 0xFFF chunk 0 []
  let r := (s.run? barKey).getD ⟨0, 0, 0, 0, [], [], [], [], [], false, false, 0⟩
  let s := s.setRun barKey { r with sent := r.sent ++ [⟨lvl, hop, BitVec.ofNat 16 peer, f, 0, s.gcyc, false⟩] }
  (s.sendFrame 0 f).at_ (s.gcyc + ackCycles) (.retransmitTimeout barKey lvl hop)
/-- R232: the CHUNK of a barrier frame that this module starts: bits 31:0 of GCYC, which tell it from one of another barrier
(DESIGN CHOICE, log 44). -/
def State.barChunk (s : State) : Nat := s.gcyc % 2 ^ 32
/-- R232: the frame of this module enters the next ring. -/
def State.nextRing (s : State) (p : Nat) : State :=
  match s.part p with
  | none => s
  | some q =>
    match q.ring with
    | some ⟨_, _, r :: _, true, _, false⟩ => s.sendBar q r 0 s.barChunk
    | _ => s
/-- R232: a barrier that nobody of this module has reached yet. -/
def BarRing.fresh : BarRing := ⟨0, 0, [], false, [], false⟩
/-- R62: a barrier frame has been applied, not so long ago that it cannot be a retransmission. -/
def State.barAgain (s : State) (f : Frame) : Bool := s.barSeen.any fun e => sameChunk e.1 f && s.gcyc ≤ e.2 + 5 * ackCycles
/-- R62: a barrier frame noted as applied; those too old to come again are forgotten. -/
def State.barNote (s : State) (f : Frame) : State :=
  { s with barSeen := (s.barSeen.filter fun e => s.gcyc ≤ e.2 + 5 * ackCycles) ++ [(f, s.gcyc)] }
/-- R60, R232: the greatest HOP of a barrier frame: the length of the ring that LVL names, minus 1. -/
def State.barLimit (s : State) (lvl : Nat) : Nat :=
  match s.barPart with
  | some (_, q) => q.groupCount (lvl - 1) - 1
  | none => 255
/-- R232, R62: a good barrier frame, new to a ring that goes on: back at its sender it ends its ring there; elsewhere it goes
on once the members of this module have arrived. -/
def State.barApply (s : State) (p : Nat) (q : Part) (r : BarRing) (f : Frame) : State :=
  let lvl := fLvl f
  if fHop f + 1 = q.groupCount (lvl - 1) then
    if r.rings.head? = some lvl then
      (s.setPart p { q with ring := some { r with rings := r.rings.drop 1 } }).nextRing p
    else s.setPart p { q with ring := some r }
  else if r.inside then (s.setPart p { q with ring := some r }).sendBar q lvl (fHop f + 1) (fChunk f)
  else s.setPart p { q with ring := some { r with frames := r.frames ++ [f] } }
/-- R232, R60 to R62: a barrier frame. A duplicate is acknowledged and not applied; one for which no partition stands is not
acknowledged (DEDUCED, log 44). -/
def State.barFrame (s : State) (port : Nat) (f : Frame) : State :=
  if fLvl f = 0 || !s.frameOk f 0 (s.barLimit (fLvl f)) || !payloadOk f then s.dropFrame
  else
    match s.barPart with
    | none => s
    | some (p, q) =>
      if s.barAgain f then s.ack port f
      else
        let r := (q.ringAt (s.gcyc - q.lbase)).getD BarRing.fresh
        if r.aborted then s else ((s.ack port f).barNote f).barApply p q r f
/-- R62, R232: the barrier entry aborts: the ring goes no further, so that its BAR fails at its deadline. -/
def State.ringAborted (s : State) : State :=
  match s.barPart with
  | some (p, _) => s.modPart p fun q => { q with ring := q.ring.map fun r => { r with aborted := true } }
  | none => s
/-- R62, R232: after the fourth retransmission of a barrier frame every other module of its ring is told (DEDUCED, log 44). -/
def State.abortBar (s : State) (lvl : Nat) : State :=
  match s.barPart with
  | none => s
  | some (_, q) =>
    let l := lvl - 1
    ((List.range (q.groupCount l)).filter (· != q.groupPos l)).foldl (fun s m =>
      s.sendFrame 0 (mkFrame 3 3 lvl 0 0 s.modid.toNat (s.ringModule l m) 0xFFF 0 0 [])) s.ringAborted
/-- R232: the members of this module have all arrived: its own frame starts, and those that waited go on. -/
def State.barInside (s : State) (p : Nat) : State :=
  match s.part p with
  | none => s
  | some q =>
    match q.ring with
    | none => s.setPart p { q with barFire := none }
    | some r =>
      let s := s.setPart p { q with barFire := none, ring := some { r with inside := true, frames := [] } }
      (r.frames.foldl (fun s f => s.sendBar q (fLvl f) ((fHop f) + 1) (fChunk f)) s).nextRing p

/-! ## The events -/

/-- R34, R60: the port of a yard chiplet that has power. -/
def State.portLit (s : State) (port : Nat) : Bool := s.chipletLit (8 + port)
/-- R60, R225: the entry a frame received at a port names. -/
def frameKey (port : Nat) (f : Frame) : Nat := 4096 * (8 + port) + (fTidx f)

/-- R60: the greatest HOP of a frame of an entry, or of the ring that LVL names. -/
def State.hopLimit (s : State) (key : Nat) (f : Frame) : Nat :=
  if key = barKey then s.barLimit (fLvl f) else 2 * (Ent.of (s.entry key)).n - 3

/-- COLLECTIVE_DATA_FRAME (R228, R231, R232) (R34; DESIGN CHOICE, log 60). -/
def execCollectiveDataFrame (port : Nat) (f : Frame) (s : State) : Host.Outcome State Fault Refusal :=
  .next (if !s.portLit port then s
    else if (fKind f) != 0 || (fTidx f) ≥ 4096 then s.dropFrame
    else if frameKey port f = barKey then s.barFrame port f
    else s.dataFrame port (frameKey port f) f)
/-- R62: an ACK frame names a frame that was sent: CHUNK, LVL and HOP agree. -/
def SentFrame.answeredBy (x : SentFrame) (f : Frame) : Bool := fChunk x.fr == fChunk f && fLvl x.fr == fLvl f && x.hop == fHop f
/-- ACK_FRAME (R62, R34): the oldest frame it names needs no answer any more (DESIGN CHOICE, log 60). -/
def execAckFrame (port : Nat) (f : Frame) (s : State) : Host.Outcome State Fault Refusal :=
  let key := frameKey port f
  .next (if !s.portLit port then s
    else if !(s.frameOk f 1 (s.hopLimit key f)) then s.dropFrame
    else match s.run? key with
      | none => s
      | some r => s.setRun key { r with sent := r.sent.eraseP (·.answeredBy f) })
/-- ABORT_FRAME (R230, R34): the entry of this peer aborts (DESIGN CHOICE, log 60). -/
def execAbortFrame (port : Nat) (f : Frame) (s : State) : Host.Outcome State Fault Refusal :=
  let key := frameKey port f
  .next (if !s.portLit port then s
    else if !(s.frameOk f 3 (s.hopLimit key f)) then s.dropFrame
    else if key = barKey then s.ringAborted
    else match s.run? key with
      | none => s
      | some r => if r.settled then s else (s.setRun key { r with aborted := true }).soon (.seqEntryEnd key))
/-- R62: a frame whose acknowledgement is overdue. -/
def SentFrame.overdue (x : SentFrame) (chunk hop gcyc : Nat) : Bool :=
  x.chunk == chunk && x.hop == hop && x.at_ + ackCycles ≤ gcyc
/-- RETRANSMIT_TIMEOUT (R62, R34): the same frame again, at most four times; then the entry aborts (DEDUCED, log 44). -/
def execRetransmitTimeout (key chunk hop : Nat) (s : State) : Host.Outcome State Fault Refusal :=
  .next (match s.run? key with
    | none => s
    | some r =>
      match r.sent.find? fun x => x.overdue chunk hop s.gcyc with
      | none => s
      | some x =>
        if r.aborted || !s.chipletLit (key / 4096) then s
        else if x.tries < 4 then
          let s := s.setRun key { r with sent := r.sent.map fun y =>
            if y = x then { y with tries := y.tries + 1, at_ := s.gcyc } else y }
          (s.sendFrame (seqPort key) x.fr).at_ (s.gcyc + ackCycles) (.retransmitTimeout key chunk hop)
        else
          let t := s.setRun key { r with sent := r.sent.erase x }
          if x.stale then t else if key = barKey then t.abortBar chunk else t.abortEntry key)
/-- SEQ_FIRE (R228, R226; R232 for the entry reserved for barriers): a fire request reaches its sequencer. -/
def execSeqFire (key part : Nat) (s : State) : Host.Outcome State Fault Refusal :=
  .next (if !s.chipletLit (key / 4096) then s
    else if key = barKey then s.barInside part
    else s.fireEntry key part (match s.part part with | some q => q.ctl.toNat | none => 0))
/-- SEQ_ENTRY_END (R230): the chunk status bitmap is written, RESULT set, BUSY and READY cleared. -/
def execSeqEntryEnd (key : Nat) (s : State) : Host.Outcome State Fault Refusal :=
  .next (match s.run? key with
    | none => s
    | some r =>
      if r.ended || !r.settled || !s.chipletLit (key / 4096) then s
      else
        let e := s.entry key
        let x := Ent.of e
        let map := (List.range r.chunks).foldl (fun m k => m + sget 0 r.status k * 4 ^ k) 0
        let s := s.ownerWrite r.part x.saddr (bytesOf ((r.chunks + 3) / 4) map)
        (s.setEntry key (entState e (if r.aborted then 2 else 1) false false)).setRun key { r with ended := true, endedAt := s.gcyc })
/-- R226: a host write of READY = 1 through BAR 4 of a port to the entry that holds an address. -/
def State.hostFire (s : State) (port addr : Nat) : State :=
  match checkRegion (s.aperture port) .w (addr / 64 * 64) 64 with
  | .error _ => s.dropWrite port
  | .ok pa =>
    if inSeq pa && s.rangeLit pa 1 then
      match seqKey pa with
      | some (k, _) => s.fireEntry k ((s.port port).aper.toNat % 512) port
      | none => s.dropWrite port
    else s
/-- SEQ_HOST_FIRE (R226, R228). -/
def execSeqHostFire (port : Nat) (addr : W64) (s : State) : Host.Outcome State Fault Refusal :=
  .next (s.hostFire port addr.toNat)

end Sys2Proof.Machine
end

