-- ==== Sys2Proof/Machine/Remote.lean ====
section
/-! DEFINITION. Remote operations: LDG, GST, AMO, WAKE (R385 to R390), STG and STP (R368, R369), CRDY (R372), how slices
perform them (R202 to R205), their replies and deadlines (R199, R200). -/

namespace Sys2Proof.Machine

/-! ## Issue -/

/-- R36: the bytes of the module's 56 HBM stacks; a physical address at or above it and outside the sequencer spaces
names no memory. -/
def hbmBytes : Nat := 56 * 48 * 2 ^ 30
/-- R36, R225: every byte of a range lies in memory or in a sequencer space (DEDUCED, log 22). -/
def present (pa n : Nat) : Bool := pa + n ≤ hbmBytes || (inSeq pa && inSeq (pa + n - 1))

/-- R198 to R200: an operation with the fields an instruction gives it, for tile k. -/
def State.newOp (s : State) (k : Nat) (kind : OpKind) (deadline pa len : Nat) (fl : Flags) : RemOp :=
  ⟨(s.tile k).nextId, kind, s.now, deadline, pa, len, 0, 0, 0, .raw, false, fl.scope.toNat, fl.acq, fl.rel, false, 0, 0, false,
    false, false, s.cur.slot, s.ctx.bundle, false, [], [], 0, false⟩

/-- An operation is of no further use: checked or never checked, its deadline past (DEDUCED, log 56). -/
def RemOp.spent (o : RemOp) (l : Nat) : Bool :=
  match o.kind with
  | .wake => o.done || o.mute
  | .crdy => false
  | .ldg => o.deadline < l && o.done
  | .gst | .stg | .stp | .amo _ | .cas _ => o.deadline < l && o.checked && (o.done || o.mute)

/-- R195: the 256-byte blocks of a range of bytes. -/
def blocksIn (pa n : Nat) : List Nat :=
  if n = 0 then [] else (List.range ((pa + n - 1) / 256 - pa / 256 + 1)).map (pa / 256 + ·)
/-- R66: an operation that HBM slices serve. -/
def RemOp.inHbm (o : RemOp) : Bool :=
  match o.kind with
  | .wake | .crdy => false
  | .gst | .ldg | .stg | .stp | .amo _ | .cas _ => !inSeq o.pa
/-- R9, R216: the cycles that the n-th request of an operation takes to its endpoint: a free number that the launch alone
fixes, by the tile's place in its partition and the cycle and slot of issue (log 6). -/
def State.transitOf (s : State) (k : Nat) (o : RemOp) (n : Nat) : Nat :=
  let place := match s.partOf k with
    | some q => tileKey (k % 256 - 4 * q.px0) (k / 256 - 4 * q.py0)
    | none => k
  Config.transit place o.issued o.slot n + 1
/-- R66: the requests for the blocks of an operation, each with the cycle at which it reaches its slice. -/
def State.requests (s : State) (k : Nat) (o : RemOp) : List Piece :=
  if o.mute || !o.inHbm then []
  else (blocksIn o.pa o.len).mapIdx fun n b => ⟨b, s.gcyc + s.transitOf k o n, none, 0, 0, false⟩
/-- An AMO. -/
def RemOp.isAmo (o : RemOp) : Bool :=
  match o.kind with
  | .amo _ | .cas _ => true
  | .gst | .ldg | .stg | .stp | .wake | .crdy => false
/-- R203, R216, R114: where an operation goes that must stay in order with others that go there: a slice, the sequencer of
a yard chiplet, the front end of one, or the port of another module's wakes. -/
def State.routeOf (s : State) (o : RemOp) : Option Nat :=
  match o.kind with
  | .gst | .ldg | .amo _ | .cas _ => some (if inSeq o.pa then 1000 + seqChiplet o.pa else sliceOf o.pa)
  | .crdy => some (1000 + o.pa / 4096)
  | .wake => some (if o.pa / 2 ^ 48 = s.modid.toNat then 2000 + o.pa / 8 % 2 ^ 15 % 28 else 3000 + o.pa / 8 % 2 ^ 15 % 20)
  | .stg | .stp => none
/-- The tiles of a partition, by key. -/
def State.tilesOf (s : State) (p : Nat) : List (Nat × Tile) := s.tiles.filter fun e => e.2.part == some p
/-- R204: the last cycle at which a flag of an operation waits for an engine, and for an A flag a store or a reply. -/
def State.flagUntil (s : State) (k : Nat) (o : RemOp) : Nat :=
  let t := s.tile k
  let wide := scopeKind (s.bankOf k).tree o.scope != .alone
  let writes := ((t.commands.filter fun c => c.c < o.issued && c.writes k o.issued).map (·.lastAccess k)) ++
    (t.gTails.filter fun e => e.1 < o.issued).map (·.2)
  let stores := (t.task.latches.filter fun x => x.kind == .sram && x.issued < o.issued).map (·.due)
  let replies := (t.ops.filter fun x => wide && (x.kind == .ldg || x.isAmo)).map (·.deadline)
  (writes ++ (if o.acq then stores ++ replies else [])).foldl Nat.max 0
/-- R9, R203 to R205: the cycle that places an operation among the writes of its launch: that at which its request would
arrive were every run alike, and later than that of each operation it comes after: the earlier ones of its tile on its way, every
earlier one under a flag, and the AMOs to its address issued 96 cycles before it (DESIGN CHOICE, log 62). -/
def State.turnOf (s : State) (k : Nat) (o : RemOp) : Nat :=
  let t := s.tile k
  let flag := o.rel || o.acq
  let own := (t.ops.filter fun x => flag || ((s.routeOf o).isSome && s.routeOf x == s.routeOf o)).map (·.turn)
  let amos : List Nat := match t.part with
    | some p => if o.isAmo then (s.tilesOf p).flatMap fun e =>
        (e.2.ops.filter fun x => x.isAmo && x.pa == o.pa && x.issued + 96 ≤ o.issued).map (·.turn) else []
    | none => []
  ((own ++ amos ++ if flag then [s.flagUntil k o] else []).map (· + 1)).foldl Nat.max (o.issued + s.transitOf k o 0)
/-- The machine with an operation under way: its requests travel to their slices, which serve them in their slots (R66); a
wake, a fire request and an access to a sequencer space act where they arrive. -/
def State.launchOp (s : State) (k : Nat) (o : RemOp) : State :=
  let l := s.now
  let t := s.modTile k fun t =>
    { t with nextId := t.nextId + 1, ops := (t.ops.filter fun x => !x.spent l) ++ [{ o with pieces := s.requests k o, turn := s.turnOf k o }] }
  if o.mute || o.inHbm then t else t.at_ (s.gcyc + s.transitOf k o 0) (.sliceAccess (k % 256) (k / 256) o.id)

/-- R200: fewer than 16 replies are outstanding. -/
def Tile.holderFree (t : Tile) (l : Nat) : Bool :=
  (t.ops.filter fun o =>
    match o.kind with
    | .ldg | .amo _ | .cas _ => l < o.deadline
    | .gst | .stg | .stp | .wake | .crdy => false).length < 16

/-- R385, R374: address and alignment, then the region and its right. -/
def State.remoteAddr (s : State) (a n : Nat) (r : Right) : Try Nat := do
  need (a % n == 0) 7 2
  checkRegion (s.bankOf s.myKey).regions r a n

/-- LDG (R385, R386). A poisoned address makes no access (R374). -/
def execLdg (g : Guard) (d a b : R5) (dl : BitVec 16) (fl : Flags) (sz : Size) (s : State) : Out :=
  .next (s.slot g [⟨.scalar, d.toNat, .raw, dl.toNat⟩] fun gp s => do
    let x := s.ctx.readS a.toNat
    let y := s.ctx.readS b.toNat
    checkFmts intFmts false none [(x.fmt, 1), (y.fmt, 2)]
    if x.poi || y.poi then return s.poisonLoad .scalar d.toNat .raw dl.toNat
    let n := Size.bytes sz
    let pa ← s.remoteAddr (addrSum x.v y.v) n .r
    need ((s.tile s.myKey).holderFree s.now) 1 8
    need s.genOk 9 0
    let o := s.newOp s.myKey .ldg (s.now + dl.toNat) pa n fl
    return s.launchOp s.myKey { o with dest := d.toNat, fmt := .raw, gpoi := gp })

/-- GST (R385, R387). That of a voided tile sends nothing (R170). -/
def execGst (g : Guard) (d a b : R5) (dl : BitVec 16) (fl : Flags) (sz : Size) (s : State) : Out :=
  .next (s.slot g [] fun gp s => do
    let x := s.ctx.readS a.toNat
    let y := s.ctx.readS b.toNat
    let v := s.ctx.readS d.toNat
    checkFmts intFmts false none [(x.fmt, 1), (y.fmt, 2)]
    need (!(x.poi || y.poi || v.poi || gp)) 3 2
    let n := Size.bytes sz
    let pa ← s.remoteAddr (addrSum x.v y.v) n .w
    need ((s.tile s.myKey).voided || s.genOk) 9 0
    let o := s.newOp s.myKey .gst (s.now + dl.toNat) pa n fl
    return s.launchOp s.myKey { o with data := v.v, mute := (s.tile s.myKey).voided })

/-- R388: the format an AMO accepts in sb and gives to sd. -/
def amoFmt : AmoForm → Fmt
  | .fadd => .fp32
  | .add | .max | .min | .maxu | .minu | .and | .or | .xor | .swap => .i32

/-- R389: an AMO of either kind. -/
def State.atomic (s : State) (g : Guard) (kind : OpKind) (f : Fmt) (d a b : R5) (dl : BitVec 16) (fl : Flags) (dbl : Bool) :
    State :=
  s.slot g [⟨.scalar, d.toNat, f, dl.toNat⟩] fun gp s => do
    let x := s.ctx.readS a.toNat
    let y := s.ctx.readS b.toNat
    checkFmts intFmts false none [(x.fmt, 1)]
    checkFmts (if f == .fp32 then [.fp32] else intFmts) false none [(y.fmt, 2)]
    need (!(x.poi || y.poi || gp)) 3 2
    let n := if dbl then 8 else 4
    let pa ← s.remoteAddr x.v.toNat n .a
    need (!inSeq pa) 8 2
    need ((s.tile s.myKey).holderFree s.now) 1 8
    need ((s.tile s.myKey).voided || s.genOk) 9 0
    let o := s.newOp s.myKey kind (s.now + dl.toNat) pa n fl
    return s.launchOp s.myKey { o with data := y.v, dest := d.toNat, fmt := f, mute := (s.tile s.myKey).voided }

/-- AMO but CAS (R388, R389) (DEDUCED, log 45). -/
def execAmo (g : Guard) (f : AmoForm) (d a b : R5) (dl : BitVec 16) (fl : Flags) (dbl : Bool) (s : State) : Out :=
  .next (s.atomic g (.amo f) (amoFmt f) d a b dl fl dbl)
/-- AMO.CAS (R388, R389): the comparand is the literal, sign-extended for 8 bytes. -/
def execAmoCas (g : Guard) (d a b : R5) (dl : BitVec 16) (fl : Flags) (dbl : Bool) (cmp : W32) (s : State) : Out :=
  .next (s.atomic g (.cas (if dbl then cmp.signExtend 64 else cmp.setWidth 64)) .i32 d a b dl fl dbl)

/-- R97: bits of a wake address that must be zero. -/
def wakeZero (v : W64) : Bool := v.extractLsb' 0 3 == 0 && v.extractLsb' 18 30 == 0

/-- WAKE (R390). -/
def execWake (g : Guard) (a b : R5) (scope : BitVec 6) (rel : Bool) (s : State) : Out :=
  .next (s.slot g [] fun gp s => do
    let x := s.ctx.readS a.toNat
    let y := s.ctx.readS b.toNat
    checkFmts intFmts false none [(x.fmt, 1), (y.fmt, 2)]
    need (!(x.poi || y.poi || gp)) 3 2
    need (wakeZero x.v) 8 1
    need ((s.tile s.myKey).voided || s.genOk) 9 0
    let o := s.newOp s.myKey .wake s.now x.v.toNat 0 ⟨scope, false, rel⟩
    return s.launchOp s.myKey { o with data := y.v, mute := (s.tile s.myKey).voided })

/-! ## Staging (R368) -/

/-- R368: the least LCYC above l whose bits 31:0 equal the literal. -/
def stageDeadline (l : Nat) (dl : W32) : Nat :=
  let e := l / 2 ^ 32 * 2 ^ 32 + dl.toNat
  if l < e then e else e + 2 ^ 32

/-- R360, R262: scalar operands of a CP command: RAW or I32, then no poison (DEDUCED, log 36). -/
def State.cpScalars (s : State) (rs : List (R5 × Nat)) : Try (List W64) := do
  checkFmts intFmts false none (rs.map fun r => ((s.ctx.readS r.1.toNat).fmt, r.2))
  need (rs.all fun r => !(s.ctx.readS r.1.toNat).poi) 3 2
  return rs.map fun r => (s.ctx.readS r.1.toNat).v

/-- R368: STG and STP. -/
def State.stage (s : State) (g : Guard) (kind : OpKind) (sa sb sc : R5) (fl : Flags) (dl : W32) : State :=
  s.slot g [] fun gp s => do
    let k := s.myKey
    let vs ← s.cpScalars [(sa, 1), (sb, 2), (sc, 3)]
    let win := (vs.getD 0 0).toNat
    let va := (vs.getD 1 0).toNat
    let n := (vs.getD 2 0).toNat
    need (n % 16 == 0 && win % 16 == 0 && va % 16 == 0) 7 2
    need (n != 0 && n ≤ 0x180000) 7 1
    let b := s.bankOf k
    let pa ← checkRegion b.regions (if kind == .stg then .r else .w) va n
    need (!inSeq pa) 8 2
    s.window k (kind == .stg) [(win, n)]
    let t := s.tile k
    let ws := wordsOf win n
    need (!(t.spansAt s.now).any (fun sp => (spanOf ws (kind == .stg)).meets sp)) 1 2
    need ((t.ops.filter fun o => o.staged && s.now ≤ o.deadline).length < 8) 1 8
    need (kind == .stg || !(poisonRead t.spoi win n || gp)) 3 2
    need ((kind == .stp && t.voided) || s.genOk) 9 0
    let o := s.newOp k kind (s.ownNow (stageDeadline s.lcycNow dl)) pa n fl
    let spans := [spanOf ws (kind == .stg)]
    let s := s.launchOp k { o with win := win, gpoi := gp, mute := kind == .stp && t.voided }
    return (s.undoMeeting spans 4).undoMeeting spans 5

/-- STG (R368, R369). -/
def execStg (g : Guard) (sa sb sc : R5) (fl : Flags) (dl : W32) (s : State) : Out :=
  .next (s.stage g .stg sa sb sc fl dl)
/-- STP (R368, R369). -/
def execStp (g : Guard) (sa sb sc : R5) (fl : Flags) (dl : W32) (s : State) : Out :=
  .next (s.stage g .stp sa sb sc fl dl)

/-- CRDY (R372): W rights, an entry of a sequencer space (DEDUCED, log 46). -/
def execCrdy (g : Guard) (a : R5) (scope : BitVec 6) (rel : Bool) (s : State) : Out :=
  .next (s.slot g [] fun gp s => do
    let k := s.myKey
    let vs ← s.cpScalars [(a, 1)]
    need (!gp) 3 2
    let va := (vs.getD 0 0).toNat
    need (va % 64 == 0) 7 2
    let pa ← checkRegion (s.bankOf k).regions .w va 64
    match if inSeq pa then seqKey pa else none with
    | none => .error (8, 2)
    | some (key, _) =>
      if (s.tile k).voided then return s
      need s.genOk 9 0
      let o := s.newOp k .crdy s.now key 0 ⟨scope, false, rel⟩
      return s.launchOp k o)

/-! ## Order (R203 to R205) -/

/-- The LCYC a tile stands at: that of F while its partition is stopped (R163). -/
def State.lcycHeld (s : State) (k : Nat) : Nat :=
  match s.partOf k with
  | some q =>
    match q.freeze with
    | some z => if z.stopped then z.f else s.lcycOf k
    | none => s.lcycOf k
  | none => s.lcycOf k

/-- An operation performed at one slice (R203). -/
def RemOp.single (o : RemOp) : Bool :=
  match o.kind with
  | .gst | .ldg | .amo _ | .cas _ => true
  | .stg | .stp | .wake | .crdy => false
/-- The operation has not acted yet and will. -/
def RemOp.open_ (o : RemOp) : Bool := !o.done && !o.mute

/-- R66: a read whose every block has been read at its slice. -/
def RemOp.read (o : RemOp) : Bool := !o.pieces.isEmpty && o.pieces.all fun z => z.due.isSome || z.done
/-- R203: the operation has still to be performed at its slice, or to reach its endpoint. -/
def RemOp.waiting (o : RemOp) : Bool := o.open_ && !(o.kind == .ldg && o.read)

/-- R204: what an R flag waits for. -/
def State.relHolds (s : State) (k : Nat) (o : RemOp) : Bool :=
  let t := s.tile k
  let l := s.lcycHeld k
  let before := t.ops.filter fun x => x.id < o.id
  let alone := before.any (fun x => x.kind == .stg && x.open_) ||
    (t.commands.any fun c => c.c < o.issued && c.writes k l) || t.tailWrites (o.issued - 1) l
  let inside := before.any fun x => (x.touches || (x.kind == .stg && !x.read)) && x.open_
  let outside := before.any fun x => x.kind == .crdy && !(x.done && entryFinished (s.entry x.pa))
  match scopeKind (s.bankOf k).tree o.scope with
  | .alone => alone
  | .within => alone || inside
  | .spanning => alone || inside || outside
/-- R204: what an A flag waits for. -/
def State.acqHolds (s : State) (k : Nat) (o : RemOp) : Bool :=
  let t := s.tile k
  let l := s.lcycHeld k
  let before := t.ops.filter fun x => x.id < o.id
  let alone := t.task.latches.any (fun x => x.kind == .sram && x.issued < o.issued) ||
    before.any (fun x => x.kind == .stg && x.open_) || (t.commands.any fun c => c.c < o.issued && c.writes k l) ||
    t.tailWrites (o.issued - 1) l
  let inside := before.any fun x => (x.kind == .ldg || x.isAmo) && l < x.deadline
  let outside := before.any fun x => x.kind == .crdy && !(x.done && entryFinished (s.entry x.pa))
  match scopeKind (s.bankOf k).tree o.scope with
  | .alone => alone
  | .within => alone || inside
  | .spanning => alone || inside || outside
/-- R168, R171: an operation that a flag held back at F does not leave its tile while the partition is stopped; a transfer runs
on once the frame is complete (DEDUCED, log 51). -/
def State.keptIn (s : State) (k : Nat) (o : RemOp) : Bool :=
  o.kept && (match s.partOf k with
    | some q => match q.freeze with
      | some z => z.stopped && !(z.captured && o.staged)
      | none => false
    | none => false)
/-- R204: a flag of the operation holds it back. -/
def State.flagHolds (s : State) (k : Nat) (o : RemOp) : Bool :=
  (o.rel && s.relHolds k o) || (o.acq && s.acqHolds k o) || s.keptIn k o
/-- R203, R216: the earlier operation of the tile that goes first. -/
def State.earlierOp (s : State) (k : Nat) (o : RemOp) : Option RemOp :=
  match s.routeOf o with
  | none => none
  | some r => (s.tile k).ops.find? fun x => x.id < o.id && x.waiting && s.routeOf x == some r
/-- R205: the AMO of another tile of the partition to the address, issued at least 96 cycles earlier, that goes first. -/
def State.earlierAmo (s : State) (k : Nat) (o : RemOp) : Option (Nat × RemOp) :=
  if o.isAmo then
    (skeys s.tiles).findSome? fun j =>
      if j != k && (s.tile j).part == (s.tile k).part && (s.tile j).part.isSome then
        ((s.tile j).ops.find? fun x => x.isAmo && x.open_ && x.pa == o.pa && x.issued + 96 ≤ o.issued).map fun x => (j, x)
      else none
  else none
/-- The operation that goes before another, with its tile. -/
def State.blocker (s : State) (k : Nat) (o : RemOp) : Option (Nat × RemOp) :=
  match s.earlierOp k o with
  | some x => some (k, x)
  | none => s.earlierAmo k o

/-! ## Deadlines that come (R9, R199) -/

/-- R204: the earlier operation of the tile that a flag waits for and that has still to act. -/
def State.flagBlocker (s : State) (k : Nat) (o : RemOp) : Option RemOp :=
  let wide := scopeKind (s.bankOf k).tree o.scope != .alone
  (s.tile k).ops.find? fun x => x.id < o.id && x.open_ &&
    ((x.kind == .stg && (o.rel || o.acq)) || (x.touches && o.rel && wide))
/-- R203 to R205: the operation that goes before another, by the order of issue or by a flag, with its tile. -/
def State.ordered (s : State) (k : Nat) (o : RemOp) : Option (Nat × RemOp) :=
  match s.blocker k o with
  | some e => some e
  | none => (s.flagBlocker k o).map fun x => (k, x)
/-- The last of a chain of operations, each of which goes before the one it follows, `n` links at most. -/
def lastOf (next : Nat → RemOp → Option (Nat × RemOp)) : Nat → Nat → RemOp → Nat × RemOp
  | 0, k, o => (k, o)
  | n + 1, k, o =>
    match next k o with
    | some (j, x) => lastOf next n j x
    | none => (k, o)
/-- How many operations there are. -/
def State.opCount (s : State) : Nat := s.tiles.foldl (fun n e => n + e.2.ops.length) 1
/-- R204: an engine, a store, a reply or a peer holds back an operation, or one that an order rule puts before it. -/
def State.rootHeld (s : State) (k : Nat) (o : RemOp) : Bool :=
  let (j, x) := lastOf s.ordered s.opCount k o
  s.flagHolds j x
/-- Two operations of bytes that share a 16-byte word, with which poison goes (R195). -/
def RemOp.meets (a b : RemOp) : Bool := a.pa / 16 ≤ (b.pa + b.len - 1) / 16 && b.pa / 16 ≤ (a.pa + a.len - 1) / 16
/-- R9: of two writes that meet, of the tiles at j and k, the first goes before the second (DESIGN CHOICE, log 62). -/
def RemOp.goesBefore (y : RemOp) (j : Nat) (o : RemOp) (k : Nat) : Bool :=
  y.touches && o.touches && y.meets o &&
    (y.turn < o.turn || (y.turn == o.turn && (j < k || (j == k && y.id < o.id))))
/-- R9: a write of the partition that goes before another and can be performed; one that a second replay has made late (R50)
makes no other wait (DESIGN CHOICE, log 62). -/
def State.rival (s : State) (k : Nat) (o : RemOp) : Option (Nat × RemOp) :=
  match (s.tile k).part with
  | some p => (s.tilesOf p).findSome? fun e =>
      (e.2.ops.find? fun y => y.open_ && !y.late && y.goesBefore e.1 o k && !s.rootHeld e.1 y).map fun y => (e.1, y)
  | none => none
/-- R9, R203 to R205: the operation that goes before another, with its tile. -/
def State.ahead (s : State) (k : Nat) (o : RemOp) : Option (Nat × RemOp) :=
  match s.blocker k o with
  | some e => some e
  | none => (s.rival k o).or ((s.flagBlocker k o).map fun x => (k, x))
/-- R50: the cycle at which an operation acts at the latest: its deadline, one replay later if it is late. -/
def RemOp.latest (o : RemOp) : Nat := o.deadline + (if o.late then 231 else 0)
/-- The operations of a tile whose deadline has come and that still have to act. -/
def Tile.pressing (t : Tile) (l : Nat) : List RemOp :=
  t.ops.filter fun o => o.open_ && o.kind != .wake && o.kind != .crdy && o.latest ≤ l
/-- R9, R199, R203 to R205: the operation to perform now because the deadline of one of a tile's has come: that one, or what
goes before it. What the cycles of an engine, a reply or a peer hold back waits for those (DEDUCED, log 62). -/
def State.forced (s : State) (k : Nat) (t : Tile) (l : Nat) : Option (Nat × RemOp) :=
  (t.pressing l).findSome? fun o =>
    let (j, x) := lastOf s.ahead s.opCount k o
    if s.flagHolds j x then none else some (j, x)
/-- R197, R168: a transfer moves what is left of it now: a deadline has come that needs it. -/
def State.pressed (s : State) (k id : Nat) : Bool :=
  match (s.tile k).part with
  | some p => (s.tilesOf p).any fun e =>
      match s.forced e.1 e.2 (s.lcycOf e.1) with
      | some (j, x) => j == k && x.id == id
      | none => false
  | none => false
/-- R9: a write whose deadline does not press waits for its turn and for the writes that go before it (DESIGN CHOICE, log 62). -/
def State.turnHolds (s : State) (k : Nat) (o : RemOp) : Bool :=
  o.touches && (s.lcycOf k < o.turn || (s.rival k o).isSome) && !s.pressed k o.id
/-- The operation may not be performed yet. -/
def State.opHeld (s : State) (k : Nat) (o : RemOp) : Bool := (s.blocker k o).isSome || s.flagHolds k o || s.turnHolds k o

/-! ## Performing (R202, R387 to R389) -/

/-- R388: the new value at the address, of n bytes, from the old value and the operand. -/
def amoNew (f : AmoForm) (n old b : Nat) : Nat :=
  let m := 2 ^ (8 * n)
  let sg (v : Nat) : Int := toSigned (8 * n) v
  match f with
  | .add => (old + b) % m
  | .fadd => plainBits .fp32 ((Fmt.fp32.value old).add .rne (Fmt.fp32.value b)).1
  | .max => if sg old < sg b then b else old
  | .min => if sg b < sg old then b else old
  | .maxu => Nat.max old b
  | .minu => Nat.min old b
  | .and => old &&& b
  | .or => old ||| b
  | .xor => old ^^^ b
  | .swap => b

/-- The tile with one of its operations changed. -/
def Tile.modOp (t : Tile) (id : Nat) (f : RemOp → RemOp) : Tile :=
  { t with ops := t.ops.map fun o => if o.id = id then f o else o }

/-- An operation performed now, with what it returns. -/
def State.finishOp (s : State) (k id : Nat) (result : W64) (poi : Bool) : State :=
  s.modTile k fun t => t.modOp id fun o => { o with done := true, doneAt := s.gcyc, result := result, rpoi := o.rpoi || poi }

/-- A read-modify-write at a slice: a poisoned word is left unchanged (R389); one of a spoilt operand is written poisoned (R82). -/
def State.performAmo (s : State) (k : Nat) (o : RemOp) (new : Nat → Nat → Nat) : State :=
  let old := memNat s.dev o.pa o.len
  let poi := poisonRead s.devPoi o.pa o.len
  let b := o.data.toNat % 2 ^ (8 * o.len)
  let s := if poi then s else s.writeDev o.pa (bytesOf o.len (new old b)) o.rpoi
  s.finishOp k o.id (BitVec.ofNat 64 old) poi

/-- R66: the bytes that a read slot took for an operation of one block, and their poison. -/
def RemOp.taken (o : RemOp) : Option (List Byte × Bool) :=
  match o.pieces with
  | [z] =>
    if z.due.isSome then
      let a := o.pa % 256
      some ((List.range o.len).map fun i => z.data.extractLsb' (8 * (a + i)) 8, z.poi.getLsbD (a / 16))
    else none
  | _ => none
/-- R202, R390, R372: a slice performs an operation, a wake leaves, a fire request arrives; one for the entry reserved for
barriers, which nobody owns, is dropped and counted (R226, R227). -/
def State.performOp (s : State) (k : Nat) (o : RemOp) : State :=
  let p := (s.tile k).part.getD 0
  match o.kind with
  | .gst =>
    let bs := bytesOf o.len o.data.toNat
    (if inSeq o.pa then s.seqStore p o.pa bs else s.writeDev o.pa bs o.rpoi).finishOp k o.id 0 false
  | .ldg =>
    let r := if inSeq o.pa then (s.seqRead o.pa o.len, false)
      else o.taken.getD (Memory.reads s.dev o.pa o.len, poisonRead s.devPoi o.pa o.len)
    s.finishOp k o.id (BitVec.ofNat 64 (ofBytes r.1)) r.2
  | .amo f => s.performAmo k o fun old b => amoNew f o.len old b
  | .cas c => s.performAmo k o fun old b => if old = c.toNat % 2 ^ (8 * o.len) then b else old
  | .wake =>
    let q := o.pa / 8 % 2 ^ 15
    let v : W32 := o.data.setWidth 32
    let s := s.finishOp k o.id 0 false
    if o.pa / 2 ^ 48 = s.modid.toNat then s.at_ s.gcyc (.wakeWrite (.tile p) q v)
    else s.sendFrame (q % 20) (mkFrame 2 3 0 0 0 s.modid.toNat (o.pa / 2 ^ 48) q v.toNat 0 [])
  | .crdy =>
    let t := s.finishOp k o.id 0 false
    if o.pa = barKey then t.dropWrite (match s.part p with | some q => q.ctl.toNat | none => 0)
    else t.at_ s.gcyc (.seqFire o.pa p)
  | .stg | .stp => s

/-- R369: the part of a transfer that lies in one block: a 16-byte word lands in the window with the poison of its
metadata, or is written with the window's. What a read slot has taken lands as it was taken. -/
def State.moveWord (s : State) (k : Nat) (o : RemOp) (z : Piece) (a : Nat) : State :=
  let w := o.win + (a - o.pa)
  if o.kind == .stg then
    let r := if z.due.isSome then
        ((List.range 16).map fun i => z.data.extractLsb' (8 * (a % 256 + i)) 8, z.poi.getLsbD (a % 256 / 16))
      else (Memory.reads s.dev a 16, poisonRead s.devPoi a 16)
    s.modTile k fun t => t.writeSram w r.1 (r.2 || o.gpoi || z.poi.getLsbD (a % 256 / 16))
  else s.writeDev a (Memory.reads (s.tile k).sram w 16) (poisonRead (s.tile k).spoi w 16 || z.poi.getLsbD (a % 256 / 16))
/-- The addresses of the 16-byte words of a transfer that lie in a block. -/
def RemOp.wordsIn (o : RemOp) (blk : Nat) : List Nat :=
  ((List.range 16).map fun i => 256 * blk + 16 * i).filter fun a => o.pa ≤ a && a < o.pa + o.len
/-- R197, R369: a block of a transfer is moved: its slot's data are there, or a deadline presses. -/
def Piece.moves (z : Piece) (gcyc : Nat) (last : Bool) : Bool := !z.done && (last || z.due.any (· ≤ gcyc))
/-- R197, R369: a transfer moves the blocks that are due, when a deadline presses every one left, and is performed
once it has moved them all. An STP reads SRAM, whose corrected errors count (R80). -/
def State.performStage (s : State) (k : Nat) (o : RemOp) : State :=
  let last := s.pressed k o.id
  let go := fun (z : Piece) => z.moves s.gcyc last
  let t := (o.pieces.filter go).foldl (fun s z => (o.wordsIn z.blk).foldl (fun s a => s.moveWord k o z a) s) s
  let t := t.modTile k fun t => t.modOp o.id fun o =>
    { o with pieces := o.pieces.map fun z => if z.moves s.gcyc last then { z with done := true } else z }
  let t := if o.kind == .stp then t.detect k else t
  if o.pieces.all fun z => z.done || go z then t.finishOp k o.id 0 false else t

/-- An operation of a tile that still has to act. -/
def State.openOp (s : State) (k id : Nat) : Option RemOp := (s.tile k).ops.find? fun o => o.id = id && o.open_

/-- SLICE_ACCESS (R202, R66): an access, at the cycle its slot gives it or at its deadline, unless an order rule holds it
back; then it is tried again in the next cycle (DEDUCED, log 22). -/
def execSliceAccess (x y id : Nat) (s : State) : Out :=
  let k := tileKey x y
  match s.openOp k id with
  | none => .next s
  | some o =>
    if o.staged then .next s
    else if s.opHeld k o then .next (s.at_ (s.gcyc + 1) (.sliceAccess x y id))
    else if o.single && !present o.pa o.len then .fault .physicalAddressAbsent
    else .next (s.performOp k o)
/-- STAGING_COMPLETE (R369, R66): the blocks of a transfer that are due, unless a flag holds it back (DEDUCED, log 22). -/
def execStagingComplete (x y id : Nat) (s : State) : Out :=
  let k := tileKey x y
  match s.openOp k id with
  | none => .next s
  | some o =>
    if !o.staged then .next s
    else if s.opHeld k o then .next (s.at_ (s.gcyc + 1) (.stagingComplete x y id))
    else if !present o.pa o.len then .fault .physicalAddressAbsent
    else .next (s.performStage k o)

/-! ## Replies and checks (R199, R200) -/

/-- R200: the reply due first at or before a cycle (DESIGN CHOICE, log 62). -/
def Tile.dueReply (t : Tile) (l : Nat) : Option RemOp :=
  t.ops.find? fun o => (o.kind == .ldg || o.isAmo) && o.deadline ≤ l && o.dest < 32

/-- REPLY_DELIVERY (R200, R170, R389): the reply is written at c + deadline; an absent one traps and poisons. A reply
delivered leaves its holder: its destination is set aside (DEDUCED, log 45; DESIGN CHOICE, log 62). -/
def execReplyDelivery (x y : Nat) (s : State) : Out :=
  let k := tileKey x y
  let t := s.tile k
  .next (match t.dueReply (s.lcycOf k) with
    | none => s
    | some o =>
      let ok := o.done && !o.late
      let old := t.task.readS o.dest
      let v : Scalar :=
        if ok then ⟨o.result, o.fmt, o.rpoi || o.gpoi || t.voided⟩ else ⟨old.v, o.fmt, true⟩
      let s := s.setTile k { (t.modOp o.id fun o => { o with dest := 32 }) with task := t.task.writeS o.dest v }
      if ok || o.mute then s else s.raisePost k 1 5 o.slot o.bundle)

/-- DEADLINE_CHECK (R199): in ENDED a deadline passes. -/
def execDeadlineCheck (x y : Nat) (s : State) : Out :=
  let k := tileKey x y
  let l := s.lcycOf k
  let due := (s.tile k).dueChecks l
  .next ((s.modTile k fun t => t.markChecked l).missed k due)

end Sys2Proof.Machine
end

