-- ==== Sys2Proof/Machine/Queues.lean ====
section
/-! DEFINITION. Queues: wakes (R97, R98), taking entries (R99, R114 to R117), dependences (R115, R154), heads and the
records but LAUNCH (R116, R148), receipts (R130, R131). -/

namespace Sys2Proof.Machine

/-! ## Records (R114 to R116) -/

/-- A field of a record: n bytes at offset o. -/
def recF (r : BitVec 2048) (o n : Nat) : Nat := r.toNat / 2 ^ (8 * o) % 2 ^ (8 * n)
/-- KIND. -/
def Rec.kind (r : Rec) : Nat := recF r.bytes 8 1
/-- BARRIER. -/
def Rec.barrier (r : Rec) : Bool := r.bytes.getLsbD 72
/-- NDEP. -/
def Rec.ndep (r : Rec) : Nat := recF r.bytes 10 1
/-- Word 0 of dependence n. -/
def depWord (b : BitVec 2048) (n : Nat) : Nat := recF b (16 + 16 * n) 8
/-- Word 1 of dependence n. -/
def depValue (b : BitVec 2048) (n : Nat) : Nat := recF b (24 + 16 * n) 8
/-- TYPE of a dependence. -/
def depType (w : Nat) : Nat := w / 2 ^ 62

/-- R116: the first byte of a record that its kind leaves unused. -/
def bodyEnd (kind : Nat) : Nat :=
  match kind with
  | 1 => 152
  | 3 => 161
  | 5 => 156
  | _ => 144
/-- R115: what is wrong with dependence n of a record that uses `ndep` of them: its offset. -/
def depBad (b : BitVec 2048) (ndep n : Nat) : Option Nat :=
  let w := depWord b n
  let v := depValue b n
  let o := 16 + 16 * n
  if ndep ≤ n then if w = 0 then (if v = 0 then none else some o) else some o
  else if depType w = 3 || w / 2 ^ 56 % 64 != 0 then some o
  else if depType w = 0 then
    if w / 2 ^ 47 % 2 ^ 15 != 0 then some o else if v != 0 then some (o + 8) else none
  else if w % 8 != 0 then some o else none
/-- R117: entry `idx` names, at an earlier place of its queue, a LAUNCH; a record that was malformed has no kind
(DEDUCED, log 53). -/
def Queue.namesLaunch (d : Queue) (idx i : W32) : Bool :=
  1 ≤ (idx - i).toNat && (idx - i).toNat ≤ 255 && d.recs.any fun r => r.idx == i && r.kind == 1
/-- R114 to R117: the offset of the first bad field of the record at entry `idx` (DEDUCED, log 53). -/
def Queue.recordBad (d : Queue) (idx : W32) (b : BitVec 2048) : Option Nat :=
  let kind := recF b 8 1
  let ndep := recF b 10 1
  let chk (bad : Bool) (o : Nat) : Option Nat := if bad then some o else none
  [chk (kind = 0 || 5 < kind) 8, chk (recF b 9 1 / 2 != 0) 9, chk (8 < ndep) 10, chk (recF b 11 5 != 0) 11,
    (List.range 8).findSome? (depBad b ndep),
    chk ((kind = 1 || kind = 3) && recF b 144 1 / 2 % 4 != 0) 144,
    chk (kind = 5 && recF b 144 1 / 2 != 0) 144,
    chk (kind = 5 && !d.namesLaunch idx (BitVec.ofNat 32 (recF b 152 4))) 152,
    chk (kind = 3 && 1 < recF b 160 1) 160,
    ((List.range 256).drop (bodyEnd kind)).find? fun o => recF b o 1 != 0].findSome? id

/-! ## Dependences (R115, R154) -/

/-- R154: a TYPE 0 dependence is met. -/
def State.entryDone (s : State) (w : Nat) : Bool :=
  let d := s.queue (w / 2 ^ 32 % 2 ^ 15)
  let i : W32 := BitVec.ofNat 32 w
  (1 ≤ (d.cidx - i).toNat && (d.cidx - i).toNat < 2 ^ 31) ||
    (d.en && (i - d.cidx).toNat < 256 && d.recs.any fun r => r.idx == i && r.done)
/-- R115: a TYPE 1 or 2 dependence is met by the event word as it stands. -/
def State.eventMet (s : State) (w v : Nat) : Bool :=
  let a := w % 2 ^ 56
  v ≤ memNat (if depType w = 1 then s.dev else s.host) (a / 8 * 8) 8
/-- R115: a record's dependences judged; the event words are read only where `events` says so. A dependence that has
been met stays met. -/
def State.judge (s : State) (events : Bool) (r : Rec) : Rec :=
  let met := (List.range r.ndep).foldl (fun (m : Byte) n =>
    let w := depWord r.bytes n
    let ok := if depType w = 0 then s.entryDone w else events && s.eventMet w (depValue r.bytes n)
    if ok then m ||| (1#8 <<< n) else m) r.met
  { r with met := met, recheck := if events then s.gcyc + 2 ^ 16 else r.recheck }
/-- Every dependence of a record has been met. -/
def Rec.depsMet (r : Rec) : Bool := (List.range r.ndep).all fun n => r.met.getLsbD n
/-- A record has an event word still to be met. -/
def Rec.awaitsEvent (r : Rec) : Bool :=
  !r.done && (List.range r.ndep).any fun n => !r.met.getLsbD n && depType (depWord r.bytes n) != 0
/-- The records of a queue judged. -/
def State.judgeQueue (s : State) (events : Bool) (q : Nat) : State :=
  s.modQueue q fun d => { d with recs := d.recs.map fun r => if r.done then r else s.judge events r }
/-- R154: every queue's entry dependences judged, after a completion. -/
def State.judgeAll (s : State) : State := (skeys s.queues).foldl (fun s q => s.judgeQueue false q) s

/-! ## Completion (R154) -/

/-- R154: CIDX, the lowest index not yet completed. -/
def nextOpen (recs : List Rec) : Nat → W32 → W32
  | 0, i => i
  | n + 1, i => if recs.any fun r => r.idx == i && r.done then nextOpen recs n (i + 1) else i
/-- A record completes; those more than 255 entries behind CIDX are no longer named by anything. -/
def Queue.finish (d : Queue) (i : W32) : Queue :=
  let recs := d.recs.map fun r => if r.idx = i then { r with started := true, done := true } else r
  let c := nextOpen recs (recs.length + 1) d.cidx
  { d with cidx := c, recs := recs.filter fun r => !(r.done && 256 ≤ (c - r.idx).toNat && (c - r.idx).toNat < 2 ^ 31) }
/-- R116, R154: a record of a queue completes. -/
def State.complete (s : State) (q : Nat) (i : W32) : State := (s.modQueue q fun d => d.finish i).judgeAll

/-! ## Heads (R148) -/

/-- R148: the earliest record not started, or the WAIT or FENCE that stays at the head. -/
def Queue.head (d : Queue) : Option Rec :=
  d.recs.find? fun r => !r.done && (!r.started || r.kind == 2 || r.kind == 4)
/-- R148: the record at the head may start. -/
def Queue.mayStart (d : Queue) (r : Rec) : Bool := !r.started && r.depsMet && (!r.barrier || d.cidx == r.idx)
/-- The record at the head, if it has this index and may start. -/
def Queue.starts (d : Queue) (idx : Nat) : Bool :=
  match d.head with
  | some r => r.idx.toNat == idx && d.mayStart r
  | none => false
/-- R116: every earlier record of the queue has completed. -/
def Queue.first (d : Queue) (idx : Nat) : Bool := d.cidx.toNat == idx
/-- A record that has started (DEDUCED, log 26). -/
def Queue.begin (d : Queue) (idx : Nat) : Queue :=
  { d with recs := d.recs.map fun r => if r.idx.toNat = idx then { r with started := true } else r }
/-- A record of a kind under way. -/
def Queue.underWay (d : Queue) (idx kind : Nat) : Option Rec :=
  d.recs.find? fun r => r.idx.toNat == idx && r.kind == kind && r.started && !r.done

/-! ## Wakes (R97, R98) -/

/-- R98: an accepted value of a wake. -/
def wakeAccepted (widx x : W32) : Bool := x != widx && (x - widx).toNat < 2 ^ 31
/-- R97: a source may wake a queue. -/
def Queue.allows (d : Queue) : WakeSrc → Bool
  | .host _ => true
  | .tile p => d.ow || d.pset.contains p
  | .frame _ => d.ow
/-- R97: the module a wake comes from. -/
def State.wakeModule (s : State) : WakeSrc → Nat
  | .host _ => s.modid.toNat
  | .tile _ => s.modid.toNat
  | .frame m => m.toNat
/-- The partition a wake comes from. -/
def wakePart : WakeSrc → Nat
  | .host _ => none16
  | .tile p => p
  | .frame _ => none16
/-- R97, R98, R99: a wake write arrives (DEDUCED, log 53). -/
def State.wake (s : State) (src : WakeSrc) (q : Nat) (v : W32) : State :=
  let d := s.queue q
  if !d.en then s
  else if !d.allows src then s.event d.qport (eventRec 0x11 q (wakePart src) (s.wakeModule src) s.gcyc 0)
  else s.modQueue q fun d => { d with widx := if wakeAccepted d.widx v then v else d.widx, asleep := false }

/-- WAKE_WRITE (R97 to R99, R55): a host's reaches the window of a port that answers; a queue is held by the front end of its
chiplet, which is to have power (R114, R34). -/
def execWakeWrite (src : WakeSrc) (q : Nat) (v : W32) (s : State) : Out :=
  let arrives := match src with
    | .host p => p < 8 && s.answers p
    | .tile _ | .frame _ => true
  .next (if arrives && q < 2 ^ 15 && s.chipletLit (q % 28) then s.wake src q v else s)
/-- WAKE_FRAME (R60, R63, R34) (DEDUCED, log 44; DESIGN CHOICE, log 60). -/
def execWakeFrame (port : Nat) (f : Frame) (s : State) : Out :=
  .next (if !s.portLit port then s
    else if !(s.frameOk f 2 255) then s.dropFrame
    else s.wake (.frame (BitVec.ofNat 16 (fField f 4 2))) (fTidx f) (BitVec.ofNat 32 (fChunk f)))

/-! ## Taking entries (R99, R148) -/

/-- R99, R148: the front end looks at the entry at RIDX. -/
def Queue.looks (d : Queue) : Bool :=
  d.en && d.st == .running && !d.asleep && d.widx != d.ridx && (d.widx - d.ridx).toNat < 2 ^ 31 &&
    (d.recs.filter fun r => !r.done).length < 256
/-- R99: the 256 bytes of an entry. -/
def State.entryAt (s : State) (d : Queue) (i : W32) : BitVec 2048 :=
  let a := d.field 0 8 / 256 * 256 + 256 * (i.toNat % 2 ^ d.field 8 1)
  BitVec.ofNat 2048 (memNat (if d.desc.getLsbD 0 then s.dev else s.host) a 256)

/-- ENTRY_TAKE (R99, R114 to R117, R96) (DEDUCED, log 53). -/
def execEntryTake (q : Nat) (s : State) : Out :=
  let d := s.queue q
  let i := d.ridx
  let b := s.entryAt d i
  .next (if !d.looks then s
    else if recF b 0 8 != i.toNat then s.modQueue q fun d => { d with asleep := true }
    else
      let s := s.modQueue q fun d => { d with ridx := i + 1 }
      match d.recordBad i b with
      | some o =>
        let s := s.modQueue q fun d => { d with recs := d.recs ++ [⟨i, 0, d.prio, 0, true, false, 0, 0, false, 0⟩] }
        ((s.queueError q 2 0 o none16).complete q i).writeStatus q
      | none =>
        let r := s.judge true ⟨i, b, d.prio, 0, false, false, 0, 0, false, 0⟩
        let s := (s.modQueue q fun d => { d with recs := d.recs ++ [r] }).writeStatus q
        if recF b 8 1 = 1 then s.first (.launch q i.toNat) else s)

/-- DEPENDENCE_RECHECK (R115): the event words a queue's records wait for are read again. -/
def execDependenceRecheck (q : Nat) (s : State) : Out := .next (s.judgeQueue true q)

/-- LAUNCH (R116, R129): a LAUNCH record is taken; it gets the next LSEQ of the queue's context (DEDUCED, log 26). -/
def execLaunch (q idx : Nat) (s : State) : Out :=
  let d := s.queue q
  let n := sget 0 s.lseqs d.ctx
  .next { (s.modQueue q fun d =>
      { d with recs := d.recs.map fun r => if r.idx.toNat = idx && r.kind = 1 then { r with lseq := n } else r }) with
    lseqs := sset 0 s.lseqs d.ctx (n + 1) }

/-! ## The other records (R116) -/

/-- WAIT (R116, R148): it completes once its dependences are met. -/
def execWait (q idx : Nat) (s : State) : Out :=
  .next (if (s.queue q).starts idx then s.complete q (BitVec.ofNat 32 idx) else s)
/-- FENCE (R116, R148): it starts, and completes once every earlier record has. -/
def execFence (q idx : Nat) (s : State) : Out :=
  let s := if (s.queue q).starts idx then s.modQueue q fun d => d.begin idx else s
  .next (if ((s.queue q).underWay idx 4).isSome && (s.queue q).first idx then s.complete q (BitVec.ofNat 32 idx) else s)
/-- SIGNAL (R116, R148): it starts, and the head moves on. -/
def execSignal (q idx : Nat) (s : State) : Out :=
  .next (if (s.queue q).starts idx then s.modQueue q fun d => d.begin idx else s)
/-- SIGNAL_WRITE (R116): once every earlier record has completed X is stored or added; the event words of every queue
are read again afterwards (R115). -/
def execSignalWrite (q idx : Nat) (s : State) : Out :=
  let d := s.queue q
  .next (match d.underWay idx 3 with
    | none => s
    | some r =>
      if !d.first idx then s
      else
        let w := recF r.bytes 144 8
        let x := recF r.bytes 152 8
        let x := if recF r.bytes 160 1 = 1 then ofBytes (s.readAt w 8) + x else x
        let s := (s.writeAt w (bytesOf 8 x)).complete q r.idx
        (skeys s.queues).foldl (fun s j =>
          if (s.queue j).recs.any Rec.awaitsEvent then s.soon (.dependenceRecheck j) else s) s)
/-- RECEIPT (R116, R148): it starts, and the head moves on. -/
def execReceipt (q idx : Nat) (s : State) : Out :=
  .next (if (s.queue q).starts idx then s.modQueue q fun d => d.begin idx else s)
/-- RECEIPT_WRITE (R130): the receipt of a launch that has ended is written. -/
def execReceiptWrite (q idx : Nat) (s : State) : Out :=
  let d := s.queue q
  .next (match d.underWay idx 5 with
    | none => s
    | some r =>
      match d.recs.find? fun l => l.idx.toNat == recF r.bytes 152 4 && l.kind == 1 && l.done with
      | none => s
      | some l =>
        (s.writeAt (recF r.bytes 144 8) (bytesOf 192 l.rcpt.toNat ++ bytesOf 64 (receiptSig l.rcpt).toNat)).complete q r.idx)

end Sys2Proof.Machine
end

