-- ==== Sys2Proof/Machine/Fabric.lean ====
section
/-! DEFINITION. The scheduled fabric: routes (R209), links and collisions (R210, R212), arrival registers (R211), the
landing of neighbour bursts (R366, R361), and SEND (R383). -/

namespace Sys2Proof.Machine

/-- The opposite side: the side through which a word leaving on a side enters the next tile (R210). -/
def opposite : Side → Side
  | .n => .s
  | .e => .w
  | .s => .n
  | .w => .e
/-- The sides in the order of R212. -/
def sideNum : Side → Nat
  | .n => 0
  | .e => 1
  | .s => 2
  | .w => 3
/-- The step a side makes in x and y; y grows to the south (R210). -/
def sideStep : Side → Int × Int
  | .n => (0, -1)
  | .e => (1, 0)
  | .s => (0, 1)
  | .w => (-1, 0)

/-- R209: the side of the next hop of a remaining displacement. -/
def nextSide (dx dy : Int) (yx : Bool) : Side :=
  let alongX : Side := if 0 < dx then .e else .w
  let alongY : Side := if 0 < dy then .s else .n
  if yx then if dy != 0 then alongY else alongX else if dx != 0 then alongX else alongY

/-- R164: the bundle issued at a cycle, or the one whose wait holds issue then; asked before the cycle's issue. -/
def Ctx.bundleDue (c : Ctx) (l : Nat) : Nat :=
  match c.hold with
  | some h => if l < h.until_ then h.bundle else c.pc
  | none => if c.todo.isEmpty && c.next ≤ l then c.pc else c.bundle

/-- A condition that no instruction of the tile started (R164, R166): slot 0xFF. -/
def State.raiseBare (s : State) (k cause sub : Nat) : State :=
  s.raisePost k cause sub 0xFF ((s.tile k).task.bundleDue (s.lcycOf k))

/-- SEND (R383): the word enters its first link at c + 1 (DEDUCED, log 57). -/
def execSend (g : Guard) (v : R9) (dx : BitVec 9) (dy : Byte) (yx : Bool) (s : State) : Out :=
  .next (s.slot g [] fun gp s => do
    let k := s.myKey
    need (s.rowOk v.toNat) 7 5
    let x1 : Int := (k % 256 : Nat) + dx.toInt
    let y1 : Int := (k / 256 : Nat) + dy.toInt
    match s.partOf k with
    | none => .error (8, 1)
    | some q =>
      need (0 ≤ x1 && 0 ≤ y1 && q.holds x1.toNat y1.toNat) 8 1
      let t := s.tile (tileKey x1.toNat y1.toNat)
      need (t.part == (s.tile k).part && t.mapped) 8 1
      let w := (s.tile k).readV v.toNat
      let w := { w with poi := w.poi || gp || (s.tile k).voided }
      let l : LinkWord := ⟨k % 256, k / 256, nextSide dx.toInt dy.toInt yx, s.now + 1, none, dx.toInt, dy.toInt, yx, none, 0, w,
        s.ctx.bundle⟩
      return s.modPartOf k fun q => { q with links := q.links ++ [l] })

/-- R212: the order of inputs to a link: straight on, then N, E, S, W, then a burst row and a SEND word of the tile. -/
def LinkWord.rank (l : LinkWord) : Nat :=
  match l.inn with
  | some d => if d == opposite l.dir then 0 else 1 + sideNum d
  | none => if l.burst.isSome then 5 else 6

/-- The word of least rank. -/
def firstWord : List LinkWord → Option LinkWord
  | [] => none
  | l :: ls =>
    match firstWord ls with
    | none => some l
    | some m => if m.rank < l.rank then some m else some l

/-- R210: a word over its link: at the next tile it enters its next link, or it arrives. A burst row into a borrowed
range of its receiver takes 4 cycles more (R79). -/
def State.crossLink (s : State) (p : Nat) (l : LinkWord) : State :=
  let st := sideStep l.dir
  let x := ((l.x : Int) + st.1).toNat
  let y := ((l.y : Int) + st.2).toNat
  let dx := l.dx - st.1
  let dy := l.dy - st.2
  let at_ := l.enter + 2 + stitchTo l.x l.y l.dir
  s.modPart p fun q =>
    if dx = 0 ∧ dy = 0 then
      let lag := match l.burst with
        | some a => (s.tile (tileKey x y)).lagOf (wordsOf a 128)
        | none => 0
      { q with arrivals := q.arrivals ++ [⟨x, y, opposite l.dir, at_ + lag, l.burst, l.poi8, l.w⟩] }
    else
      { q with links := q.links ++ [{ l with x := x, y := y, dir := nextSide dx dy l.yx, enter := at_, inn := some (opposite l.dir),
                                              dx := dx, dy := dy }] }

/-- FABRIC_HOP (R210, R212): the words that enter a link in a cycle. Of several, one goes on poisoned and the others
are lost; the tile at the sending end traps. -/
def execFabricHop (x y : Nat) (dir : Side) (s : State) : Out :=
  let k := tileKey x y
  .next (match (s.tile k).part with
    | none => s
    | some p =>
      match s.part p with
      | none => s
      | some q =>
        let here (l : LinkWord) : Bool := l.x = x && l.y = y && l.dir == dir && l.enter ≤ s.lcycOf k
        let ws := q.links.filter here
        match firstWord ws with
        | none => s
        | some l =>
          let s := s.setPart p { q with links := q.links.filter fun l => !here l }
          if ws.length ≤ 1 then s.crossLink p l
          else
            let own := ws.filter fun l => l.inn.isNone
            let s := match own.find? (fun l => l.burst.isNone), own with
              | some o, _ => s.raisePost k 1 6 5 o.bundle
              | none, o :: _ => s.raisePost k 1 6 6 o.bundle
              | none, [] => s.raiseBare k 1 6
            s.crossLink p { l with w := { l.w with poi := true }, poi8 := 0xFF })

/-- WORD_ARRIVAL (R211): a word due in an arrival register; into a full one it collides, and lands poisoned
(DEDUCED, log 41). -/
def execWordArrival (x y : Nat) (port : Side) (s : State) : Out :=
  let k := tileKey x y
  .next (match (s.tile k).part with
    | none => s
    | some p =>
      match s.part p with
      | none => s
      | some q =>
        match q.arrivals.find? fun a => a.x = x && a.y = y && a.port == port && a.burst.isNone && a.due ≤ s.lcycOf k with
        | none => s
        | some a =>
          let s := (s.setPart p { q with arrivals := q.arrivals.erase a }).detect k
          match (s.tile k).arr port with
          | none => s.modTile k fun t => t.setArr port (some a.w)
          | some _ => (s.modTile k fun t => t.setArr port (some { a.w with poi := true })).raiseBare k 1 6)

/-- The 16-byte words of a row of bytes written with their own poison bits. -/
def Tile.writeRow (t : Tile) (ws : List Nat) (bits : Row) (poi8 : BitVec 8) (all : Bool) : Tile :=
  (ws.zip (List.range ws.length)).foldl (fun t w =>
    t.writeSram (16 * w.1) (pieceBytes bits ⟨16 * w.2, 0, 16⟩) (poi8.getLsbD w.2 || all)) t

/-- BURST_ROW_LANDING (R366, R184, R361): a row lands at the end of its cycle, after the tile's own writes. A clash with
one of them, or a write reservation, traps the receiver. -/
def execBurstRowLanding (x y : Nat) (s : State) : Out :=
  let k := tileKey x y
  .next (match (s.tile k).part with
    | none => s
    | some p =>
      match s.part p with
      | none => s
      | some q =>
        match q.arrivals.find? fun a => a.x = x && a.y = y && a.burst.isSome && a.due ≤ s.lcycOf k with
        | none => s
        | some a =>
          let s := (s.setPart p { q with arrivals := q.arrivals.erase a }).detect k
          let ws := wordsOf (a.burst.getD 0) 128
          let t := s.tile k
          let l := s.lcycOf k
          let clash := t.spanHit ws false l || (banksOf [(a.burst.getD 0, 128)] &&& t.portBanks l true) != 0
          let s := if clash then s.raiseBare k 1 2 else s
          s.modTile k fun t => t.writeRow ws a.w.bits a.poi8 a.w.poi)

end Sys2Proof.Machine
end

