-- ==== Sys2Proof/Machine/Matrix.lean ====
section
/-! DEFINITION. The MX slot: the matrix engine with its pops, scale reads, K steps and row finals, the port instructions,
and the follow-on of CPT (R190, R191, R252, R253, R352 to R359, R365). -/

namespace Sys2Proof.Machine

/-! ## Accumulator tiles (R190, R353) -/

/-- Accumulator tile k. -/
def Tile.accAt (t : Tile) (k : Nat) : AccTile := sget AccTile.zero t.acc k
/-- The tile with another accumulator tile k. -/
def Tile.setAcc (t : Tile) (k : Nat) (a : AccTile) : Tile := { t with acc := sset AccTile.zero t.acc k a }
/-- Row r of an accumulator tile. -/
def AccTile.row (a : AccTile) (r : Nat) : AccRow := sget AccRow.zero a.rows r
/-- The accumulator tile with another row r. -/
def AccTile.setRow (a : AccTile) (r : Nat) (v : AccRow) : AccTile := { a with rows := sset AccRow.zero a.rows r v }
/-- Element j of a row of 32 elements. -/
def AccRow.elem (a : AccRow) (j : Nat) : Nat := Machine.elem 32 a.bits j

/-- The rows, of n from one on, exist for the tile's task (R183, R354). -/
def State.rowsFit (s : State) (k base n : Nat) : Bool := base + n ≤ 512 && base + n ≤ (s.bankOf k).rows

/-- R353: a command becomes the latest writer of a tile at c + 1; the watermark reads its first row. -/
def Tile.takeAcc (t : Tile) (l acc row0 : Nat) : Nat × Tile :=
  let id := t.nextId + 1
  (id, { t with nextId := id, finals := t.finals ++ [⟨l + 1, acc, 32, none, row0, id⟩] })

/-- R353: the watermark that row u of n, from row0 on, leaves at its final. -/
def markOf (row0 n u : Nat) : Nat := if u + 1 = n then 32 else row0 + u + 1

/-- R161, R353: a row becomes final; a row of a faulting instruction takes poison. -/
def AccTile.land (a : AccTile) (e : AccFinal) : AccTile :=
  if e.row = 32 then { a with wm := e.wmark, writer := e.writer }
  else
    let a := a.setRow e.row (e.val.getD { a.row e.row with poi := true })
    if a.writer = e.writer then { a with wm := e.wmark } else a

/-! ## The K step (R241, R252, R253) -/

/-- R241: the K indices of a step. -/
def stepLen (f : Fmt) : Nat := 384 / f.width
/-- R241: the scale blocks of a step; a format that carries no scales reads the scale 0x7F, which is 1. -/
def stepBlocks (f : Fmt) : Nat := stepLen f / 16
/-- R241: element k of a 48-byte operand row. -/
def opElem (f : Fmt) (r : TroughRow) (k : Nat) : Nat := r.bits.toNat / 2 ^ (f.width * k) % 2 ^ f.width
/-- R242: byte i of a scale image. -/
def scaleByte (im : BitVec 2048) (i : Nat) : Nat := (im >>> (8 * i)).toNat % 256
/-- R242: the scale 0x7F in every place. -/
def unitScales : BitVec 2048 := BitVec.ofNat 2048 (packNat 8 (List.replicate 256 0x7F))

/-- R252, R253: D of one element and step: the exact sum of the scaled products, with the special values. -/
def kSum (fa fb : Fmt) (st : KStep) (i j : Nat) (a b : TroughRow) : FNum :=
  let nb := stepBlocks fa
  (List.range (stepLen fa)).foldl (fun d k =>
    let sa := scaleByte st.sa (nb * i + k / 16)
    let sb := scaleByte st.sb (nb * j + k / 16)
    let p := ((fa.value (opElem fa a k)).mul (fb.value (opElem fb b k))).1
    let p := if sa = 255 ∨ sb = 255 then .nan false else p.scale ((sa : Int) + sb - 254)
    (d.add .rne p).1) .zero

/-- R252: one K step of one accumulator element. -/
def kStep (fa fb : Fmt) (st : KStep) (i j x : Nat) : Nat :=
  let a := st.a.getD i ⟨0, true⟩
  let b := st.b.getD j ⟨0, true⟩
  if fa == .i8 then
    let d := (List.range (stepLen fa)).foldl (fun d k =>
      d + toSigned 8 (opElem fa a k) * toSigned 8 (opElem fb b k)) (0 : Int)
    ofSigned 32 (toSigned 32 x + d)
  else plainBits .fp32 ((Fmt.fp32.value x).add .rne (kSum fa fb st i j a b)).1

/-- R355: the value of accumulator row r at its final. -/
def MxCmd.rowBits (m : MxCmd) (old : AccRow) (r : Nat) : Row :=
  let x0 (j : Nat) : Nat := if m.z then 0 else old.elem j
  BitVec.ofNat 1024 (packNat 32 ((List.range 32).map fun j =>
    m.steps.foldl (fun x st => kStep m.fa m.fb st r j x) (x0 j)))

/-- R357: the poison of accumulator row r at its final. -/
def MxCmd.rowPoi (m : MxCmd) (old : AccRow) (r : Nat) : Bool :=
  m.poi || (!m.z && old.poi) ||
    m.steps.any fun st => st.spoi || (st.a.getD r ⟨0, true⟩).poi || st.b.any (·.poi)

/-! ## Issue of an engine command (R352, R354, R355) -/

/-- R356: the rows of a scale image of one step. -/
def scaleRows (f : Fmt) : Nat := if f == .e2m1 then 2 else 1

/-- R352, R355: an engine command issued at the current LCYC of tile k; a poisoned guard poisons every row. The format it
records at c is in place for a port instruction of the same bundle that looks at it (R13, R14) (DESIGN CHOICE, log 65). -/
def State.engine (s : State) (k slot bundle : Nat) (gp z scaled : Bool) (acc nk : Nat) (fa fb : Fmt) (vsa vsb : Nat) :
    Try State := do
  let n := nk + 1
  let l := s.lcycOf k
  need (!scaled || (s.rowsFit k vsa (scaleRows fa * n) && s.rowsFit k vsb (scaleRows fa * n))) 7 5
  let t := s.tile k
  let fp := fa != .i8
  need (z || (t.accAt acc).fp == fp) 2 3
  need (t.mx.all fun m => m.c + 32 * m.n ≤ l) 1 8
  let (id, t) := t.takeAcc l acc 0
  let t := t.setAcc acc { t.accAt acc with fp := fp }
  return s.setTile k
    { t with mx := t.mx ++ [⟨id, l, n, acc, z, scaled, fa, fb, vsa, vsb, bundle, slot, gp, [], 0, 0, 0⟩] }

/-- MMA (R354, R355). -/
def execMma (g : Guard) (z : Bool) (acc : B3) (nk : BitVec 8) (fa fb : Fmt) (s : State) : Out :=
  .next (s.slot g [] fun gp s =>
    s.engine s.myKey s.cur.slot s.ctx.bundle gp z false acc.toNat nk.toNat fa fb 0 0)
/-- MMAS (R354 to R356). -/
def execMmas (g : Guard) (z : Bool) (acc : B3) (nk : BitVec 8) (fa fb : Fmt) (vsa vsb : R9) (s : State) : Out :=
  .next (s.slot g [] fun gp s =>
    s.engine s.myKey s.cur.slot s.ctx.bundle gp z true acc.toNat nk.toNat fa fb vsa.toNat vsb.toNat)

/-! ## The engine at work (R355 to R357) -/

/-- The command with another step i; steps up to it are begun. -/
def MxCmd.setStep (m : MxCmd) (i : Nat) (f : KStep → KStep) : MxCmd :=
  let new : KStep := ⟨[], [], unitScales, unitScales, false⟩
  let steps := m.steps ++ List.replicate (i + 1 - m.steps.length) new
  { m with steps := steps.set i (f (steps.getD i new)) }

/-- The tile with one matrix command changed. -/
def Tile.setMx (t : Tile) (m : MxCmd) : Tile := { t with mx := t.mx.map fun o => if o.id = m.id then m else o }

/-- A pop is due (R355). -/
def MxCmd.popDue (m : MxCmd) (l : Nat) : Bool := m.pops < 32 * m.n && m.c + 2 + m.pops ≤ l
/-- The scales of a step are due (R356). -/
def MxCmd.scaleDue (m : MxCmd) (l : Nat) : Bool := m.scaled && m.scalesRead < m.n && m.c + 32 * m.scalesRead ≤ l
/-- A row final is due (R355). -/
def MxCmd.rowDue (m : MxCmd) (l : Nat) : Bool := m.rows < 32 && m.c + 32 * m.n + m.rows + 6 ≤ l

/-- The next pop of a matrix command (R355, R191): an empty trough gives a poisoned row of zeros and one trap. -/
def execTroughPop (x y : Nat) (s : State) : Out :=
  let k := tileKey x y
  let t := s.tile k
  .next (match t.mx.find? (·.popDue (s.lcycOf k)) with
    | none => s
    | some m =>
      let a := t.trA.headD ⟨0, true⟩
      let b := t.trB.headD ⟨0, true⟩
      let m' := { m.setStep (m.pops / 32) fun st => { st with a := st.a ++ [a], b := st.b ++ [b] } with pops := m.pops + 1 }
      let s' := s.setTile k ({ t with trA := t.trA.tail, trB := t.trB.tail }.setMx m')
      if t.trA.isEmpty || t.trB.isEmpty then s'.raisePost k 1 3 m.slot m.bundle else s')

/-- The scale images of a step as they stand (R356, R242): rows not tagged SCL trap once, the lower subcode first
(DEDUCED, log 47). What the reads of the rows correct is detected (R80). -/
def execScaleRead (x y : Nat) (s : State) : Out :=
  let k := tileKey x y
  let t := s.tile k
  .next (match t.mx.find? (·.scaleDue (s.lcycOf k)) with
    | none => s
    | some m =>
      let h := scaleRows m.fa
      let at_ (v : Nat) : RowReg × RowReg := (t.readV (v + h * m.scalesRead), t.readV (v + h * m.scalesRead + h - 1))
      let image (p : RowReg × RowReg) : BitVec 2048 := p.2.bits ++ p.1.bits
      let wrong (p : RowReg × RowReg) : Bool := p.1.fmt != .scl || p.2.fmt != .scl
      let a := at_ m.vsa
      let b := at_ m.vsb
      let poi := wrong a || wrong b || a.1.poi || a.2.poi || b.1.poi || b.2.poi
      let m' := { m.setStep m.scalesRead fun st => { st with sa := image a, sb := image b, spoi := poi } with
        scalesRead := m.scalesRead + 1 }
      let s' := (s.setTile k (t.setMx m')).detect k
      if wrong a then s'.raisePost k 2 1 m.slot m.bundle
      else if wrong b then s'.raisePost k 2 2 m.slot m.bundle
      else s')

/-- The next row final (R353, R355, R358, R367): of a port instruction, an ACP or a matrix command. -/
def execAccRowFinal (x y : Nat) (s : State) : Out :=
  let k := tileKey x y
  let l := s.lcycOf k
  let t := s.tile k
  .next (match t.finals.find? fun e => e.due ≤ l with
    | some e => (s.setTile k ({ t with finals := t.finals.erase e }.setAcc e.acc ((t.accAt e.acc).land e))).detect k
    | none =>
      match t.mx.find? (·.rowDue l) with
      | none => s
      | some m =>
        let a := t.accAt m.acc
        let old := a.row m.rows
        let e : AccFinal := ⟨l, m.acc, m.rows, some ⟨m.rowBits old m.rows, m.rowPoi old m.rows⟩, markOf 0 32 m.rows, m.id⟩
        let m' := { m with rows := m.rows + 1 }
        let t := (t.setMx m').setAcc m.acc (a.land e)
        (s.setTile k { t with mx := t.mx.filter fun o => o.rows < 32 }).detect k)

/-! ## Port instructions (R358, R359) -/

/-- R161: the rows that a faulting port instruction would have written take poison at their finals. -/
def State.poisonAcc (s : State) (acc row0 n lat : Nat) : State :=
  s.modTile s.myKey fun t =>
    let id := t.nextId + 1
    { t with nextId := id, finals := t.finals ++
      (List.range n).map fun u => (⟨s.lcycOf s.myKey + lat, acc, row0 + u, none, 0, id⟩ : AccFinal) }

/-- The slot rule of an instruction that writes accumulator rows (R266, R262, R161). -/
def State.portSlot (s : State) (g : Guard) (acc : B3) (row0 nr : R5) (lat : Nat) (act : Bool → State → Try State) : State :=
  let gv := s.ctx.guard g
  if gv.on then
    match act gv.poi s with
    | .ok t => t.performed
    | .error f => (s.raise f.1 f.2 s.cur.slot).poisonAcc acc.toNat row0.toNat (nr.toNat + 1) lat
  else s

/-- R358: rows r0 on become final at c + lat. -/
def State.putRows (s : State) (acc row0 : Nat) (lat : Nat) (rows : List AccRow) : State :=
  let l := s.lcycOf s.myKey
  let (id, t) := (s.tile s.myKey).takeAcc l acc row0
  let fs := (List.range rows.length).map fun u =>
    (⟨l + lat, acc, row0 + u, rows[u]?, markOf row0 rows.length u, id⟩ : AccFinal)
  s.setTile s.myKey { t with finals := t.finals ++ fs }

/-- R358: the format rule of MZERO, ALD and ACP IN: a whole tile takes the format at c, a part must carry it. -/
def State.formatRule (s : State) (acc : Nat) (fp : Bool) (row0 n : Nat) : Try State := do
  let t := s.tile s.myKey
  let a := t.accAt acc
  need ((row0 = 0 && n = 32) || a.fp == fp) 2 3
  return s.setTile s.myKey (t.setAcc acc { a with fp := fp })

/-- R358: the source rows of ALD and AADD: granted, and tagged with the format. -/
def State.sourceRows (s : State) (fp : Bool) (vs n : Nat) : Try (List RowReg) := do
  let t := s.tile s.myKey
  let rows := (List.range n).map fun u => t.readV (vs + u)
  need (s.rowsFit s.myKey vs n) 7 5
  need (rows.all fun r => r.fmt == (if fp then .fp32 else .i32)) 2 1
  return rows

/-- MZERO (R358). -/
def execMzero (g : Guard) (acc : B3) (fp : Bool) (row0 nr : R5) (s : State) : Out :=
  .next (s.portSlot g acc row0 nr 1 fun gp s => do
    let n := nr.toNat + 1
    let s ← s.formatRule acc.toNat fp row0.toNat n
    need (((s.tile s.myKey).accAt acc.toNat).wm = 32) 1 1
    return s.putRows acc.toNat row0.toNat 1 (List.replicate n ⟨0, gp⟩))

/-- ALD (R358). -/
def execAld (g : Guard) (acc : B3) (fp : Bool) (vs : R9) (row0 nr : R5) (s : State) : Out :=
  .next (s.portSlot g acc row0 nr 2 fun gp s => do
    let n := nr.toNat + 1
    let rows ← s.sourceRows fp vs.toNat n
    let s ← s.formatRule acc.toNat fp row0.toNat n
    need (((s.tile s.myKey).accAt acc.toNat).wm = 32) 1 1
    return s.putRows acc.toNat row0.toNat 2 (rows.map fun r => ⟨r.bits, r.poi || gp⟩))

/-- R358: AADD of two rows: FP32 rounds RNE with subnormals honoured, I32 wraps. -/
def accAdd (fp : Bool) (a b : Row) : Row := foldRow (if fp then .fadd else .iadd) (if fp then .fp32 else .i32) a b

/-- AADD (R358). -/
def execAadd (g : Guard) (acc : B3) (fp : Bool) (vs : R9) (row0 nr : R5) (s : State) : Out :=
  .next (s.portSlot g acc row0 nr 3 fun gp s => do
    let n := nr.toNat + 1
    let rows ← s.sourceRows fp vs.toNat n
    let a := (s.tile s.myKey).accAt acc.toNat
    need (a.fp == fp) 2 3
    need (a.wm = 32) 1 1
    return s.putRows acc.toNat row0.toNat 3 ((List.range n).map fun u =>
      let o := a.row (row0.toNat + u)
      let r := rows.getD u RowReg.zero
      ⟨accAdd fp o.bits r.bits, o.poi || r.poi || gp⟩))

/-- R359: the targets of a tile of each format. -/
def amvTargets (fp : Bool) : List Fmt := if fp then [.fp32, .bf16, .fp16] else [.i32, .i16, .i8, .fp32]

/-- R359: AMV and AMVT: `at_ u e` is the accumulator element, and `poi u` the poison, that element e of part u, one of
m, reads. -/
def State.moveOut (s : State) (g : Guard) (md : Option Mod) (acc : B3) (t : Fmt) (vd : R9) (nr : R5)
    (wmOk : AccTile → Bool) (at_ : AccTile → Nat → Nat → Nat) (poi : AccTile → Nat → Bool) : State :=
  let q := 32 / t.width
  let d := (nr.toNat + 1) / q
  let md := md.getD Mod.plain
  s.slot g ((List.range d).map fun u => ⟨.row, vd.toNat + u, t, 4⟩) fun gp s => do
    need (s.rowsFit s.myKey vd.toNat d) 7 5
    let a := (s.tile s.myKey).accAt acc.toNat
    need ((amvTargets a.fp).contains t) 2 1
    need (wmOk a) 1 1
    return (List.range d).foldl (fun s u =>
      let vs := (List.range (32 * q)).map fun i =>
        convElem md 0 (if a.fp then .fp32 else .i32) t (at_ a (q * u + i / 32) (i % 32))
      let p := (List.range q).any fun h => poi a (q * u + h)
      s.pushV (vd.toNat + u) t (gp || p) 4 ((wholeRow t.width).pack (vs.map (·.1))) allBits
        (vs.foldl (fun f v => f ||| v.2) 0)) s

/-- AMV (R359). -/
def execAmv (g : Guard) (m : Option Mod) (acc : B3) (t : Fmt) (vd : R9) (row0 nr : R5) (s : State) : Out :=
  .next (s.moveOut g m acc t vd nr (fun a => row0.toNat + nr.toNat + 1 ≤ a.wm)
    (fun a u e => (a.row (row0.toNat + u)).elem e) fun a u => (a.row (row0.toNat + u)).poi)
/-- AMVT (R359): columns; every row of the tile is read. -/
def execAmvt (g : Guard) (m : Option Mod) (acc : B3) (t : Fmt) (vd : R9) (col0 nc : R5) (s : State) : Out :=
  .next (s.moveOut g m acc t vd nc (fun a => a.wm = 32)
    (fun a u e => (a.row e).elem (col0.toNat + u)) fun a _ => (List.range 32).any fun r => (a.row r).poi)

/-! ## The follow-on of CPT (R365) -/

/-- R288, R354: word 2 of an MMA or MMAS as a follow-on carries it: vsa, vsb and fn, none where it is malformed. -/
def followOperands (scaled : Bool) (w : W32) : Option (Nat × Nat × Bool) :=
  let vsa := (w.extractLsb' 23 9).toNat
  let vsb := (w.extractLsb' 14 9).toNat
  let row0 := (w.extractLsb' 9 5).toNat
  let nr := (w.extractLsb' 4 5).toNat
  let fn := (w.extractLsb' 0 4).toNat
  if row0 = 0 ∧ nr = 31 ∧ fn < 2 ∧ (scaled ∨ (vsa = 0 ∧ vsb = 0)) then some (vsa, vsb, fn = 1) else none

/-- The follow-on of a CPT issues into the engine (R365): its guard is read now, its traps are taken now, with the CPT's
bundle and none of its slots (R164) (DEDUCED, log 46). -/
def execFollowOnIssue (x y : Nat) (b : Bool) (s : State) : Out :=
  let k := tileKey x y
  let t := s.tile k
  let take (c : Option ChCmd) : Option ChCmd := c.map fun c => { c with follow := none }
  .next (match (if b then t.tb else t.ta) with
    | none => s
    | some c =>
      match c.follow with
      | none => s
      | some p =>
        let s := s.setTile k (if b then { t with tb := take t.tb } else { t with ta := take t.ta })
        let gv := t.task.guard p.f.g
        if !gv.on then s
        else
          match followOperands p.f.scaled p.w2 with
          | none => s
          | some (vsa, vsb, z) =>
            match s.engine k 6 c.bundle (gv.poi || c.poi) z p.f.scaled p.f.acc.toNat p.f.nk.toNat p.f.fa p.f.fb vsa vsb with
            | .ok s => s
            | .error e => s.raisePost k e.1 e.2 6 c.bundle)

end Sys2Proof.Machine
end

