-- ==== Sys2Proof/Machine/Copy.lean ====
section
/-! DEFINITION. The copy channels of the CP slot: CPY, CPZ, CPT with its follow-on, CPN and ACP (R360 to R367), and the
rows they move. -/

namespace Sys2Proof.Machine

/-! ## Issue checks (R360 to R362) -/

/-- R362, R188: a base is a multiple of 16, and of 1 KiB on a side with an XOR or SKEW swizzle. -/
def baseOk (kind : Swz) (a : Nat) : Bool := a % 16 == 0 && ((kind != .xor && kind != .skew) || a % 1024 == 0)

/-- The words, as byte ranges. -/
def wordRanges (ws : List Nat) : List (Nat × Nat) := ws.map fun w => (16 * w, 16)

/-- The words a command reads. -/
def ChCmd.allReads (c : ChCmd) : List Nat := (List.range c.m).flatMap c.readWords
/-- The words of its own tile a command writes. -/
def ChCmd.allWrites (c : ChCmd) : List Nat := (List.range c.m).flatMap c.writeWords

/-- Some words of one row share a bank. -/
def sameBank (ws : List Nat) : Bool := (ws.map (· % 64)).eraseDups.length != ws.length

/-- R182, R361: a row of a command needs a bank port that is taken in its cycle, or one bank twice. -/
def Tile.portClash (t : Tile) (c : ChCmd) : Bool :=
  (List.range c.m).any fun j =>
    sameBank (c.readWords j) || sameBank (c.writeWords j) ||
      (c.readBanks (c.read0 + j) &&& t.portBanks (c.read0 + j) false) != 0 ||
      (c.writeBanks (c.write0 + j) &&& t.portBanks (c.write0 + j) true) != 0

/-- R185: the spans of a command. -/
def ChCmd.mySpans (c : ChCmd) : List Span :=
  (if c.allReads.isEmpty then [] else [spanOf c.allReads false]) ++
    (if c.allWrites.isEmpty then [] else [spanOf c.allWrites true])

/-- The unit is busy in a cycle (R360). -/
def busyAt (u : Option ChCmd) (l : Nat) : Bool :=
  match u with
  | some c => l ≤ c.busy
  | none => false

/-- A command of `m` rows as it issues, busy for `busy` cycles after c; a borrowed bank takes all of it 4 cycles later
(R79) (DEDUCED, log 39). -/
def State.newCmd (s : State) (what : ChKind) (m busy : Nat) (poi : Bool) (follow : Option PendFollow) : ChCmd :=
  let l := s.now
  let c : ChCmd := ⟨what, l, m, l + busy, s.ctx.bundle, poi, 0, 0, 0, [], [], follow⟩
  let lag := (s.tile s.myKey).lagOf (c.allReads ++ c.allWrites)
  { c with lag := lag, busy := l + busy + lag, follow := follow.map fun p => { p with due := p.due + lag } }

/-- R360, R186, R361: the channel is free, no reservation is met, no bank port is taken. -/
def State.claim (s : State) (unit : Option ChCmd) (c : ChCmd) : Try ChCmd := do
  let t := s.tile s.myKey
  need (!busyAt unit s.now) 1 8
  need (!(t.spansAt s.now).any fun sp => c.mySpans.any fun m => m.meets sp) 1 2
  need (!t.portClash c) 1 2
  return { c with spans := c.mySpans }

/-- The CPNs that still write in a neighbour once a command takes channel G at cycle l (R360, R366). -/
def Tile.tailsAfter (t : Tile) (k l : Nat) : List (Nat × Nat) :=
  (t.gTails.filter fun e => l ≤ e.2) ++
    (match t.g with
    | some o => if o.writes k l then [(o.c, o.lastAccess k)] else []
    | none => [])
/-- A command put on channel G. -/
def State.startG (s : State) (c : ChCmd) : State :=
  let k := s.myKey
  ((s.modTile k fun t => { t with g := some c, gTails := t.tailsAfter k s.now }).undoMeeting c.spans 4).undoMeeting c.spans 5

/-- R183, R362: the windows of a command's own reads and writes. -/
def State.cmdWindow (s : State) (c : ChCmd) : Try Unit := do
  s.window s.myKey false (wordRanges c.allReads)
  s.window s.myKey true (wordRanges c.allWrites)

/-! ## Meanings -/

/-- CPY (R363). -/
def execCpy (g : Guard) (da sa : R5) (rows : Byte) (side : Bool) (kind : Swz) (s : State) : Out :=
  .next (s.slot g [] fun gp s => do
    let vs ← s.cpScalars [(da, 1), (sa, 2)]
    let dst := (vs.getD 0 0).toNat
    let src := (vs.getD 1 0).toNat
    let m := rows.toNat + 1
    need (baseOk (if side then kind else .lin) src && baseOk (if side then .lin else kind) dst) 7 2
    let c := s.newCmd (.cpy dst src side kind) m (m + 1) gp none
    s.cmdWindow c
    let c ← s.claim (s.tile s.myKey).g c
    return s.startG c)

/-- CPZ (R363). -/
def execCpz (g : Guard) (da : R5) (rows : Byte) (s : State) : Out :=
  .next (s.slot g [] fun gp s => do
    let vs ← s.cpScalars [(da, 1)]
    let dst := (vs.getD 0 0).toNat
    let m := rows.toNat + 1
    need (baseOk .lin dst) 7 2
    let c := s.newCmd (.cpz dst) m m gp none
    s.cmdWindow c
    let c ← s.claim (s.tile s.myKey).g c
    return s.startG c)

/-- R364, R365: CPT; `follow` is the first word of its follow-on with the scalar of the second. -/
def State.fill (s : State) (g : Guard) (b : Bool) (sa st : R5) (rows : BitVec 6) (kind : Swz)
    (follow : Option (R5 × Follow)) : State :=
  s.slot g [] fun gp s => do
    let vs ← s.cpScalars ([(sa, 1), (st, 2)] ++ (match follow with
      | some f => [(f.1, 3)]
      | none => []))
    let src := (vs.getD 0 0).toNat
    let stride := (vs.getD 1 0).toNat
    let w2 : W32 := (vs.getD 2 0).setWidth 32
    need (match follow with
      | some f => (followOperands f.2.scaled w2).isSome
      | none => true) 6 2
    need (stride % 16 == 0 && baseOk kind src) 7 2
    let m := rows.toNat + 1
    let busy := m + 2 + (if follow.isSome then 1 else 0)
    let c := s.newCmd (.cpt src stride kind b) m busy gp (follow.map fun f => ⟨f.2, w2, s.now + m + 3⟩)
    s.cmdWindow c
    let t := s.tile s.myKey
    let c ← s.claim (if b then t.tb else t.ta) c
    let s := s.modTile s.myKey fun t => if b then { t with tb := some c } else { t with ta := some c }
    return (s.undoMeeting c.spans 4).undoMeeting c.spans 5

/-- CPT (R364) (DEDUCED, log 46). -/
def execCpt (g : Guard) (b : Bool) (sa st : R5) (rows : BitVec 6) (_side : Bool) (kind : Swz) (s : State) : Out :=
  .next (s.fill g b sa st rows kind none)
/-- CPT with a follow-on (R365) (DEDUCED, log 46). -/
def execCptFollow (g : Guard) (b : Bool) (sa st : R5) (rows : BitVec 6) (_side : Bool) (kind : Swz) (sc : R5) (f : Follow)
    (s : State) : Out :=
  .next (s.fill g b sa st rows kind (some (sc, f)))

/-- The neighbour of tile k on a side, in the partition and mapped by the launch (R366). -/
def State.neighbour (s : State) (k : Nat) (dir : Side) : Option Nat :=
  let x1 : Int := (k % 256 : Nat) + (sideStep dir).1
  let y1 : Int := (k / 256 : Nat) + (sideStep dir).2
  match s.partOf k with
  | none => none
  | some q =>
    let n := tileKey x1.toNat y1.toNat
    if 0 ≤ x1 ∧ 0 ≤ y1 ∧ q.holds x1.toNat y1.toNat ∧ (s.tile n).part = (s.tile k).part ∧ (s.tile n).mapped then some n
    else none

/-- CPN (R366). -/
def execCpn (g : Guard) (dir : Side) (da sa : R5) (rows : Byte) (s : State) : Out :=
  .next (s.slot g [] fun gp s => do
    let vs ← s.cpScalars [(da, 1), (sa, 2)]
    let dst := (vs.getD 0 0).toNat
    let src := (vs.getD 1 0).toNat
    let m := rows.toNat + 1
    match s.neighbour s.myKey dir with
    | none => .error (8, 1)
    | some n =>
      need (baseOk .lin dst && baseOk .lin src) 7 2
      let c := s.newCmd (.cpn dir dst src) m m (gp || (s.tile s.myKey).voided) none
      s.cmdWindow c
      s.window n true [(dst, 128 * m)]
      let c ← s.claim (s.tile s.myKey).g c
      return s.startG c)

/-- ACP (R367). -/
def execAcp (g : Guard) (inn : Bool) (i32 : Bool) (acc : B3) (sa : R5) (row0 nr : R5) (s : State) : Out :=
  .next (s.slot g [] fun gp s => do
    let vs ← s.cpScalars [(sa, 1)]
    let a := (vs.getD 0 0).toNat
    let m := nr.toNat + 1
    need (baseOk .lin a) 7 2
    if inn then
      let (id, t) := (s.tile s.myKey).takeAcc s.now acc.toNat row0.toNat
      let c := s.newCmd (.acpIn acc.toNat row0.toNat a id (!i32)) m (m + 2) gp none
      s.cmdWindow c
      let s' ← (s.setTile s.myKey t).formatRule acc.toNat (!i32) row0.toNat m
      need (((s.tile s.myKey).accAt acc.toNat).wm = 32) 1 1
      let c ← s.claim (s.tile s.myKey).g c
      return s'.startG c
    else
      let c := s.newCmd (.acpOut acc.toNat row0.toNat a) m (m + 1) gp none
      s.cmdWindow c
      let c ← s.claim (s.tile s.myKey).g c
      return s.startG c)

/-! ## The rows of a command (R363 to R367) -/

/-- Channel 0 is TA, 1 TB, 2 G. -/
def Tile.channel (t : Tile) (ch : Nat) : Option ChCmd := if ch = 0 then t.ta else if ch = 1 then t.tb else t.g
/-- The tile with another command on a channel. -/
def Tile.setChannel (t : Tile) (ch : Nat) (c : ChCmd) : Tile :=
  if ch = 0 then { t with ta := some c } else if ch = 1 then { t with tb := some c } else { t with g := some c }

/-- The command reads rows. -/
def ChKind.reads : ChKind → Bool
  | .cpy .. | .cpt .. | .cpn .. | .acpOut .. | .acpIn .. => true
  | .cpz _ | .sweep _ => false
/-- The command writes rows of its own SRAM. -/
def ChKind.writes : ChKind → Bool
  | .cpy .. | .cpz _ | .acpOut .. => true
  | .cpt .. | .cpn .. | .acpIn .. | .sweep _ => false
/-- The command pushes rows. -/
def ChKind.pushes : ChKind → Bool
  | .cpt .. => true
  | .cpy .. | .cpz _ | .cpn .. | .acpOut .. | .acpIn .. | .sweep _ => false

/-- A row read is due. -/
def ChCmd.readDue (c : ChCmd) (l : Nat) : Bool := c.what.reads && c.read < c.m && c.read0 + c.read ≤ l
/-- A row write is due. -/
def ChCmd.writeDue (c : ChCmd) (l : Nat) : Bool := c.what.writes && c.landed < c.m && c.write0 + c.landed ≤ l
/-- A trough push is due (R364). -/
def ChCmd.pushDue (c : ChCmd) (l : Nat) : Bool := c.what.pushes && c.landed < c.m && c.c + c.lag + 3 + c.landed ≤ l

/-- Words of SRAM as they stand, with their poison. -/
def Tile.readWordRow (t : Tile) (j : Nat) (ws : List Nat) (poi : Bool) : ChRow :=
  ⟨j, BitVec.ofNat 1024 (ofBytes (ws.flatMap fun w => Memory.reads t.sram (16 * w) 16)),
    (if poi then 0xFF else 0) |||
      BitVec.ofNat 8 (packNat 1 (ws.map fun w => (sget false t.spoi w).toNat))⟩

/-- R363 to R367: row `read` of a command is read. -/
def State.copyRead (s : State) (k ch : Nat) (c : ChCmd) : State :=
  let t := s.tile k
  let l := s.lcycOf k
  let j := c.read
  let r := t.readWordRow j (c.readWords j) c.poi
  let next := { c with read := j + 1 }
  match c.what with
  | .cpn dir dst _ =>
    let w : LinkWord := ⟨k % 256, k / 256, dir, l + 1, none, (sideStep dir).1, (sideStep dir).2, false, some (dst + 128 * j),
      r.poi, ⟨r.bits, .raw, c.poi || t.voided⟩, c.bundle⟩
    (s.setTile k (t.setChannel ch next)).modPartOf k fun q => { q with links := q.links ++ [w] }
  | .acpIn acc row0 _ id _ =>
    let e : AccFinal := ⟨c.c + c.lag + 3 + j, acc, row0 + j, some ⟨r.bits, r.poi != 0⟩, markOf row0 c.m j, id⟩
    s.setTile k ({ t with finals := t.finals ++ [e] }.setChannel ch next)
  | .acpOut acc row0 _ =>
    let a := t.accAt acc
    let o := a.row (row0 + j)
    let early := !(row0 + j < a.wm)
    let s := s.setTile k (t.setChannel ch { next with
      buf := next.buf ++ [⟨j, o.bits, if o.poi || early || c.poi then 0xFF else 0⟩] })
    if early then s.raisePost k 1 1 6 c.bundle else s
  | .cpy .. | .cpz _ | .cpt .. | .sweep _ => s.setTile k (t.setChannel ch { next with buf := next.buf ++ [r] })

/-- R363, R367: row `landed` of a command is written. -/
def State.copyWrite (s : State) (k ch : Nat) (c : ChCmd) : State :=
  let t := s.tile k
  let j := c.landed
  let r := c.buf.headD ⟨j, 0, if c.poi then 0xFF else 0⟩
  s.setTile k ((t.writeRow (c.writeWords j) r.bits r.poi false).setChannel ch
    { c with landed := j + 1, buf := c.buf.tail })

/-- COPY_ROW: the next read of a row due on a channel, else the next write (R363, R366, R367). -/
def execCopyRow (x y ch : Nat) (s : State) : Out :=
  let k := tileKey x y
  let l := s.lcycOf k
  .next (match (s.tile k).channel ch with
    | none => s
    | some c => if c.readDue l then (s.copyRead k ch c).detect k else if c.writeDue l then s.copyWrite k ch c else s)

/-- TROUGH_PUSH (R364, R191): a full trough loses the row and traps. -/
def execTroughPush (x y : Nat) (b : Bool) (s : State) : Out :=
  let k := tileKey x y
  let ch := if b then 1 else 0
  let t := s.tile k
  .next (match t.channel ch with
    | none => s
    | some c =>
      if c.pushDue (s.lcycOf k) then
        let r := c.buf.headD ⟨0, 0, 0xFF⟩
        let row : TroughRow := ⟨r.bits.setWidth 384, r.poi != 0⟩
        let full := 64 ≤ (if b then t.trB else t.trA).length
        let t := t.setChannel ch { c with landed := c.landed + 1, buf := c.buf.tail }
        if full then (s.setTile k t).raisePost k 1 8 6 c.bundle
        else s.setTile k (if b then { t with trB := t.trB ++ [row] } else { t with trA := t.trA ++ [row] })
      else s)

end Sys2Proof.Machine
end

