-- ==== Sys2Proof/Machine/Sweep.lean ====
section
/-! DEFINITION. The sweeps CAV, ARD, SCN and BCS: the lattice, the words and their cycles, the folds and the results
(R218 to R224, R370, R371). -/

namespace Sys2Proof.Machine

/-! ## The lattice (R218, R223) -/

/-- A number put in its place in a rising list, once. -/
def insertNat (n : Nat) : List Nat → List Nat
  | [] => [n]
  | m :: ms => if n < m then n :: m :: ms else if n = m then m :: ms else m :: insertNat n ms
/-- The distinct numbers of a list, rising. -/
def distinct (ns : List Nat) : List Nat := ns.foldl (fun acc n => insertNat n acc) []

/-- The lattice of a group: its distinct columns and rows. -/
structure Lattice where
  cols : List Nat
  rows : List Nat
  deriving DecidableEq, Repr

/-- R218: the lattice of some tiles, by key. -/
def latticeOf (ks : List Nat) : Lattice := ⟨distinct (ks.map (· % 256)), distinct (ks.map (· / 256))⟩
/-- R218: the members of a full lattice. -/
def Lattice.size (l : Lattice) : Nat := l.cols.length * l.rows.length
/-- R218: the tile of lattice column i and row j. -/
def Lattice.at_ (l : Lattice) (i j : Nat) : Nat := tileKey (l.cols.getD i 0) (l.rows.getD j 0)
/-- The lattice is a line. -/
def Lattice.line (l : Lattice) : Bool := l.cols.length == 1 || l.rows.length == 1
/-- R223: the stitch boundaries between lattice columns a and b. -/
def Lattice.sx (l : Lattice) (a b : Nat) : Nat := l.cols.getD b 0 / 32 - l.cols.getD a 0 / 32
/-- R223: the stitch boundaries between lattice rows a and b. -/
def Lattice.sy (l : Lattice) (a b : Nat) : Nat := l.rows.getD b 0 / 24 - l.rows.getD a 0 / 24

/-- R223: the cycles from c to the result. -/
def Lattice.result (l : Lattice) : Nat :=
  let nx := l.cols.length
  let ny := l.rows.length
  let st := 2 * l.sx 0 (nx - 1) + 2 * l.sy 0 (ny - 1)
  if l.line then 8 + 6 * (l.size - 1) + st else 14 + 6 * (nx - 1) + 6 * (ny - 1) + st

/-- R223: the two words of a line that its member `i` of `n` expects, as cycles from a start; `sg` counts stitch boundaries
and `at_` names the members. -/
def lineWaits (c0 : Nat) (n i pre : Nat) (sg : Nat → Nat → Nat) (at_ : Nat → Nat) : List SweepWait :=
  (if 0 < i then [⟨pre, c0 + 6 * i + 2 * sg 0 i, at_ (i - 1)⟩] else []) ++
    (if i + 1 < n then [⟨pre + 1, c0 + 6 * (n - 1 - i) + 2 * sg i (n - 1), at_ (i + 1)⟩] else [])

/-- R223: the words that tile k expects in a sweep issued at c (DEDUCED, log 47). -/
def Lattice.waits (l : Lattice) (k c : Nat) : List SweepWait :=
  let i := l.cols.idxOf (k % 256)
  let j := l.rows.idxOf (k / 256)
  let nx := l.cols.length
  let ny := l.rows.length
  if ny = 1 then lineWaits (c + 2) nx i 0 l.sx fun a => l.at_ a j
  else if nx = 1 then lineWaits (c + 2) ny j 0 l.sy fun b => l.at_ i b
  else
    let s := c + 8 + 6 * (nx - 1) + 2 * l.sx 0 (nx - 1)
    lineWaits (c + 2) nx i 0 l.sx (fun a => l.at_ a j) ++ lineWaits s ny j 2 l.sy fun b => l.at_ i b

/-! ## Folds (R220 to R222) -/

/-- R220, R222: one operation on two terms; the result is poisoned when either is. -/
def foldTerm (o : SweepOp) (f : Fmt) (a b : RowReg) : RowReg := ⟨foldRow o f a.bits b.bits, f, a.poi || b.poi⟩
/-- R221: the left fold of terms; none for no term. -/
def foldL (o : SweepOp) (f : Fmt) (xs : List RowReg) : Option RowReg := leftFold (foldTerm o f) (xs.map some)
/-- R221: the right fold of terms. -/
def foldR (o : SweepOp) (f : Fmt) (xs : List RowReg) : Option RowReg := rightFold (foldTerm o f) (xs.map some)

/-- The row total of a member, as the words it has received give it (R221). -/
def SweepWord.total (w : SweepWord) : RowReg := (foldL w.op w.fmt (w.pre ++ [w.v] ++ w.suf)).getD w.v

/-- R223: the terms of the word that a member sends into a buffer of the next (DEDUCED, log 47). -/
def SweepWord.sends (w : SweepWord) : Nat → List RowReg
  | 0 => w.pre ++ [w.v]
  | 1 => w.v :: w.suf
  | 2 => w.above ++ [w.total]
  | _ => w.total :: w.below
/-- The member with the terms of a word received. -/
def SweepWord.take (w : SweepWord) (which : Nat) (ts : List RowReg) (bad : Bool) : SweepWord :=
  let w := { w with bad := w.bad || bad }
  match which with
  | 0 => { w with pre := ts }
  | 1 => { w with suf := ts }
  | 2 => { w with above := ts }
  | _ => { w with below := ts }

/-- R221: the result of a member, but of BCS; an empty one is the identity. -/
def SweepWord.result (w : SweepWord) : RowReg :=
  let l (ts : List (Option RowReg)) : Option RowReg := leftFold (foldTerm w.op w.fmt) ts
  let a := foldL w.op w.fmt w.above
  let p := foldL w.op w.fmt w.pre
  let s := foldR w.op w.fmt w.suf
  let b := foldR w.op w.fmt w.below
  let r := match w.kind with
    | .cav => l [a, p, s, b]
    | .ard => foldL w.op w.fmt (w.above ++ [w.total] ++ w.below)
    | .scn false => l [a, p, some w.v]
    | .scn true => l [a, p]
    | .bcs => none
  r.getD ⟨identityRow w.op w.fmt, w.fmt, false⟩

/-! ## Issue (R370, R371) -/

/-- R220: the operator takes a contribution of a format. -/
def sweepTakes (kind : SweepKind) (op : SweepOp) (f : Fmt) : Bool :=
  kind == .bcs || (match sweepFmts op with
    | some fs => fs.contains f
    | none => true)

/-- R234: a contribution as the folds of a sweep take it: a NaN canonical, as a fold of it alone writes it; a BCS folds
nothing. -/
def sweepTerm (kind : SweepKind) (op : SweepOp) (v : RowReg) : RowReg :=
  if kind == .bcs then v else { v with bits := soleRow op v.fmt v.bits }

/-- R371: a sweep; `sr` holds the root rank of BCS. Records of sweeps that ended long ago are dropped
(DEDUCED, log 57). -/
def State.sweep (s : State) (g : Guard) (kind : SweepKind) (op : SweepOp) (vd vs : R9) (sr : Option R5)
    (scope : BitVec 6) : State :=
  let k := s.myKey
  let lat := latticeOf (s.groupOf k scope.toNat)
  s.slot g [⟨.row, vd.toNat, s.rowFmt vs.toNat, lat.result⟩] fun gp s => do
    need (s.rowOk vs.toNat && s.rowOk vd.toNat) 7 5
    let t := s.tile k
    let v := t.readV vs.toNat
    need (sweepTakes kind op v.fmt) 2 1
    let rs ← s.cpScalars (match sr with
      | some r => [(r, 3)]
      | none => [])
    let l := s.now
    need (!busyAt t.sw l) 1 8
    let root := (rs.getD 0 0).toNat
    let late : List SweepWait := if kind == .bcs && lat.size ≤ root then [⟨4, l + 8, k⟩] else []
    let cmd : SweepCmd := ⟨kind, op, v.fmt, scope.toNat, root, vd.toNat, lat.waits k l ++ late⟩
    let word : SweepWord := ⟨k % 256, k / 256, l, kind, op, v.fmt, scope.toNat, root,
      { sweepTerm kind op v with poi := v.poi || t.voided || gp }, [], [], [], [], false⟩
    let c : ChCmd := ⟨.sweep cmd, l, 1, l + lat.result, s.ctx.bundle, gp, 0, 0, 0, [], [], none⟩
    return (s.setTile k { t with sw := some c }).modPartOf k fun q =>
      { q with sweepWords := q.sweepWords.filter (fun w => l ≤ w.c + 4096) ++ [word] }

/-- CAV (R370, R371). -/
def execCav (g : Guard) (op : SweepOp) (vd vs : R9) (scope : BitVec 6) (s : State) : Out :=
  .next (s.sweep g .cav op vd vs none scope)
/-- ARD (R370, R371). -/
def execArd (g : Guard) (op : SweepOp) (vd vs : R9) (scope : BitVec 6) (s : State) : Out :=
  .next (s.sweep g .ard op vd vs none scope)
/-- SCN (R370, R371). -/
def execScn (g : Guard) (ex : Bool) (op : SweepOp) (vd vs : R9) (scope : BitVec 6) (s : State) : Out :=
  .next (s.sweep g (.scn ex) op vd vs none scope)
/-- BCS (R370, R371). -/
def execBcs (g : Guard) (vd vs : R9) (sr : R5) (scope : BitVec 6) (s : State) : Out :=
  .next (s.sweep g .bcs .fadd vd vs (some sr) scope)

/-! ## Words and results (R223, R224) -/

/-- The words of a tile's sweep issued at c. -/
def Part.sweepAt (q : Part) (k c : Nat) : Option SweepWord := q.sweepWords.find? fun w => tileKey w.x w.y = k && w.c = c
/-- Some words changed. -/
def Part.modSweep (q : Part) (k c : Nat) (f : SweepWord → SweepWord) : Part :=
  { q with sweepWords := q.sweepWords.map fun w => if tileKey w.x w.y = k && w.c = c then f w else w }
/-- R224: two members' words agree. -/
def SweepWord.agrees (a b : SweepWord) : Bool :=
  a.kind == b.kind && a.op == b.op && a.fmt == b.fmt && a.level == b.level && a.root == b.root

/-- SWEEP_WORD: the next word due at a member, checked (R224): an absent one traps 0x01/7, one that disagrees 0x01/6,
and the identity with poison stands in its place (DEDUCED, log 47). -/
def execSweepWord (x y : Nat) (s : State) : Out :=
  let k := tileKey x y
  let l := s.lcycOf k
  .next (match (s.tile k).sw, s.partOf k with
    | some c, some q =>
      match c.what with
      | .sweep m =>
        match m.waits.find? fun w => w.due ≤ l with
        | none => s
        | some w =>
          let s := s.modTile k fun t => { t with sw := some { c with what := .sweep { m with waits := m.waits.erase w } } }
          let bad (sub : Nat) : State :=
            (s.modPartOf k fun q => q.modSweep k c.c fun o =>
              o.take w.which [⟨identityRow m.op m.fmt, m.fmt, true⟩] true).raisePost k 1 sub 6 c.bundle
          if w.which = 4 then
            (s.modPartOf k fun q => q.modSweep k c.c fun o => { o with bad := true }).raisePost k 1 6 6 c.bundle
          else
            match q.sweepAt w.sender c.c, q.sweepAt k c.c with
            | some f, some o =>
              if f.agrees o then s.modPartOf k fun q => q.modSweep k c.c fun o => o.take w.which (f.sends w.which) false
              else bad 6
            | _, _ => bad 7
      | .cpy .. | .cpz _ | .cpt .. | .cpn .. | .acpOut .. | .acpIn .. => s
    | _, _ => s)

/-- R221, R224: the row of a BCS: the root's, or zeros with poison where any member's words are absent or bad
(DEDUCED, log 47). -/
def State.bcsRow (s : State) (k : Nat) (q : Part) (o : SweepWord) : RowReg :=
  let ks := s.groupOf k o.level
  let lat := latticeOf ks
  let ok := ks.all fun j =>
    match q.sweepAt j o.c with
    | some w => w.agrees o && !w.bad
    | none => false
  let i := o.root % lat.cols.length
  match (if ok && o.root < lat.size then q.sweepAt (lat.at_ i (o.root / lat.cols.length)) o.c else none) with
  | some w => { w.v with fmt := o.fmt }
  | none => ⟨0, o.fmt, true⟩

/-- SWEEP_RESULT: the result row, whole, at its cycle (R221 to R224, R371). -/
def execSweepResult (x y : Nat) (s : State) : Out :=
  let k := tileKey x y
  .next (match (s.tile k).sw, s.partOf k with
    | some c, some q =>
      match c.what with
      | .sweep m =>
        if c.landed = 0 ∧ c.busy ≤ s.lcycOf k then
          let t := { s.tile k with sw := some { c with landed := 1 } }
          match q.sweepAt k c.c with
          | none => s.setTile k t
          | some o =>
            let r := if m.kind == .bcs then s.bcsRow k q o else o.result
            s.setTile k (t.writeV m.vd { r with poi := r.poi || c.poi })
        else s
      | .cpy .. | .cpz _ | .cpt .. | .cpn .. | .acpOut .. | .acpIn .. => s
    | _, _ => s)

end Sys2Proof.Machine
end

