-- ==== Sys2Proof/Machine/Header.lean ====
section
/-! DEFINITION. What a launch brings: the header and region list (R118 to R120), the code object (R121), the objects read
through the regions (R117), page conflicts (R111), the binding of the tree (R139 to R143), the level checks of the code
(R145, R219) and the order of launch faults (R146). -/

namespace Sys2Proof.Machine

/-- A launch that cannot start: a malformed record with its object and offset (R117), or a launch fault with its code,
bits 15:8 and bits 31:16 (R146). -/
inductive Refused where
  | malformed (obj off : Nat)
  | fault (code low high : Nat)
  deriving DecidableEq, Repr

/-- R117, R146: the detail word. -/
def Refused.detail : Refused → Nat
  | .malformed obj off => obj * 2 ^ 30 + off
  | .fault code low high => code + 2 ^ 8 * low + 2 ^ 16 * high
/-- R103: the queue error code. -/
def Refused.code : Refused → Nat
  | .malformed _ _ => 2
  | .fault _ _ _ => 1

/-- R117: the objects of the detail word. -/
def objHeader : Nat := 2
/-- The code object. -/
def objCode : Nat := 1
/-- The argument block. -/
def objArgs : Nat := 3

/-! ## The header (R118 to R120) -/

/-- A field of a list of bytes: n bytes at offset o. -/
def byteF (bs : List Byte) (o n : Nat) : Nat := ofBytes ((bs.drop o).take n)
/-- The first offset whose condition holds. -/
def firstBad (cs : List (Bool × Nat)) : Option Nat := (cs.find? (·.1)).map (·.2)

/-- R118: the first bad field of the fixed part. -/
def fixedBad (b : List Byte) : Option Nat :=
  let arglen := byteF b 12 4
  let rbuf := byteF b 64 8
  let rblen := byteF b 72 8
  firstBad [(byteF b 0 1 % 64 != 0, 0), (byteF b 8 4 < 128 || byteF b 8 4 % 64 != 0, 8),
    (65536 < arglen || arglen % 16 != 0, 12), (arglen != 0 && byteF b 16 1 % 16 != 0, 16), (byteF b 24 1 % 16 != 0, 24),
    (byteF b 28 2 = 0 || 1536 < byteF b 28 2, 28), (512 < byteF b 30 2, 30), (byteF b 32 1 = 0 || 64 < byteF b 32 1, 32),
    (byteF b 33 1 != 0, 33), (256 < byteF b 34 2, 34), (4096 < byteF b 36 2, 36), (byteF b 38 2 != 0, 38),
    (1 < byteF b 52 4, 52), (if rbuf = 0 then rblen != 0 else rblen = 0 || 2 ^ 40 < rblen, 72), (byteF b 80 48 != 0, 80)]

/-- R118: the offset of the region list. -/
def treeEnd (nlev : Nat) : Nat := 128 + 16 * ((nlev + 3) / 4)
/-- R119: a binding. -/
def bindOf : Nat → Option Bind
  | 0 => some .lane
  | 1 => some .tile
  | 2 => some .pen
  | 3 => some .field
  | 4 => some .wafer
  | 5 => some .node
  | 6 => some .rack
  | _ => none
/-- The code of a binding (R119). -/
def Bind.code : Bind → Nat
  | .lane => 0
  | .tile => 1
  | .pen => 2
  | .field => 3
  | .wafer => 4
  | .node => 5
  | .rack => 6
/-- R119: a policy. -/
def policyOf : Nat → Policy
  | 0 => .ignore
  | 1 => .retry
  | 2 => .killSelf
  | _ => .killParent
/-- R119: a tree entry, none where a field is malformed. -/
def levelOf (nlev w : Nat) : Option Level :=
  if 2 ^ 14 ≤ w then none
  else
    match bindOf (w / 64 % 8) with
    | none => none
    | some b => some ⟨if w % 64 = 0 && nlev = 1 then 64 else w % 64, b, policyOf (w / 512 % 4), w / 2048 % 8⟩
/-- R119: the levels from n on, or the offset of the first malformed entry. -/
def levelsFrom (b : List Byte) (nlev n : Nat) : Nat → Except Nat (List Level)
  | 0 => .ok []
  | k + 1 =>
    match levelOf nlev (byteF b (128 + 4 * n) 4) with
    | none => .error (128 + 4 * n)
    | some l => do
      let ls ← levelsFrom b nlev (n + 1) k
      return l :: ls
/-- R120: the virtual ranges of two regions overlap. -/
def Region.overlaps (r o : Region) : Bool :=
  r.vbase < o.vbase + 2 ^ 21 * o.pages && o.vbase < r.vbase + 2 ^ 21 * r.pages
/-- R120: the first word of a region entry breaks its rules. -/
def vbaseBad (w0 : Nat) : Bool := w0 / 8 % 2 ^ 18 != 0 || w0 % 8 = 0
/-- R120: the regions from offset o on, `seen` those before, or the offset of the first malformed word. Of two regions that
overlap that is the first word of the later entry (DESIGN CHOICE, log 52). -/
def regionsFrom (b : List Byte) (o : Nat) (seen : List Region) : Nat → Except Nat (List Region)
  | 0 => .ok seen
  | k + 1 =>
    let w0 := byteF b o 8
    let w1 := byteF b (o + 8) 8
    let r : Region := ⟨w0 / 2 ^ 21 * 2 ^ 21, w1 / 2 ^ 21 * 2 ^ 21, w1 % 2 ^ 21, w0 % 2 = 1, w0 / 2 % 2 = 1, w0 / 4 % 2 = 1⟩
    if vbaseBad w0 then .error o
    else if 2 ^ 48 ≤ w1 || r.pages = 0 then .error (o + 8)
    else if seen.any fun x => x.overlaps r then .error o
    else regionsFrom b (o + 16) (seen ++ [r]) k

/-- R127: bytes with the PBASE fields of n region entries from offset o read as zero. -/
def clearPbase (b : List Byte) (o : Nat) : Nat → List Byte
  | 0 => b
  | k + 1 =>
    clearPbase (b.take (o + 8) ++ bytesOf 8 (byteF b (o + 8) 8 % 2 ^ 21) ++ b.drop (o + 16)) (o + 16) k

/-- R118 to R120: the header a byte string holds, but for what the code object says; or the offset of the first bad
field. -/
def parseHeader (b : List Byte) : Except Nat Bank :=
  match fixedBad b with
  | some o => .error o
  | none => do
    let nlev := byteF b 32 1
    let nreg := byteF b 34 2
    let levels ← levelsFrom b nlev 0 nlev
    let pad := ((List.range (treeEnd nlev)).drop (128 + 4 * nlev)).find? fun o => byteF b o 1 != 0
    match pad with
    | some o => .error o
    | none =>
      let regions ← regionsFrom b (treeEnd nlev) [] nreg
      return { Bank.zero with
        regions := regions, tree := levels, foot := byteF b 28 2, rows := (byteF b 30 2 + 7) / 8 * 8, yshare := byteF b 36 2,
        preempt := byteF b 40 8, rbp := byteF b 48 4, wdog := byteF b 56 8, aligns := byteF b 52 4 = 1,
        pre := clearPbase (b.take (treeEnd nlev + 16 * nreg)) (treeEnd nlev) nreg,
        codeAddr := byteF b 0 8, codeLen := byteF b 8 4, argAddr := byteF b 16 8, argLen := byteF b 12 4,
        argoff := byteF b 24 4, rbuf := byteF b 64 8, rblen := byteF b 72 8 }

/-- R117: the first byte of a range whose word is poisoned, as an offset. -/
def firstPoison (m : Sparse Bool) (a n : Nat) : Option Nat :=
  ((List.range n).find? fun i => sget false m ((a + i) / 16))
/-- R117: the offset of the first byte of a header that the front end cannot obtain: a host read that completes with an
error, which is the outside world's (log 6), or a poisoned device word (DEDUCED, log 52). -/
def State.unreadable (s : State) (where_ : Nat) : Option Nat :=
  if where_ % 2 = 1 then firstPoison s.devPoi (where_ / 8 * 8) 4480
  else (Config.hostReadError s.gcyc (where_ / 8 * 8)).filter (· < 4480)
/-- R117: bytes as the front end judges them where those from p on cannot be obtained. -/
def zeroFrom (b : List Byte) : Option Nat → List Byte
  | some p => b.take p ++ List.replicate (b.length - p) 0
  | none => b
/-- R117, R118 to R120: how many bytes of a header it takes to find a fault at an offset; of a reserved field one byte that is
not zero. -/
def faultSpan (b : List Byte) (o : Nat) : Nat :=
  let list := treeEnd (byteF b 32 1)
  if o < 128 then
    (if [8, 12, 52].contains o then 4 else if [28, 30, 34, 36].contains o then 2 else if o = 72 then 8 else 1)
  else if o < 128 + 4 * byteF b 32 1 then 4
  else if o < list then 1
  else if (o - list) % 16 = 0 && !vbaseBad (byteF b o 8) then 16
  else 8
/-- R116, R117, R118: the header at an address word of a record. A fault that the bytes before the first that cannot be obtained
show is reported; else that byte is, where the header reaches so far (DEDUCED, log 52). -/
def State.readHeader (s : State) (where_ : Nat) : Except Refused Bank :=
  let lost := s.unreadable where_
  let b := zeroFrom (s.readAt where_ 4480) lost
  match parseHeader b, lost with
  | .error o, some p => .error (.malformed objHeader (if o + faultSpan b o ≤ p then o else p))
  | .error o, none => .error (.malformed objHeader o)
  | .ok h, some p => if p < h.pre.length then .error (.malformed objHeader p) else .ok h
  | .ok h, none => .ok h

/-! ## Regions (R111, R120) -/

/-- R120: a range lies in regions that have a right. -/
def coveredBy (rs : List Region) (right : Right) (va n : Nat) : Bool :=
  n = 0 || rangeHit (rs.filter fun r => r.has right) va n (rs.length + 1)
/-- R120: the first object that is not covered: 1, 2 or 3. -/
def Bank.uncovered (b : Bank) : Option Nat :=
  if !coveredBy b.regions .r b.codeAddr b.codeLen then some 1
  else if !coveredBy b.regions .r b.argAddr b.argLen then some 2
  else if b.rbuf != 0 && !coveredBy b.regions .w b.rbuf b.rblen then some 3
  else none
/-- R225: a page of the sequencer spaces has no owner. -/
def seqPage (pg : Nat) : Bool := inSeq (2 ^ 21 * pg)
/-- R111: a region asks for a page that another launch holds, one of them with W or A rights, and that is not shared. -/
def State.pageConflict (s : State) (r o : Region) : Bool :=
  let lo := Nat.max (pageOf r.pbase) (pageOf o.pbase)
  let hi := Nat.min (pageOf r.pbase + r.pages) (pageOf o.pbase + o.pages)
  (r.w || r.a || o.w || o.a) && (List.range (hi - lo)).any fun i => !seqPage (lo + i) && !s.sharedPage (lo + i)
/-- R165: the pages of a partition's save area, which stands outside every region table: the frame and room for every block
of a stabled launch (DESIGN CHOICE, log 54). -/
def Part.saveRegion (q : Part) : Region :=
  ⟨0, q.save / 2 ^ 21 * 2 ^ 21, (q.save % 2 ^ 21 + 256 + 16 * q.w * q.h * (32768 + 4096 * 421)) / 2 ^ 21 + 1, true, true, true⟩
/-- The regions that launches of any partition hold. -/
def State.heldRegions (s : State) : List Region :=
  s.partIds.flatMap fun p =>
    match s.part p with
    | some q => q.holders.flatMap (·.regions)
    | none => []
/-- The regions of the tables that are in force: those of held launches, and of each partition's last launch, which the aperture
still reads. -/
def State.tableRegions (s : State) : List Region :=
  s.heldRegions ++ s.partIds.flatMap fun p => ((s.part p).map fun q => q.bank.regions).getD []
/-- R165: the save areas of the partitions. -/
def State.saveRegions (s : State) : List Region :=
  s.partIds.filterMap fun p => (s.part p).map fun q => q.saveRegion
/-- R111, R120: two regions have a page in common. -/
def Region.sharesPage (r o : Region) : Bool :=
  pageOf r.pbase < pageOf o.pbase + o.pages && pageOf o.pbase < pageOf r.pbase + r.pages
/-- R111, R165: the index of the first region that cannot be made resident: a page of it is another launch's, or lies in a save
area, which stands outside every region table. -/
def State.conflictAt (s : State) (rs : List Region) : Option Nat :=
  let held := s.heldRegions
  let saves := s.saveRegions
  (List.range rs.length).find? fun i =>
    match rs[i]? with
    | some r => (held.any fun o => s.pageConflict r o) || saves.any fun o => r.sharesPage o
    | none => false
/-- R165: a save area at an address for a partition of a rectangle: in HBM, and no page of it held, shared or in another save
area (DESIGN CHOICE, log 54). -/
def State.saveFits (s : State) (q : Part) (a : Nat) : Bool :=
  let r := { q with save := a }.saveRegion
  a % 4096 = 0 && r.pbase + 2 ^ 21 * r.pages ≤ hbmBytes && (s.tableRegions ++ s.saveRegions).all (fun o => !r.sharesPage o) &&
    (List.range r.pages).all fun i => !s.sharedPage (pageOf r.pbase + i)
/-- R165: the first place in memory, from a page on, where a save area fits, over some pages. -/
def State.saveFrom (s : State) (q : Part) (page : Nat) : Nat → Option Nat
  | 0 => none
  | n + 1 => if s.saveFits q (2 ^ 21 * page) then some (2 ^ 21 * page) else s.saveFrom q (page + 1) n
/-- R165: the address of the save area of a new partition: the one that the front end proposes, where it fits, else the first
that does after a region that is held, else the first in memory; 0 where memory has no room left (DESIGN CHOICE, log 54). -/
def State.saveFor (s : State) (q : Part) (proposal : Nat) : Nat :=
  ((proposal :: 0 :: (s.tableRegions ++ s.saveRegions).map fun o => o.pbase + 2 ^ 21 * o.pages).find? (s.saveFits q)).getD
    ((s.saveFrom q 0 (hbmBytes / 2 ^ 21)).getD 0)

/-- The bytes of a virtual range with the offset of the first poisoned one, region by region (R193, R117). -/
def State.fetch (s : State) (rs : List Region) (va n off : Nat) : Nat → List Byte × Option Nat
  | 0 => ([], none)
  | fuel + 1 =>
    match findRegion rs va with
    | none => ([], none)
    | some r =>
      let m := Nat.min n (r.vbase + 2 ^ 21 * r.pages - va)
      let pa := r.pbase + (va - r.vbase)
      let bs := Memory.reads s.dev pa m
      let bad := (firstPoison s.devPoi pa m).map (· + off)
      if m = n then (bs, bad)
      else
        let t := s.fetch rs (va + m) (n - m) (off + m) fuel
        (bs ++ t.1, bad.or t.2)
/-- An object of a launch. -/
def State.object (s : State) (b : Bank) (va n : Nat) : List Byte × Option Nat := s.fetch b.regions va n 0 (b.regions.length + 1)

/-! ## The tree (R139 to R143) -/

/-- The sum of the widths of the levels bound at X. -/
def boundWidth (tree : List Level) (x : Bind) : Nat := (tree.filter fun l => l.bind == x).foldl (fun n l => n + l.width) 0
/-- A level is bound at X. -/
def isBound (tree : List Level) (x : Bind) : Bool := tree.any fun l => l.bind == x
/-- The innermost level bound at X. -/
def firstBound (tree : List Level) (x : Bind) : Nat := (List.range tree.length).find? (fun n => (tree[n]?.map (·.bind)) == some x) |>.getD 0
/-- The offset in WID of the innermost level bound at X. -/
def boundOffset (tree : List Level) (x : Bind) : Nat := levelOffset tree (firstBound tree x)
/-- R141: the partition is made of whole fields. -/
def Part.wholeFields (q : Part) : Bool := q.px0 % 8 = 0 && q.w % 8 = 0 && q.py0 % 6 = 0 && q.h % 6 = 0
/-- R141: the partition is the whole wafer. -/
def Part.wholeWafer (q : Part) : Bool := q.px0 = 0 && q.py0 = 0 && q.w = 64 && q.h = 36
/-- R140: the extent of a physical level. -/
def Part.extent (q : Part) (tree : List Level) : Bind → Nat
  | .lane => 256
  | .tile => 16
  | .pen => if isBound tree .field then 48 else q.w * q.h
  | .field => q.w / 8 * (q.h / 6)
  | .wafer => q.groupCount 0
  | .node => q.groupCount 1
  | .rack => q.groupCount 2
/-- R141, R146: what is wrong with the binding of a tree, in the order of the codes. -/
def Part.treeFault (q : Part) (tree : List Level) : Option Refused :=
  let total := tree.foldl (fun n l => n + l.width) 0
  let idx := List.range tree.length
  let at_ (n : Nat) : Level := tree.getD n ⟨0, .lane, .ignore, 0⟩
  if 64 < total then some (.fault 1 0 total)
  else
    match if 1 < tree.length then idx.find? (fun n => (at_ n).width = 0) else none with
    | some n => some (.fault 2 n 0)
    | none =>
      match idx.find? fun n => n != 0 && (at_ n).bind.code < (at_ (n - 1)).bind.code with
      | some n => some (.fault 3 n 0)
      | none =>
        if 256 < 2 ^ boundWidth tree .lane then
          some (.fault 4 ((idx.filter fun n => (at_ n).bind == .lane).foldl Nat.max 0) 0)
        else
          match idx.find? fun n => ((at_ n).bind == .field && !q.wholeFields) ||
              (4 ≤ (at_ n).bind.code && !q.wholeWafer) with
          | some n => some (.fault 5 n 0)
          | none =>
            match [Bind.tile, .pen, .field, .wafer, .node, .rack].find? fun x =>
                isBound tree x && q.extent tree x < 2 ^ boundWidth tree x with
            | some x => some (.fault 6 (firstBound tree x) 0)
            | none => none
/-- R143: the tile key that combined coordinates of FIELD, PEN and TILE select. -/
def Part.tileAt (q : Part) (tree : List Level) (cf cp ct : Nat) : Nat :=
  let (px, py) :=
    if isBound tree .field then
      (cf % (q.w / 8) * 8 + cp % 8, cf / (q.w / 8) * 6 + cp / 8)
    else (cp % q.w, cp / q.w)
  tileKey (4 * (q.px0 + px) + ct % 4) (4 * (q.py0 + py) + ct / 4)
/-- R142: the position of this module at WAFER, NODE and RACK can be expressed; where no level is bound, position 0 alone. -/
def Part.expressible (q : Part) (tree : List Level) : Bool :=
  [(Bind.wafer, 0), (.node, 1), (.rack, 2)].all fun x => q.groupPos x.2 < 2 ^ boundWidth tree x.1
/-- R142: this module's share of a work identifier. -/
def Part.moduleShare (q : Part) (tree : List Level) : Nat :=
  [(Bind.wafer, 0), (.node, 1), (.rack, 2)].foldl (fun n x =>
    if isBound tree x.1 then n + q.groupPos x.2 * 2 ^ boundOffset tree x.1 else n) 0
/-- R142, R143: the mapped tiles of a bound tree, by key, with their work identifiers. -/
def Part.mapping (q : Part) (tree : List Level) : List (Nat × W64) :=
  if !q.expressible tree then []
  else
    let part (x : Bind) (c : Nat) : Nat := if isBound tree x then c * 2 ^ boundOffset tree x else 0
    (List.range (2 ^ boundWidth tree .field)).flatMap fun cf =>
      (List.range (2 ^ boundWidth tree .pen)).flatMap fun cp =>
        (List.range (2 ^ boundWidth tree .tile)).map fun ct =>
          (q.tileAt tree cf cp ct, BitVec.ofNat 64 (q.moduleShare tree + part .field cf + part .pen cp + part .tile ct))

/-! ## The code object (R121) -/

/-- R121: the first bad field of a code object, given the header's CODELEN and FOOT. -/
def codeBad (c : List Byte) (len foot : Nat) : Option Nat :=
  let nbun := byteF c 8 4
  let ioff := byteF c 16 4
  firstBad [(byteF c 0 4 != 0x43494F46, 0), (byteF c 4 1 != 1, 4), (byteF c 6 2 != 0, 6),
    (nbun = 0 || len != 64 + 64 * nbun, 8), (nbun ≤ byteF c 12 4, 12),
    (ioff % 64 != 0 || 1024 * foot < ioff + 64 * nbun, 16), (byteF c 20 4 != 0, 20), (byteF c 32 32 != 0, 32)]
/-- The bank with what its code object says. -/
def Bank.withCode (b : Bank) (c : List Byte) : Bank :=
  { b with ioff := byteF c 16 4, nbun := byteF c 8 4, entry := byteF c 12 4 }
/-- R118: the argument area lies below 1,024·FOOT and clear of the bundles. -/
def Bank.argsFit (b : Bank) : Bool :=
  b.argLen = 0 || (b.argoff + b.argLen ≤ 1024 * b.foot &&
    (b.ioff + 64 * b.nbun ≤ b.argoff || b.argoff + b.argLen ≤ b.ioff))
/-- The failure of least offset; of two at one offset the first listed. -/
def leastFailure : List (Nat × Refused) → Option (Nat × Refused)
  | [] => none
  | f :: fs =>
    match leastFailure fs with
    | none => some f
    | some g => if g.1 < f.1 then some g else some f

/-! ## Level checks (R145, R219) -/

/-- R145: the level an instruction names and the codes of the bindings it accepts. -/
def namedLevel : Instr → Option (Nat × List Nat)
  | .cav _ _ _ _ l | .ard _ _ _ _ l | .scn _ _ _ _ _ l | .bcs _ _ _ _ l => some (l.toNat, [1, 2, 3])
  | .bar _ _ l _ => some (l.toNat, [1, 2, 3, 4, 5, 6])
  | .drain _ l _ => some (l.toNat, [0, 1, 2, 3, 4, 5, 6])
  | .drainLong _ _ l _ => some (l.toNat, [0, 1, 2, 3, 4, 5, 6])
  | .stg _ _ _ _ fl _ | .stp _ _ _ _ fl _ => some (fl.scope.toNat, [0, 1, 2, 3, 4, 5, 6])
  | .ldg _ _ _ _ _ fl _ | .gst _ _ _ _ _ fl _ => some (fl.scope.toNat, [0, 1, 2, 3, 4, 5, 6])
  | .amo _ _ _ _ _ _ fl _ => some (fl.scope.toNat, [0, 1, 2, 3, 4, 5, 6])
  | .amoCas _ _ _ _ _ fl _ _ => some (fl.scope.toNat, [0, 1, 2, 3, 4, 5, 6])
  | .wake _ _ _ l _ => some (l.toNat, [0, 1, 2, 3, 4, 5, 6])
  | .crdy _ _ l _ => some (l.toNat, [0, 1, 2, 3, 4, 5, 6])
  | .rdw _ _ l => some (l.toNat, [0, 1, 2, 3, 4, 5, 6])
  | _ => none
/-- R219: the instruction is a sweep. -/
def isSweep : Instr → Bool
  | .cav .. | .ard .. | .scn .. | .bcs .. => true
  | _ => false
/-- R219: every group at a level fills its lattice. -/
def fillsLattice (tree : List Level) (wids : List (Nat × W64)) (n : Nat) : Bool :=
  wids.all fun a =>
    let ms := wids.filter fun b => sameGroup tree n a.2 b.2
    (latticeOf (ms.map (·.1))).size == ms.length
/-- R145, R219: an instruction's level does not fit the tree: the level it names. -/
def levelFault (tree : List Level) (wids : List (Nat × W64)) (i : Instr) : Option Nat :=
  match namedLevel i with
  | none => none
  | some (n, ok) =>
    match tree[n]? with
    | none => some n
    | some l => if !ok.contains l.bind.code || (isSweep i && !fillsLattice tree wids n) then some n else none
/-- R145: the instructions of a bundle that do not trap 0x04, 0x05 or 0x06 at decode. -/
def judgedSlots (w : List W32) : List Instr :=
  let h := w.getD 0 0
  let p : Byte := h.extractLsb' 0 8
  let m : Byte := h.extractLsb' 8 8
  let r := Dec.walk p m w Dec.allSlots 1
  match Dec.bundleFault .task w p m (h.getLsbD 16) r with
  | some _ => []
  | none => (Dec.slotResults .task r.reached).filterMap fun q => match q.2 with
    | .ok i => some i
    | .error _ => none
/-- R145: the first level fault of the bundles from n on. -/
def bundlesFault (tree : List Level) (wids : List (Nat × W64)) (code : List Byte) (n : Nat) : Nat → Option Refused
  | 0 => none
  | k + 1 =>
    match (judgedSlots (Dec.bundleWords (code.take 64))).findSome? (levelFault tree wids) with
    | some l => some (.fault 9 l n)
    | none => bundlesFault tree wids (code.drop 64) (n + 1) k

/-! ## Expansion (R122) -/

/-- R77: the lowest-numbered withdrawn pen of a partition. -/
def State.withdrawnPen (s : State) (q : Part) : Option Nat :=
  (List.range q.h).findSome? fun j => (List.range q.w).findSome? fun i =>
    let px := q.px0 + i
    let py := q.py0 + j
    if (s.tile (tileKey (4 * px) (4 * py))).health.state = 2 then some (64 * py + px) else none

/-- R78: the bytes of a tile's capability descriptor, which state what it has lost and lent; their layout is the
implementation's (DESIGN CHOICE, log 15). -/
def Health.descriptor (h : Health) : List Byte :=
  (List.range Config.descLen).map fun i =>
    Config.descByte (h.nlost.toNat + 4 * h.lent.toNat + 16 * h.lb0.toNat + 1024 * h.lb1.toNat) i
/-- R121: the capability tag of a partition, over the descriptors of its tiles in tile order (DEDUCED, log 52)
(DESIGN CHOICE, log 15). -/
def State.capTag (s : State) (q : Part) : W64 :=
  keyTag (Config.stabKey s.onCount) (q.tileKeys.flatMap fun k => (s.tile k).health.descriptor)
/-- R121, R146: what is wrong with the header of a code object and where: a malformed field, the generation, the capability
tag. -/
def State.codeFaults (s : State) (q : Part) (b : Bank) (code : List Byte) : List (Nat × Refused) :=
  let gen := byteF code 5 1
  let tag := byteF code 24 8
  (match codeBad code b.codeLen b.foot with | some o => [(o, .malformed objCode o)] | none => []) ++
    (if gen = s.wgen.toNat then [] else [(5, .fault 8 0 gen)]) ++
    (if tag = 0 then [] else if tag = (s.capTag q).toNat then [] else [(24, .fault 8 1 gen)])
/-- R117, R118, R121, R145, R146: the first failure of the code object, in address order, then of the argument area, then of
the argument block; `b` holds what the header says (DEDUCED, log 52). -/
def State.objectsBad (s : State) (q : Part) (b : Bank) (wids : List (Nat × W64)) (code args : List Byte × Option Nat) :
    Option Refused :=
  let lost : List (Nat × Refused) := match code.2 with | some p => [(p, .malformed objCode p)] | none => []
  match leastFailure (lost ++ s.codeFaults q b (zeroFrom code.1 code.2)) with
  | some f => if f.1 < 64 then some f.2 else
    match bundlesFault b.tree wids (code.1.drop 64) 0 ((f.1 - 64) / 64) with
    | some g => some g
    | none => some f.2
  | none =>
    match bundlesFault b.tree wids (code.1.drop 64) 0 (byteF code.1 8 4) with
    | some g => some g
    | none =>
      if !(b.withCode code.1).argsFit then some (.malformed objHeader 24) else args.2.map fun p => .malformed objArgs p

/-- R128: the measurement of a header, a code object and an argument block. -/
def measure (pre code args : List Byte) : BitVec 256 := extendBy (extendBy (extendBy 0 1 pre) 2 code) 3 args

/-- R122 steps 1 to 4, R117, R146: the launch of a record as it comes out of expansion for a partition, or the first
failure (DEDUCED, log 52). -/
def State.expand (s : State) (q : Part) (where_ : Nat) (l : Launch) : Except Refused Launch := do
  let b ← s.readHeader where_
  match s.withdrawnPen q with
  | some pen => throw (.fault 0x0A 0 pen)
  | none =>
    match b.uncovered with
    | some k => throw (.fault 7 0 k)
    | none =>
      match s.conflictAt b.regions with
      | some k => throw (.fault 7 k 0)
      | none =>
        match q.treeFault b.tree with
        | some f => throw f
        | none =>
          let wids := q.mapping b.tree
          let code := s.object b b.codeAddr b.codeLen
          let args := if b.argLen = 0 then ([], none) else s.object b b.argAddr b.argLen
          match s.objectsBad q b wids code args with
          | some f => throw f
          | none =>
            return { l with bank := { b.withCode code.1 with wids := wids }, meas := measure b.pre code.1 args.1,
                            code := code.1, args := args.1 }

end Sys2Proof.Machine
end

