-- ==== Sys2Proof/Machine/Loft.lean ====
section
/-! DEFINITION. Lofts: the spaces that hold the blocks of stabled launches (R175), how a block stands in its place and is
sealed (R176), and the loft directory, which places and moves blocks (R177). -/

namespace Sys2Proof.Machine

/-! ## The spaces (R175) -/

/-- R142: a launch maps a tile. -/
def Bank.maps (b : Bank) (k : Nat) : Bool := b.wids.any fun e => e.1 == k
/-- R175: the running launch of a partition, whose footprint and row grant bound its lofts. -/
def Part.fences (q : Part) : List Bank :=
  match q.run with
  | some l => if l.code.isEmpty then [l.bank] else []
  | none => []
/-- R122, R156: the launches of a partition whose code and arguments stand in its tiles and that wait to start. -/
def Part.loaded (q : Part) : List Launch :=
  ((match q.run with | some l => [l] | none => []) ++ (match q.next with | some l => [l] | none => [])).filter
    fun l => l.placed && !l.code.isEmpty
/-- A place that code or arguments of a launch stand in. -/
def Launch.standsIn (l : Launch) : LoftPlace → Bool
  | .sram k a =>
    let meets (o n : Nat) : Bool := a < o + n && o < a + 4096
    l.bank.maps k && (meets l.bank.ioff (l.code.length - 64) || meets l.bank.argoff l.args.length)
  | .rows _ _ => false
  | .save _ => false
/-- R175: the first SRAM byte and the first row of tile k that a loft may use. -/
def Part.loftFloor (q : Part) (k : Nat) : Nat × Nat :=
  q.fences.foldl (fun f b => if b.maps k then (Nat.max f.1 (1024 * b.foot), Nat.max f.2 b.rows) else f) (0, 0)
/-- R175: the tiles of a partition in RETAIN, in DARK or in a power transition advertise no loft. -/
def Part.lofty (q : Part) : Bool :=
  q.trans.isNone && (match q.power with
    | .active | .idle => true
    | .retain | .dark => false)
/-- The multiples of a step from a bound on, with a whole step below another. -/
def stepsIn (step lo hi : Nat) : List Nat := ((List.range (hi / step)).map (step * ·)).filter fun a => lo ≤ a
/-- R175: the places for blocks in tile k: its SRAM, in blocks of 4 KiB, then its rows, 32 at a time
(DESIGN CHOICE, log 59). -/
def State.loftsOf (s : State) (q : Part) (k : Nat) : List LoftPlace :=
  let f := q.loftFloor k
  (stepsIn 4096 f.1 (s.tile k).health.top).map (.sram k) ++ (stepsIn 32 f.2 512).map (.rows k)

/-! ## A block in its place (R176) -/

/-- The 4 KiB of a memory from an address on. -/
def blockCells (m : List Host.Cell) (a : Nat) : List Host.Cell :=
  (m.filter fun e => a ≤ e.1 && e.1 < a + 4096).map fun e => (e.1 - a, e.2)
/-- Their 256 poison bits. -/
def blockPoison (m : Sparse Bool) (a : Nat) : BitVec 256 :=
  (List.range 256).foldl (fun v i => if sget false m (a / 16 + i) then v ||| (1#256 <<< i) else v) 0
/-- The 32 rows of a tile from one on, as bytes. -/
def Tile.rowCells (t : Tile) (r0 : Nat) : List Host.Cell :=
  Memory.write [] 0 ((List.range 32).flatMap fun i => bytesOf 128 (t.readV (r0 + i)).bits.toNat)
/-- What stands at the place of a block. Rows hold no poison for each 16 bytes: the directory keeps it
(DESIGN CHOICE, log 59). -/
def State.loftRead (s : State) (z : LoftBlock) : List Host.Cell × BitVec 256 :=
  match z.place with
  | .sram k a => (blockCells (s.tile k).sram a, blockPoison (s.tile k).spoi a)
  | .rows k r0 => ((s.tile k).rowCells r0, z.poi)
  | .save a => (blockCells s.dev a, blockPoison s.devPoi a)
/-- A memory with 4 KiB written. -/
def putBlock (m cells : List Host.Cell) (a : Nat) : List Host.Cell := Memory.write m a (Memory.reads cells 0 4096)
/-- The poison bits of 4 KiB written. -/
def putPoison (m : Sparse Bool) (a : Nat) (poi : BitVec 256) : Sparse Bool :=
  (List.range 256).foldl (fun m i => sset false m (a / 16 + i) (poi.getLsbD i)) m
/-- A block written at a place. -/
def State.loftWrite (s : State) (place : LoftPlace) (cells : List Host.Cell) (poi : BitVec 256) : State :=
  match place with
  | .sram k a => s.modTile k fun t => { t with sram := putBlock t.sram cells a, spoi := putPoison t.spoi a poi }
  | .rows k r0 => s.modTile k fun t =>
      (List.range 32).foldl (fun t i =>
        t.writeV (r0 + i) ⟨BitVec.ofNat 1024 (ofBytes (Memory.reads cells (128 * i) 128)), .raw, false⟩) t
  | .save a => { s with dev := putBlock s.dev cells a, devPoi := putPoison s.devPoi a poi }
/-- R176: the tag of a block: over its bytes, its poison bits, PARTID, LSEQ, CTX, its number and the partition's count
(DEDUCED, log 59). -/
def loftTag (key : BitVec 256) (p : Nat) (l : Launch) (num count : Nat) (cells : List Host.Cell) (poi : BitVec 256) : W64 :=
  keyTag key (Memory.reads cells 0 4096 ++ bytesOf 32 poi.toNat ++ bytesOf 2 p ++ bytesOf 8 l.lseq.toNat ++ bytesOf 2 l.ctx ++
    bytesOf 4 num ++ bytesOf 4 count)
/-- R178, R179: a block fails its tag or has been struck. What is as it was sealed passes (DESIGN CHOICE, log 59). -/
def State.blockFails (s : State) (p : Nat) (l : Launch) (stablings : Nat) (z : LoftBlock) : Bool :=
  let c := s.loftRead z
  z.struck || !((c.1 == z.cells && c.2 == z.poi && z.count == stablings) ||
    loftTag (Config.stabKey s.onCount) p l z.num stablings c.1 c.2 == z.tag)

/-! ## The loft directory (R177) -/

/-- The blocks of a partition's stabled launch. -/
def Part.blocks (q : Part) : List LoftBlock :=
  match q.stab with
  | some z => z.blocks
  | none => []
/-- The places that hold a block. -/
def State.loftUsed (s : State) : List LoftPlace :=
  s.partIds.flatMap fun p => match s.part p with
    | some q => q.blocks.map (·.place)
    | none => []
/-- The tile of a place. -/
def LoftPlace.tile : LoftPlace → Option Nat
  | .sram k _ => some k
  | .rows k _ => some k
  | .save _ => none
/-- R176: the tile, by key, whose image a block belongs to. -/
def Part.blockTile (q : Part) (num : Nat) : Nat :=
  let i := num / 2 ^ 16
  tileKey (4 * q.px0 + i % (4 * q.w)) (4 * q.py0 + i / (4 * q.w))
/-- The distance of two tiles by rows and columns. -/
def tileDist (a b : Nat) : Nat := (((a % 256 : Nat) : Int) - (b % 256 : Nat)).natAbs + (((a / 256 : Nat) : Int) - (b / 256 : Nat)).natAbs
/-- Tiles by their distance from a tile (DESIGN CHOICE, log 59). -/
def nearestFirst (k : Nat) (ks : List Nat) : List Nat := (List.range 400).flatMap fun d => ks.filter fun j => tileDist k j == d
/-- R177: the lofts of a partition's own tiles, nearest to tile k first, then those of other partitions in ascending id. Step 1
of the rule names the incoming launch's tiles; the model takes in the tiles that this launch leaves idle, whose lofts R175 gives
too (DESIGN CHOICE, log 59). -/
def State.loftOrder (s : State) (p : Nat) (q : Part) (k : Nat) : List LoftPlace :=
  (if q.lofty then (nearestFirst k q.tileKeys).flatMap (s.loftsOf q) else []) ++
    (s.partIds.filter (· != p)).flatMap fun j => match s.part j with
      | some o => if o.lofty then o.tileKeys.flatMap (s.loftsOf o) else []
      | none => []
/-- Code or arguments that wait for a start stand in a place (R156). -/
def State.codeStands (s : State) (z : LoftPlace) : Bool := s.partIds.any fun p => match s.part p with
  | some q => q.loaded.any fun l => l.standsIn z
  | none => false
/-- R177: the place of a new block of tile k's image: the first free loft that is not barred and in which no code waits, else the
partition's save area beyond the frame (DESIGN CHOICE, log 59). -/
def State.placeFor (s : State) (p : Nat) (q : Part) (k : Nat) (barred : LoftPlace → Bool) : LoftPlace :=
  let used := s.loftUsed
  match (s.loftOrder p q k).find? fun z => !used.contains z && !barred z && !s.codeStands z with
  | some z => z
  | none =>
    let at_ (n : Nat) : LoftPlace := .save (q.save + 256 + 32768 * (16 * q.w * q.h) + 4096 * n)
    at_ (((List.range (used.length + 1)).find? fun n => !used.contains (at_ n)).getD 0)
/-- A block of partition p moved to a new place; it keeps its tag (DESIGN CHOICE, log 59). -/
def State.moveBlock (s : State) (p : Nat) (barred : LoftPlace → Bool) (z : LoftBlock) : State :=
  match s.part p with
  | none => s
  | some q =>
    let c := s.loftRead z
    let home := s.placeFor p q (q.blockTile z.num) barred
    (s.loftWrite home c.1 c.2).modPart p fun q =>
      { q with stab := q.stab.map fun w =>
          { w with blocks := w.blocks.map fun x => if x.num = z.num then { x with place := home } else x } }
/-- R177: every block in a barred place moved. -/
def State.evict (s : State) (barred : LoftPlace → Bool) : State :=
  s.partIds.foldl (fun s p => match s.part p with
    | some q => (q.blocks.filter fun z => barred z.place).foldl (fun s z => s.moveBlock p barred z) s
    | none => s) s
/-- R177: the footprint and the row grant of a launch. -/
def Bank.covers (b : Bank) : LoftPlace → Bool
  | .sram k a => b.maps k && a < 1024 * b.foot
  | .rows k r0 => b.maps k && r0 < b.rows
  | .save _ => false
/-- A tile holds a block. -/
def State.holdsBlock (s : State) (k : Nat) : Bool := s.loftUsed.any fun z => z.tile == some k

end Sys2Proof.Machine
end

