-- ==== Sys2Proof/Machine/Launch.lean ====
section
/-! DEFINITION. The life of a launch: choice and commitment (R149 to R152), expansion and placing (R122, R123), launch
faults (R147), the start cycle and the state at LCYC 0 (R300), retirement (R123), measurement, chains and receipts (R128 to
R130), the watchdog (R118, R158). -/

namespace Sys2Proof.Machine

/-! ## Tiles of a partition -/

/-- The machine with every tile of a list changed. -/
def State.modTiles (s : State) (ks : List Nat) (f : Nat → Tile → Tile) : State :=
  ks.foldl (fun s k => s.modTile k (f k)) s
/-- R26: the fields a partition touches. -/
def Part.fieldsOf (q : Part) : List Nat :=
  (List.range 48).filter fun f =>
    let fx := f % 8
    let fy := f / 8
    q.px0 / 8 ≤ fx && fx ≤ (q.px0 + q.w - 1) / 8 && q.py0 / 6 ≤ fy && fy ≤ (q.py0 + q.h - 1) / 6
/-- R87: every field of the partition is aligned. -/
def State.aligned (s : State) (q : Part) : Bool :=
  q.fieldsOf.all fun f => let z := sget FieldSt.zero s.fields f; !z.lost && !z.outOfService && z.locked
/-- R108, R109: the partition is in ACTIVE. -/
def Part.active (q : Part) : Bool := q.power == .active && q.trans.isNone

/-- What holds of a tile that no launch runs on: nothing in flight, no arrival, IDLE (R123, R171). -/
def Tile.idled (t : Tile) : Tile :=
  { t with
    task := { t.task with hold := none, todo := [], mask := 0, target := none, latches := [] }
    st := .idle, heldState := .idle, voided := false, mapped := false, wid := 0, trA := [], trB := [], arrN := none, arrE := none,
    arrS := none, arrW := none, mx := [], finals := [], ta := none, tb := none, g := none, sw := none, ops := [],
    wrote := 0, spec := [], deferred := [], defOver := false, raise := none, gTails := [] }
/-- R300, R121, R122: a mapped tile at LCYC 0: its registers as R300 gives them, rows above the grant and SRAM as they
are, RUNNING at bundle ENTRY; its messages carry the generation of the launch (R74). -/
def Tile.started (t : Tile) (b : Bank) (gen : Byte) (wid : W64) : Tile :=
  { Tile.zero with
    part := t.part, task := { Ctx.zero with pc := b.ioff + 64 * b.entry, gen := gen }, fw := t.fw, st := .running, mapped := true, wid := wid,
    rows := t.rows.filter fun e => b.rows ≤ e.1, sram := t.sram, spoi := t.spoi, yhist := t.yhist,
    health := t.health }

/-- R156: the state of a tile that the running launch, if there is one, does not map: LOADED where the launch in the next slot
maps it, its code and arguments are placed and `waits` says that nothing runs, STABLED where its state is in lofts, else
IDLE. -/
def Part.restState (q : Part) (waits : Bool) (k : Nat) : TaskState :=
  if waits && q.next.any fun l => l.placed && l.bank.maps k then .loaded
  else if q.stab.any fun z => z.tiles.any fun e => e.1 == k then .stabled
  else .idle
/-- R156: the tiles of a partition on which no launch runs take their states. -/
def State.rest (s : State) (p : Nat) : State :=
  match s.part p with
  | none => s
  | some q => s.modTiles q.tileKeys fun k t => { t with st := q.restState true k }

/-! ## Ends of launches (R113, R128 to R130, R147, R151) -/

/-- R130: bytes 0 to 191 of a receipt. -/
def receiptBytes (status gen tries ctx modid lseq start end_ : Nat) (meas c0 c1 rsm3 bootm : BitVec 256) : BitVec 1536 :=
  BitVec.ofNat 1536 (record [(0, 1, 1), (1, 1, status), (2, 1, gen), (3, 1, tries), (4, 2, ctx), (6, 2, modid),
    (8, 8, lseq), (16, 8, start), (24, 8, end_), (32, 32, meas.toNat), (64, 32, c0.toNat), (96, 32, c1.toNat),
    (128, 32, rsm3.toNat), (160, 32, bootm.toNat)])
/-- R129, R130, R151, R116: a launch of partition p ends with a receipt status (R130) and, if not 0, a queue error code
and detail: the result buffer is measured, the chain extended, the charge taken, the record completed
(DEDUCED, log 52). -/
def State.conclude (s : State) (p : Nat) (l : Launch) (status code detail : Nat) : State :=
  let fault := status = 3
  let gen := match s.part p with
    | some q => if fault then s.wgen else q.gen
    | none => s.wgen
  let buf := if status < 2 && l.bank.rbuf != 0 then some (s.object l.bank l.bank.rbuf l.bank.rblen).1 else none
  let meas : BitVec 256 := if fault then 0 else match buf with
    | some b => extendBy l.meas 4 b
    | none => l.meas
  let c0 := sget s.bootm s.chains l.ctx
  let c1 := if fault then c0 else extendBy c0 5 (digestBytes meas)
  let rcpt := receiptBytes status gen.toNat (if fault then 0 else l.attempts) l.ctx s.modid.toNat l.lseq.toNat
    (if fault then 0 else l.lastS.getD 0) s.gcyc meas c0 c1 (match buf with | some b => digestOf b | none => 0) s.bootm
  let s := { s with chains := sset s.bootm s.chains l.ctx c1 }
  let same := (s.queue l.q).epoch = l.epoch
  let s := s.modQueue l.q fun d =>
    { d with
      def_ := if fault then d.def_ else d.def_ - l.charge
      recs := if same then d.recs.map fun r => if r.idx = l.idx then { r with rcpt := rcpt } else r else d.recs }
  let s := if code = 0 then s else s.queueError l.q code l.lseq.toNat detail p
  if same then s.complete l.q l.idx else s

/-! ## Choice (R149, R151) -/

/-- R148, R149: the LAUNCH at the head of a queue whose start conditions hold. -/
def Queue.launchHead (d : Queue) : Option Rec :=
  match d.head with
  | some r => if r.kind == 1 && d.mayStart r && d.en && d.st == .running then some r else none
  | none => none
/-- R149: the queues that have a LAUNCH eligible for a partition. -/
def State.eligible (s : State) (p : Nat) : List Nat :=
  match s.part p with
  | none => []
  | some q =>
    if !q.active || s.trip then []
    else (skeys s.queues).filter fun j => let d := s.queue j; d.pset.contains p && d.launchHead.isSome
/-- R151 step 1: the pre-empted launch is resumed before these. -/
def Part.resumesFirst (q : Part) (prios : List Nat) : Bool :=
  match q.stab with
  | some z => prios.all fun n => z.launch.prio ≤ n
  | none => false
/-- R151 step 4: the refills that make a deficit of at most 0 positive. -/
def refills (def_ : Int) (quant : Nat) : Nat := (-def_).toNat / quant + 1
/-- R151 step 3: the queue met first from the pointer on, going up and wrapping. -/
def firstFrom (rr : Nat) : List Nat → Option Nat
  | [] => none
  | j :: js =>
    match firstFrom rr js with
    | none => some j
    | some i => if (j + 32768 - rr) % 32768 ≤ (i + 32768 - rr) % 32768 then some j else some i
/-- R151 steps 3 to 5: a queue of the list, all of one priority, with the deficits refilled if need be. -/
def State.pick (s : State) (p prio : Nat) (js : List Nat) : Option Nat × State :=
  let rr := match s.part p with
    | some q => sget 0 q.rr prio
    | none => 0
  let positive (s : State) : List Nat := js.filter fun j => 0 < (s.queue j).def_
  let s :=
    if (positive s).isEmpty then
      let ks := js.map fun j => refills (s.queue j).def_ ((s.queue j).field 40 4)
      let k := ks.foldl Nat.min (ks.headD 1)
      js.foldl (fun t j => t.modQueue j fun d => { d with def_ := (s.queue j).def_ + k * d.field 40 4 }) s
    else s
  match firstFrom rr (positive s) with
  | none => (none, s)
  | some j => (some j, s.modPart p fun q => { q with rr := sset 0 q.rr prio ((j + 1) % 32768) })

/-! ## Commitment, placing, announcement (R122, R123, R150) -/

/-- R122 step 4, R177: code and arguments in the SRAM of every mapped tile, once the blocks that lie in the launch's
footprint or row grant have been moved away. -/
def State.place (s : State) (l : Launch) : State :=
  let b := l.bank
  (s.evict b.covers).modTiles (b.wids.map (·.1)) fun _ t =>
    (t.writeSram b.ioff (l.code.drop 64) false).writeSram b.argoff l.args false
/-- R123: a successor may be placed while this launch runs: all of it lies above the footprint. -/
def Launch.clearOf (l : Launch) (foot : Nat) : Bool :=
  1024 * foot ≤ l.bank.ioff && (l.bank.argLen = 0 || 1024 * foot ≤ l.bank.argoff)

/-- R150, R152: the next slot is filled with a launch that has come out of expansion; it is placed where R123 allows
it, and pre-emption is asked for where R152 does. -/
def State.fillNext (s : State) (p : Nat) (q : Part) (l : Launch) : State :=
  let early := match q.run with
    | some r => l.clearOf r.bank.foot
    | none => true
  let s := s.modPart p fun q => { q with next := some { l with placed := early } }
  let s := if early then s.place l else s
  let s := if q.run.isSome then s else s.rest p
  match q.run with
  | some r =>
    if r.bank.preempt != 0 && q.stab.isNone && l.prio < r.prio then s.at_ s.gcyc (.preemptRequest p) else s
  | none => s

/-- R147, R77: a launch ends with a failure of its expansion. -/
def State.refuseLaunch (s : State) (p : Nat) (l : Launch) (f : Refused) : State :=
  let s := if f.code = 1 then s.modPart p fun q => { q with lfault := BitVec.ofNat 32 f.detail } else s
  (s.conclude p l 3 f.code f.detail).at_ s.gcyc (.scheduleCommit p)
/-- R150, R122, R147: the scheduler of a partition commits the launch it chooses; after a launch fault it chooses again at
once (DEDUCED, log 49; DEDUCED, log 52). -/
def State.commit (s : State) (p : Nat) : State :=
  match s.part p with
  | none => s
  | some q =>
    let js := s.eligible p
    let prios := js.map fun j => (s.queue j).prio
    if q.next.isSome || js.isEmpty || q.resumesFirst prios then s
    else
      let prio := prios.foldl Nat.min 3
      match s.pick p prio (js.filter fun j => (s.queue j).prio = prio) with
      | (none, s) => s
      | (some j, s) =>
        match (s.queue j).launchHead with
        | none => s
        | some r =>
          let d := s.queue j
          let l : Launch := ⟨j, r.idx, d.ctx, r.lseq, r.prio, Bank.zero, none, 0, [], [], 0, false, 0, d.epoch, [], [], none⟩
          let s := s.modQueue j fun d => d.begin r.idx.toNat
          match s.expand q (recF r.bytes 144 8) l with
          | .ok l => s.fillNext p q l
          | .error f => s.refuseLaunch p l f

/-- R150: an earlier LAUNCH of the queue stands in a next slot, with a start cycle of this kind. -/
def State.earlierHas (s : State) (l : Launch) (kind : Option Nat → Bool) : Bool :=
  s.partIds.any fun p => match s.part p with
    | some q => match q.next with
      | some o => o.q == l.q && o.epoch == l.epoch && kind o.s && 1 ≤ (l.idx - o.idx).toNat && (l.idx - o.idx).toNat < 2 ^ 31
      | none => false
    | none => false
/-- R150, R87, R109, R110: a start cycle may be announced for a launch of the partition: no earlier one of its queue waits
for one (DEDUCED, log 49). -/
def State.mayAnnounce (s : State) (q : Part) (l : Launch) : Bool :=
  !s.trip && q.active && s.aligned q && !s.earlierHas l Option.isNone
/-- R118, R123: the first multiple of 12,288 at or after a cycle. -/
def roundUp (n : Nat) : Nat := (n + 12287) / 12288 * 12288
/-- R150, R156: a start cycle fixed for a launch; the first S of a launch bounds those of its successors
(DEDUCED, log 49). -/
def State.fixStart (s : State) (p : Nat) (l : Launch) (retry : Bool) (at_ : Nat) : State :=
  let l := { l with s := some at_, placed := true }
  let s := s.modPart p fun q => if retry then { q with run := some l } else { q with next := some l }
  let s := if retry then s else s.modQueue l.q fun d => { d with lastS := Nat.max d.lastS at_ }
  s.at_ at_ (.launchStart p)
/-- R123, R153: a start cycle announced at least D cycles ahead, after the load is complete (DEDUCED, log 49). -/
def State.announceStart (s : State) (p : Nat) (q : Part) (l : Launch) (retry : Bool) : State :=
  let s := if l.placed then s else s.place l
  let s := s.modTiles (l.bank.wids.map (·.1)) fun _ t => { t with st := .loaded }
  let last := if retry then 0 else (s.queue l.q).lastS
  if l.bank.aligns then s.fixStart p l retry (roundUp (Nat.max (s.gcyc + q.dist) last))
  else
    let (n, s) := s.nextDelay
    s.fixStart p l retry (Nat.max (s.gcyc + q.dist + (n - 1)) last)
/-- R123: the partition is free and a launch of it waits for a start cycle: the re-issued one first (R153). -/
def Part.toAnnounce (q : Part) : Option (Launch × Bool) :=
  if q.freeze.isSome then none
  else
    match q.run with
    | some l => if l.s.isNone then some (l, true) else none
    | none =>
      match q.next with
      | some l => if l.s.isNone then some (l, false) else none
      | none => none

/-- R109: a LAUNCH at its head whose partitions are all outside ACTIVE, not yet reported. -/
def State.toNote (s : State) (p : Nat) : Option (Nat × Rec) :=
  (skeys s.queues).findSome? fun j =>
    let d := s.queue j
    match d.launchHead with
    | some r =>
      if !r.noted && d.pset.contains p && d.pset.all (fun i => match s.part i with
          | some q => !q.active
          | none => true) then some (j, r)
      else none
    | none => none
/-- R108: the codes of the partition states. -/
def PPower.code : PPower → Nat
  | .active => 0
  | .idle => 1
  | .retain => 2
  | .dark => 3
/-- R109: the event is posted once for each such partition. -/
def State.noteInactive (s : State) (j : Nat) (r : Rec) : State :=
  let d := s.queue j
  let s := d.pset.foldl (fun s i => match s.part i with
    | some q => s.notePart i 0x10 q.power.code 0
    | none => s) s
  s.modQueue j fun d => { d with recs := d.recs.map fun x => if x.idx = r.idx then { x with noted := true } else x }

/-- The scheduler of a partition has something to do: a report of R109, a choice of R150, or a start cycle of R123. -/
def State.scheduleDue (s : State) (p : Nat) : Bool :=
  match s.part p with
  | none => false
  | some q =>
    (s.toNote p).isSome ||
      (q.next.isNone && !(s.eligible p).isEmpty && !q.resumesFirst ((s.eligible p).map fun j => (s.queue j).prio)) ||
      (match q.toAnnounce with
      | some (l, _) => s.mayAnnounce q l || (s.withdrawnPen q).isSome
      | none => false)
/-- SCHEDULE_COMMIT (R109, R117 to R123, R141 to R151): a launch of a partition that holds a withdrawn pen ends with its
fault instead of a start cycle (R77), and its tiles, where it was placed, are LOADED no more (R156). -/
def execScheduleCommit (p : Nat) (s : State) : Out :=
  let s := match s.toNote p with
    | some (j, r) => s.noteInactive j r
    | none => s
  let s := s.commit p
  .next (match s.part p with
    | none => s
    | some q =>
      match q.toAnnounce, s.withdrawnPen q with
      | some (l, false), some pen => ((s.setPart p { q with next := none }).refuseLaunch p l (.fault 0x0A 0 pen)).rest p
      | some (l, retry), _ => if s.mayAnnounce q l then s.announceStart p q l retry else s
      | none, _ => s)

/-! ## Start (R122, R300) -/

/-- R122, R300, R74, R12: every mapped tile of an attempt starts at this cycle, clear of lofts (R177)
(DESIGN CHOICE, log 28). -/
def State.beginAttempt (s : State) (p : Nat) (l : Launch) : State :=
  match s.part p with
  | none => s
  | some q =>
    let b := l.bank
    let s := s.modTiles q.tileKeys fun k t => { t.idled with st := q.restState false k, fwRegs := [] }
    let s := b.wids.foldl (fun s e => s.modTile e.1 fun t => t.started b s.wgen e.2) (s.evict b.covers)
    let s := s.modPart p fun q =>
      { q with lbase := s.gcyc, gen := s.wgen, bank := b, freeze := none, links := [], arrivals := [], sweepWords := [], bars := [],
               ring := none, barFire := none
               run := some { l with code := [], args := [], attempts := l.attempts + 1, lastS := some s.gcyc } }
    if b.wdog = 0 then s else s.at_ (s.gcyc + (b.wdog - q.dist)) (.watchdog p)

/-- LAUNCH_START (R122, R123, R150, R153): at S the next slot empties and the attempt starts; where the start is no
longer allowed (R77, R87, R109, R110), or an earlier LAUNCH of the queue has lost its start cycle (R150), another is
announced later (DEDUCED, log 49). -/
def execLaunchStart (p : Nat) (s : State) : Out :=
  .next (match s.part p with
    | none => s
    | some q =>
      let here (l : Launch) : Bool := l.s == some s.gcyc
      let ok := !s.trip && s.aligned q && q.active && (s.withdrawnPen q).isNone
      match q.run, q.next with
      | some l, _ =>
        if !here l || l.code.isEmpty then s
        else if ok then s.beginAttempt p l
        else s.setPart p { q with run := some { l with s := none } }
      | none, some l =>
        if !here l then s
        else if ok && !s.earlierHas l (fun o => o.all (s.gcyc < ·)) then (s.setPart p { q with next := none }).beginAttempt p l
        else s.setPart p { q with next := some { l with s := none } }
      | none, none => s)

/-! ## Retirement (R123) -/

/-- R123: a remote operation is outstanding: it has not acted, or its reply has not been delivered
(DEDUCED, log 56). -/
def RemOp.outstanding (o : RemOp) : Bool :=
  o.open_ || (match o.kind with
    | .ldg | .amo _ | .cas _ => o.dest < 32
    | .stg | .stp | .gst | .wake | .crdy => false)
/-- R123: a tile has nothing to do at the end of a cycle. The list asks of the matrix engine the end of its busy period
(R352) alone, not the cycles at which its rows become final (DEDUCED, log 25). -/
def Tile.quiet (t : Tile) (l : Nat) : Bool :=
  (!t.mapped || t.st == .ended) && t.ops.all (fun o => !o.outstanding) && t.task.latches.isEmpty &&
    t.commands.all (fun c => c.busy ≤ l && c.follow.isNone) && t.mx.all (fun m => m.c + 32 * m.n ≤ l + 1)
/-- R123, R400: the launch of a partition retires at the end of this cycle (DEDUCED, log 25). -/
def State.retires (s : State) (p : Nat) : Bool :=
  match s.part p with
  | none => false
  | some q =>
    match q.run with
    | none => false
    | some l =>
      (match l.s with
        | some c => c ≤ s.gcyc
        | none => false) && l.code.isEmpty && q.freeze.isNone && q.links.isEmpty && q.arrivals.isEmpty &&
        q.tileKeys.all fun k => (s.tile k).quiet (s.gcyc - q.lbase)

/-- R123: what follows an end of a launch at this cycle whose successor starts with zero gap, if it can
(DEDUCED, log 49). -/
def State.zeroGap (s : State) (p : Nat) : State :=
  match s.part p with
  | none => s
  | some q =>
    match q.next with
    | none => s
    | some l =>
      if l.s.isNone && l.placed && !l.bank.aligns && s.mayAnnounce q l && (s.withdrawnPen q).isNone && (s.queue l.q).lastS ≤ s.gcyc + 1 then
        s.fixStart p l false (s.gcyc + 1)
      else s

/-- A partition whose launch has ended: no tile acts on (R123, R171), its pages are released (R113); under a thermal trip
it stays frozen (R110). -/
def State.vacate (s : State) (p : Nat) : State :=
  match s.part p with
  | none => s
  | some q =>
    (s.modTiles q.tileKeys fun k t => { t.idled with st := q.restState true k }).modPart p fun q =>
      { q with run := none, freeze := if s.trip then q.freeze else none, links := [], arrivals := [], sweepWords := [], bars := [],
               ring := none, barFire := none }

/-- LAUNCH_RETIRE (R123, R113, R128 to R130, R151, R170). -/
def execLaunchRetire (p : Nat) (s : State) : Out :=
  .next (match s.part p with
    | none => s
    | some q =>
      match q.run with
      | none => s
      | some l =>
        if !s.retires p then s
        else
          let l := { l with charge := l.charge + (s.gcyc - q.lbase) + 1 }
          let s := s.vacate p
          let partial_ := !l.voids.isEmpty
          (s.conclude p l (if partial_ then 1 else 0) (if partial_ then 5 else 0) 0).zeroGap p)

/-- WATCHDOG (R118, R158): the freeze of cause 0x0D, subcode 1, F at LCYC WDOG or, where that lies less than D cycles
after S or G, D cycles after it; in a shadow it makes the outcome a discard (R162). -/
def execWatchdog (p : Nat) (s : State) : Out :=
  .next (match s.part p with
    | none => s
    | some q =>
      let l := s.gcyc - q.lbase
      match q.run with
      | none => s
      | some r =>
        if r.bank.wdog = 0 || l < r.bank.wdog - q.dist || !r.code.isEmpty then s
        else
          match q.freeze with
          | some z => if z.stopped then s else s.setPart p (q.frontTrap l (l + q.dist) 0x0D 1)
          | none => s.setPart p (q.frontTrap l (l + q.dist) 0x0D 1))

end Sys2Proof.Machine
end

