-- ==== Sys2Proof/Machine/Freeze.lean ====
section
/-! DEFINITION. Freezes from F on: stopping and the trap registers (R163, R164, R399), the fault records and the frame
(R165, R166), containment and outcomes (R157, R162, R169 to R172), the trap queue (R105, R106), resume (R167), retry
(R153), discard (R171), pre-emption (R173, R174), stabling and restore (R176 to R179), and the front end's requests. -/

namespace Sys2Proof.Machine

/-! ## What a freeze finds -/

/-- R159, R105: the raising tiles, by lowest y, then lowest x. -/
def State.raisers (s : State) (q : Part) : List Nat := q.tileKeys.filter fun k => (s.tile k).raise.isSome
/-- R105, R399: the tile that the trap-queue record describes. -/
def State.firstTile (s : State) (q : Part) : Option Nat :=
  match (s.raisers q).head? with
  | some k => some k
  | none => (q.tileKeys.filter fun k => (s.tile k).mapped).head?

/-! ## Fault records (R166) -/

/-- R166: a word entry: a row with its metadata, dx and dy or a destination in bytes 130 and 131, a due cycle. -/
def wordEntry (w : RowReg) (b130 b131 due : Nat) : List Byte :=
  bytesOf 128 w.bits.toNat ++
    bytesOf 16 (1 + 2 ^ 8 * (tagOf w.fmt w.poi).toNat + 2 ^ 16 * (b130 % 256) + 2 ^ 24 * (b131 % 256) + 2 ^ 64 * due)
/-- A signed displacement as a byte. -/
def intByte (d : Int) : Nat := (BitVec.ofInt 8 d).toNat
/-- R166: the KIND of a latch; the write of a special register has none (DESIGN CHOICE, log 54). -/
def LatchKind.code : LatchKind → Option Nat
  | .scalar => some 1
  | .pred => some 2
  | .row => some 3
  | .btgt => some 4
  | .sram => some 5
  | .special => none
/-- R166: the byte enables of a latch: of a row as its bits are enabled, of a write as its pieces lie, of a smaller
result all or none. -/
def Latch.byteEnables (l : Latch) : Nat :=
  let ofBits (f : Nat → Bool) : Nat := (List.range 128).foldl (fun n i => if f i then n + 2 ^ i else n) 0
  match l.kind with
  | .row => ofBits fun i => l.en.extractLsb' (8 * i) 8 != 0
  | .sram => ofBits fun i => l.reads.any fun r => r.pos ≤ i && i < r.pos + r.n
  | .scalar | .pred | .btgt | .special => if l.en = 0 then 0 else 2 ^ 128 - 1
/-- R166: a latch entry at F (DESIGN CHOICE, log 54). -/
def Latch.entry (l : Latch) (f : Nat) : Option (List Byte) :=
  l.kind.code.map fun k =>
    let store := l.kind == .sram
    let addr := match l.reads with
      | r :: _ => if store then r.addr - r.pos else 0
      | [] => 0
    bytesOf 32 (record [(0, 1, k), (1, 1, l.slot), (2, 2, if store then 0 else l.dest), (4, 1, (tagOf l.fmt l.poi).toNat),
      (5, 1, l.due - f), (8, 4, addr), (16, 16, l.byteEnables)]) ++ bytesOf 128 (l.val &&& (if store then allBits else l.en)).toNat
/-- R166: an entry of the deferred list. -/
def DefFault.entry (d : DefFault) : List Byte :=
  bytesOf 16 (record [(0, 1, d.cause), (1, 1, d.sub), (2, 1, d.slot), (4, 4, d.bundle), (8, 8, d.cyc)])
/-- Byte strings laid out one after another from an offset. -/
def layOut (o : Nat) : List (List Byte) → List (Nat × List Byte)
  | [] => []
  | e :: es => (o, e) :: layOut (o + e.length) es
/-- R166, R210: the words in the two stages of the outgoing link of tile (x, y) on a side, as stage and entry: of a word
two cycles or more from its end the first, else the second (DESIGN CHOICE, log 54). -/
def Part.linkEntries (q : Part) (x y : Nat) (side : Side) (f : Nat) : List (Nat × List Byte) :=
  let st := sideStep side
  let nx : Int := x + st.1
  let ny : Int := y + st.2
  let at_ (a b : Nat) : Bool := (a : Int) == nx && (b : Int) == ny
  let stage (cycle : Nat) : Nat := if cycle ≤ f then 1 else 0
  (q.links.filter fun l => at_ l.x l.y && l.inn == some (opposite side)).map
      (fun l => (stage l.enter, wordEntry l.w (intByte l.dx) (intByte l.dy) 0)) ++
    (q.arrivals.filter fun a => at_ a.x a.y && a.port == opposite side).map fun a => (stage a.due, wordEntry a.w 0 0 0)
/-- R166: the first word of the instruction in a slot of a bundle in SRAM. -/
def Tile.slotWord (t : Tile) (bundle slot : Nat) : W32 :=
  let w := Dec.bundleWords (Memory.reads t.sram bundle 64)
  let h := w.getD 0 0
  match (Dec.walk (h.extractLsb' 0 8) (h.extractLsb' 8 8) w Dec.allSlots 1).reached.find? fun q => Dec.slotNum q.slot = slot with
  | some q => q.words.getD 0 0
  | none => 0
/-- R166, R173: a channel in the engine summary: its command word and next row. -/
def Tile.chanEntry (t : Tile) (f : Nat) : Option ChCmd → Nat
  | some c => if f ≤ c.busy then (t.slotWord c.bundle 6).toNat + 2 ^ 32 * Nat.max c.read c.landed else 0
  | none => 0
/-- R166, R173: the engine summary at F: for TA, TB, G and S 8 bytes each, the command word and the next row; for the matrix
engine its command word, K step and cycle within the step, 4 bytes each; then a byte for the rows in each trough
(DESIGN CHOICE, log 54). -/
def Tile.engines (t : Tile) (f : Nat) : Nat :=
  let mx : Nat := match t.mx.find? fun m => f < m.c + 32 * m.n with
    | some m => (t.slotWord m.bundle m.slot).toNat + 2 ^ 32 * ((f - m.c) / 32) + 2 ^ 64 * ((f - m.c) % 32)
    | none => 0
  record [(0, 8, t.chanEntry f t.ta), (8, 8, t.chanEntry f t.tb), (16, 8, t.chanEntry f t.g), (24, 8, t.chanEntry f t.sw),
    (32, 12, mx), (48, 1, t.trA.length), (49, 1, t.trB.length)]
/-- R166, R224: what the two sweep buffers of tile k hold at F: the words of the column phase once they have come, else those
of the row phase; in a BCS the root's row. Nothing once the sweep has ended (DESIGN CHOICE, log 54). -/
def State.sweepBuffers (s : State) (q : Part) (k f : Nat) : Option RowReg × Option RowReg :=
  match (s.tile k).sw with
  | some c =>
    if f ≤ c.busy && c.landed = 0 then
      match q.sweepAt k c.c with
      | some w =>
        if w.kind == .bcs then
          let r := s.bcsRow k q w
          (if w.pre.isEmpty && w.above.isEmpty then none else some r, if w.suf.isEmpty && w.below.isEmpty then none else some r)
        else
          (if w.above.isEmpty then foldL w.op w.fmt w.pre else foldL w.op w.fmt w.above,
            if w.below.isEmpty then foldR w.op w.fmt w.suf else foldR w.op w.fmt w.below)
      | none => (none, none)
    else (none, none)
  | none => (none, none)
/-- R166: the fault record of tile k at F, as offsets and bytes; everything else is zero
(DESIGN CHOICE, log 54; DEDUCED, log 55). -/
def State.faultRecord (s : State) (q : Part) (k f : Nat) : List (Nat × List Byte) :=
  let t := s.tile k
  let x := k % 256
  let y := k / 256
  let c := t.task
  let held := match c.hold with
    | some h => h.until_ - f
    | none => 0
  let ls := c.latches.filterMap fun l => l.entry f
  let replies := (t.ops.filter fun o => (o.kind == .ldg || o.isAmo) && o.dest < 32 && o.done && !o.late).map fun o =>
    wordEntry ⟨o.result.setWidth 1024, o.fmt, o.rpoi || o.gpoi⟩ o.dest 0 o.deadline
  let arr := if t.mapped then [(0, t.arrN), (1, t.arrE), (2, t.arrS), (3, t.arrW)] else []
  let bufs := s.sweepBuffers q k f
  let sweep (o : Nat) (b : Option RowReg) : List (Nat × List Byte) := match b with
    | some r => [(o, wordEntry r 0 0 0)]
    | none => []
  [(0, bytesOf 32 (record [(0, 8, c.trapc.toNat), (8, 8, c.trapb.toNat), (16, 8, c.trapm.toNat), (24, 8, c.trapt.toNat)])),
    (0x20, bytesOf 16 (record [(0, 1, t.stateCode), (8, 8, held)])),
    (0x30, bytesOf 4 (record [(0, 1, ls.length), (1, 1, t.deferred.length), (2, 1, replies.length), (3, 1, t.defOver.toNat)]))] ++
    layOut 0x80 (t.deferred.map DefFault.entry) ++
    (arr.filterMap fun e => e.2.map fun w => (0x180 + 144 * e.1, wordEntry w 0 0 0)) ++
    ([Side.n, .e, .s, .w].flatMap fun d =>
      (q.linkEntries x y d f).map fun e => (0x3C0 + 144 * (2 * sideNum d + e.1), e.2)) ++
    sweep 0x840 bufs.1 ++ sweep 0x8D0 bufs.2 ++ layOut 0x960 replies ++ layOut 0x1260 ls ++ [(0x4E60, bytesOf 50 (t.engines f))]
/-- R165: the fault record of tile k written to its place. -/
def State.writeRecord (s : State) (q : Part) (k f : Nat) : State :=
  let a := q.recordAt (k % 256) (k / 256)
  let r := s.faultRecord q k f
  let s := { s with dev := Memory.clear s.dev a 32768 }
  r.foldl (fun s e => s.writeDev (a + e.1) e.2 false) s

/-! ## Stopping at F (R163, R164) -/

/-- R83: the bundle due at H is unmarked: the tile would issue a bundle without the B mark. -/
def Tile.unmarked (t : Tile) (f : Nat) : Bool :=
  t.st == .running && t.task.next ≤ f && !(BitVec.ofNat 32 (ofBytes (Memory.reads t.sram t.task.pc 4))).getLsbD 17
/-- R156, R163: a tile stops. -/
def Tile.freeze (t : Tile) : Tile :=
  if t.st == .running || t.st == .ended then { t with heldState := t.st, st := .frozen } else t
/-- R84, R86: the first mapped tile of a partition lists an error that lies in no tile (DEDUCED, log 16). -/
def State.listError (s : State) (p l : Nat) : State :=
  (s.mappedOf p).head?.elim s fun k => s.modTile k fun t => t.listFault ⟨0x0A, 0, 0xFF, 0, l⟩
/-- R171: the operations that a flag holds back at F. -/
def State.keepHeld (s : State) (ks : List Nat) : State :=
  s.modTiles ks fun k t => { t with ops := t.ops.map fun o => { o with kept := o.open_ && s.flagHolds k o } }
/-- FREEZE_STOP (R163 to R166, R399): the partition stops at the start of F. -/
def execFreezeStop (p : Nat) (s : State) : Out :=
  .next (match s.part p with
    | none => s
    | some q =>
      match q.freeze with
      | none => s
      | some z =>
        if z.stopped || s.gcyc - q.lbase < z.f then s
        else
          let ks := q.tileKeys
          let s := (z.errors.foldl (fun s e => s.listError p e) s).keepHeld ks
          let s := s.modTiles ks fun _ t =>
            { t with deferred := ((t.spec.filter fun d => d.cyc = z.t) ++ t.deferred).take 16
                     defOver := t.defOver || 16 < ((t.spec.filter fun d => d.cyc = z.t) ++ t.deferred).length, spec := [] }
          let base := match ((s.raisers q).head?).bind fun k => (s.tile k).raise with
            | some r => r.cause + 256 * r.sub
            | none => z.cause + 256 * z.sub
          let s := s.modTiles ks fun _ t =>
            t.trapRegs base t.task.pc (q.lbase + z.t) (z.cause == 0x0A && t.unmarked z.f)
          let s := ks.foldl (fun s k => s.writeRecord q k z.f) s
          let s := s.modTiles ks fun _ t => t.freeze
          (s.setPart p { q with freeze := some { z with stopped := true, fgcyc := s.gcyc } }).soon (.freezeCaptured p))

/-! ## Containment (R169) -/

/-- R157: a cause that containment decides. -/
def containedCause (cause : Nat) : Bool := (1 ≤ cause && cause ≤ 9) || cause == 0x0B || cause == 0x0F
/-- What containment decides for one raising tile: the outcome, its level, the error code of a discard. -/
structure Verdict where
  outcome : Outcome
  level : Nat
  code : Nat
  deriving DecidableEq, Repr

/-- R169: the decision for a raising tile from level n on, over the levels that are left. -/
def contain (l : Launch) (n : Nat) (exhausted : Bool) : List Level → Verdict
  | [] => ⟨.discard, 0xFF, if exhausted then 4 else 3⟩
  | v :: vs =>
    match v.policy with
    | .ignore => ⟨.resume, n, 0⟩
    | .killSelf => ⟨.voidResume, n, 0⟩
    | .retry =>
      if sget 0 l.used n < v.retry && l.attempts < 8 then ⟨.retry, n, 0⟩ else contain l (n + 1) true vs
    | .killParent => contain l (n + 1) exhausted vs
/-- R169: the strength of an outcome. -/
def Outcome.rank : Outcome → Nat
  | .resume => 0
  | .stable => 0
  | .voidResume => 1
  | .retry => 2
  | .discard => 3
/-- R165: the outcome's code in the frame. -/
def Outcome.code : Outcome → Nat
  | .resume => 0
  | .retry => 1
  | .voidResume => 2
  | .discard => 3
  | .stable => 4
/-- R169: the strongest of the decisions, the first where two are equal (DEDUCED, log 50). -/
def strongest : List Verdict → Option Verdict
  | [] => none
  | v :: vs =>
    match strongest vs with
    | none => some v
    | some w => if w.outcome.rank ≤ v.outcome.rank then some v else some w
/-- R83, R157, R162: the causes whose freeze ends in a discard. -/
def discardCause (cause sub : Nat) : Bool := cause == 0x0A || cause == 0x10 || (cause == 0x0D && sub != 2)
/-- R157, R162, R169: the decisions of the raising tiles whose cause belongs to containment (DEDUCED, log 50). -/
def State.verdicts (s : State) (q : Part) (l : Launch) : List (Nat × Verdict) :=
  (s.raisers q).filterMap fun k =>
    match (s.tile k).raise with
    | some r => if containedCause r.cause then some (k, contain l 0 false l.bank.tree) else none
    | none => none
/-- R157, R162, R169, R174, R323: the outcome of a freeze. -/
def State.decide (s : State) (q : Part) (z : Freeze) (l : Launch) : Verdict :=
  if z.discardReq || z.killed || discardCause z.cause z.sub then ⟨.discard, 0xFF, 3⟩
  else
    match strongest ((s.verdicts q l).map (·.2)) with
    | some v => v
    | none => ⟨if z.cause == 0x0E then .stable else .resume, 0xFF, 0⟩
/-- R169, R144: the tiles that the VOID decisions name. -/
def State.voidSet (s : State) (q : Part) (l : Launch) : List Nat :=
  (s.verdicts q l).flatMap fun e => if e.2.outcome == .voidResume then s.groupOf e.1 e.2.level else []
/-- R169: the level whose retries a RETRY outcome uses. -/
def State.retryLevel (s : State) (q : Part) (l : Launch) : Nat :=
  match ((s.verdicts q l).find? fun e => e.2.outcome == .retry) with
  | some e => e.2.level
  | none => 0

/-! ## Discard and retry (R171, R153) -/

/-- R66: a request has come to its slice by a cycle. -/
def Piece.out (z : Piece) (g : Nat) : Bool := z.done || z.due.isSome || z.reach ≤ g
/-- R66, R168: a request of an operation has come to its endpoint by F. -/
def State.reached (s : State) (k : Nat) (o : RemOp) (z : Freeze) : Bool :=
  if o.pieces.isEmpty then o.issued + s.transitOf k o 0 ≤ z.f else o.pieces.any (·.out z.fgcyc)
/-- An operation put into a list in the order of turns. -/
def insertTurn (e : Nat × RemOp) : List (Nat × RemOp) → List (Nat × RemOp)
  | [] => [e]
  | f :: fs => if e.2.turn ≤ f.2.turn then e :: f :: fs else f :: insertTurn e fs
/-- The operations of a partition's tiles that have still to act, with their tiles, in the order of their turns. -/
def State.openOps (s : State) (q : Part) : List (Nat × RemOp) :=
  (q.tileKeys.flatMap fun k => ((s.tile k).ops.filter (·.open_)).map fun o => (k, o)).foldr insertTurn []
/-- R203, R216: of two operations of one tile the second goes the way of the first, after it. -/
def State.follows (s : State) (x o : Nat × RemOp) : Bool :=
  x.1 == o.1 && x.2.id < o.2.id && (s.routeOf o.2).isSome && s.routeOf x.2 == s.routeOf o.2
/-- R171: of the operations of an attempt those that had left a bulk interface before F: what had come to its endpoint had, what
a flag held back had not, nor what goes its way after that; of the others it is free, in the order of each way
(DEDUCED, log 51). -/
def State.leavers (s : State) (q : Part) (z : Freeze) : List (Nat × RemOp) :=
  let es := s.openOps q
  let stays (e : Nat × RemOp) : Bool := e.2.kept || es.any fun x => x.2.kept && s.follows x e
  let sure := es.zipIdx.filterMap fun n =>
    if !stays n.1 && (s.reached n.1.1 n.1.2 z || (Config.freeValue (s.freeCtr + n.2)).getLsbD 0) then some n.1 else none
  es.filter fun e => !stays e && sure.any fun x => (x.1 == e.1 && x.2.id == e.2.id) || s.follows e x
/-- R171, R84: an operation that had left its bulk interface is performed; of a transfer out of the tile the blocks that had
come to their slices, and of the others each 16-byte word as a free value says (DEDUCED, log 51). -/
def State.settleOp (s : State) (k : Nat) (o : RemOp) (fgcyc : Nat) : State :=
  if o.kind == .stp then
    (o.pieces.filter (!·.done)).foldl (fun s z =>
      (o.wordsIn z.blk).foldl (fun s a =>
        let goes := z.out fgcyc || (Config.freeValue s.freeCtr).getLsbD 0
        let s := { s with freeCtr := s.freeCtr + 1 }
        if goes && present a 16 then s.moveWord k o z a else s) s) s
  else if o.kind == .stg then s
  else if !o.single || present o.pa o.len then s.performOp k o
  else s
/-- R171: the operations of an attempt settled: those that had left are performed, by their turns, the others dropped. -/
def State.settle (s : State) (q : Part) (z : Freeze) : State :=
  (s.leavers q z).foldl (fun s e => s.settleOp e.1 e.2 z.fgcyc) { s with freeCtr := s.freeCtr + (s.openOps q).length }
/-- R171, R113, R129, R151: the launch of a partition is discarded with an error code. -/
def State.discardLaunch (s : State) (p code : Nat) : State :=
  match s.part p with
  | none => s
  | some q =>
    match q.run, q.freeze with
    | some l, some z =>
      (((s.settle q z).vacate p).conclude p { l with charge := l.charge + z.f + 1 } 2 code 0)
    | _, _ => s
/-- R165, R172: the frame and the trap-queue record of a freeze whose launch is discarded after all, by RFZ.KILL (R323) or at a
later request (R162), say so (DEDUCED, log 54). -/
def State.noteDiscard (s : State) (p : Nat) : State :=
  match s.part p with
  | none => s
  | some q =>
    match q.freeze with
    | none => s
    | some z =>
      let fatal (r : BitVec 512) : BitVec 512 := if (r.extractLsb' 256 64).toNat = z.fgcyc then r ||| (1#512 <<< 32) else r
      let s := s.writeDev (q.save + 44) [3#8, 0xFF#8] false
      s.setPart p { q with pendRecs := q.pendRecs.map fatal, tq := q.tq.map fun e => (e.1, fatal e.2) }
/-- R162, R323, R106: a captured freeze ends in a discard after all. Its record, fatal now, is placed first
(DEDUCED, log 50). -/
def State.discardLate (s : State) (p : Nat) (again : Instr) : State :=
  let s := s.noteDiscard p
  match s.part p with
  | none => s
  | some q => if q.pendRecs.isEmpty then s.discardLaunch p 3 else (s.at_ s.gcyc (.trapRecordWrite p)).at_ s.gcyc again
/-- R121, R117: what a retry has fetched breaks the code object's rules or cannot be read. -/
def refetchBad (b : Bank) (code args : List Byte × Option Nat) : Bool :=
  (codeBad code.1 b.codeLen b.foot).isSome || code.2.isSome || args.2.isSome || !(b.withCode code.1).argsFit
/-- R153, R171, R128: the launch is re-issued: fetched and measured again; a start cycle is announced next. Where the
failed attempt has left a code object that breaks R121 the launch is discarded, and MEAS stays that of the attempt before
(DESIGN CHOICE, log 28; DEDUCED, log 51; DESIGN CHOICE, log 52). -/
def State.retryLaunch (s : State) (p level : Nat) : State :=
  match s.part p with
  | none => s
  | some q =>
    match q.run, q.freeze with
    | some l, some z =>
      let s := (s.settle q z).vacate p
      let b := l.bank
      let code := s.object b b.codeAddr b.codeLen
      let args := if b.argLen = 0 then ([], none) else s.object b b.argAddr b.argLen
      let l := { l with s := none, charge := l.charge + z.f + 1, used := sset 0 l.used level (sget 0 l.used level + 1),
                        voids := [], placed := false }
      if refetchBad b code args then s.conclude p l 2 3 0
      else
        s.modPart p fun q =>
          { q with run := some { l with meas := measure b.pre code.1 args.1, code := code.1, args := args.1,
                                        bank := { b.withCode code.1 with wids := b.wids } } }
    | _, _ => s

/-! ## Capture (R165, R169 to R172) -/

/-- R165: the 256-byte header of a frame. -/
def State.frameHeader (s : State) (q : Part) (z : Freeze) (l : Launch) (v : Verdict) : List Byte :=
  let trapc := match s.firstTile q with
    | some k => (s.tile k).task.trapc.toNat
    | none => z.cause + 256 * z.sub
  let defs := (q.tileKeys.filter fun k => !(s.tile k).deferred.isEmpty).length
  bytesOf 256 (record [(0, 8, z.fgcyc), (8, 8, q.lbase + z.t), (16, 8, z.f), (24, 8, l.lseq.toNat), (32, 4, trapc),
    (36, 4, (s.raisers q).length), (40, 4, defs), (44, 1, v.outcome.code), (45, 1, v.level), (46, 2, q.dist)])
/-- R105, R172, R399: the trap-queue record of a freeze, but for TSEQ. -/
def State.trapRecord (s : State) (q : Part) (z : Freeze) (l : Launch) (v : Verdict) : BitVec 512 :=
  let cls := if v.outcome == .discard || v.outcome == .retry then 1 else 0
  let (trapc, x, y, b) : Nat × Nat × Nat × Nat := match s.firstTile q with
    | some k => ((s.tile k).task.trapc.toNat % 2 ^ 16, k % 256, k / 256, (s.tile k).task.trapb.toNat)
    | none => (z.cause + 256 * z.sub, 0, 0, 0)
  BitVec.ofNat 512 (record [(4, 1, cls), (8, 4, trapc), (12, 1, x), (13, 1, y), (14, 1, s.wgen.toNat),
    (16, 4, (s.raisers q).length), (24, 8, b), (32, 8, z.fgcyc), (40, 8, q.save), (48, 8, l.lseq.toNat)])
/-- FREEZE_CAPTURED (R165, R169 to R172, R153, R162): the frame is complete, the outcome decided and acted on; the
trap-queue record follows. -/
def execFreezeCaptured (p : Nat) (s : State) : Out :=
  .next (match s.part p with
    | none => s
    | some q =>
      match q.run, q.freeze with
      | some l, some z =>
        if !z.stopped || z.captured then s
        else
          let v := s.decide q z l
          let s := s.writeDev q.save (s.frameHeader q z l v) false
          let rec_ := s.trapRecord q z l v
          let voids := s.voidSet q l
          let lv := s.retryLevel q l
          let s := s.modPart p fun q =>
            { q with pendRecs := q.pendRecs ++ [rec_], freeze := some { z with captured := true, outcome := v.outcome,
                                                                               level := v.level, code := v.code } }
          let s := s.soon (.trapRecordWrite p)
          match v.outcome with
          | .discard => s.discardLaunch p v.code
          | .retry => s.retryLaunch p lv
          | .voidResume =>
            (s.modPart p fun q => { q with run := some { l with voids := l.voids ++ voids.filter fun k => !l.voids.contains k } }).soon
              (.resume p)
          | .resume => s.soon (.resume p)
          | .stable => s.soon (.stabling p)
      | _, _ => s)

/-! ## The trap queue (R105, R106) -/

/-- CLASS of a record. -/
def recFatal (r : BitVec 512) : Bool := r.getLsbD 32
/-- TSEQ of a record. -/
def recSeq (r : BitVec 512) : Nat := (r.extractLsb' 0 32).toNat
/-- The valid slots whose record is fatal, or is not. -/
def Part.slotsOf (q : Part) (fatal : Bool) : List Nat :=
  (List.range 64).filter fun k => q.tqValid.getLsbD k && recFatal (sget 0 q.tq k) == fatal
/-- The slot of a list whose record has the lowest TSEQ. -/
def Part.oldest (q : Part) : List Nat → Option Nat
  | [] => none
  | k :: ks =>
    match q.oldest ks with
    | none => some k
    | some j => if recSeq (sget 0 q.tq k) ≤ recSeq (sget 0 q.tq j) then some k else some j
/-- R106: the slot a record takes, and whether it overwrites one; none while a replayable record waits. -/
def Part.slotFor (q : Part) (r : BitVec 512) : Option (Nat × Bool) :=
  let free := (List.range 64).find? fun k => !q.tqValid.getLsbD k
  if recFatal r then
    match free with
    | some k => some (k, false)
    | none => ((q.oldest (q.slotsOf false)).or (q.oldest (q.slotsOf true))).map fun k => (k, true)
  else if (q.slotsOf false).length ≤ 62 then free.map fun k => (k, false) else none
/-- TRAP_RECORD_WRITE (R105, R106, R172). -/
def execTrapRecordWrite (p : Nat) (s : State) : Out :=
  .next (match s.part p with
    | none => s
    | some q =>
      match q.pendRecs with
      | [] => s
      | r :: rs =>
        match q.slotFor r with
        | none => s
        | some (k, beyond) =>
          let s := s.setPart p
            { q with pendRecs := rs, tqValid := q.tqValid ||| (1#64 <<< k), tqLost := q.tqLost || beyond, tseq := q.tseq + 1,
                     tq := sset 0 q.tq k (r ||| q.tseq.setWidth 512) }
          s.notePart p 0x03 k 0)

/-! ## Service, resume (R161, R162, R167, R323) -/

/-- R161, R323: the tiles whose record lists a SYSC that is served. -/
def State.syscTiles (s : State) (q : Part) : List Nat :=
  q.tileKeys.filter fun k => let t := s.tile k; !t.voided && t.deferred.any fun d => d.cause = 0x0C
/-- R157, R161, R162: a service is given in the freeze. -/
def State.serviceGiven (s : State) (q : Part) (z : Freeze) : Bool :=
  z.serviceReq || (z.cause == 0x0D && z.sub == 2) || !(s.syscTiles q).isEmpty
/-- R323: the tiles that must have given RFZ have given it (DEDUCED, log 50). -/
def State.served (s : State) (q : Part) (z : Freeze) : Bool :=
  !s.serviceGiven q z || (s.raisers q ++ s.syscTiles q).all fun k => z.given.contains k
/-- R167: the least G from `at_` on that is F or lies a multiple of 12,288 after it. -/
def resumeCycle (fgcyc at_ : Nat) : Nat := fgcyc + (at_ - fgcyc + 12287) / 12288 * 12288
/-- R167, R170, R222, R162: the launch goes on at G; the sweep words of a voided tile are poisoned from then on. -/
def State.goOn (s : State) (p : Nat) (q : Part) (z : Freeze) (l : Launch) : State :=
  let s := s.setPart p (q.resumeAt s.gcyc z.fgcyc)
  let s := s.modTiles q.tileKeys fun k t => t.resume (l.voids.contains k)
  let s := s.modPart p fun q =>
    { q with sweepWords := q.sweepWords.map fun w =>
        { w with v := { w.v with poi := w.v.poi || l.voids.contains (tileKey w.x w.y) } } }
  let s := if l.bank.wdog = 0 then s else s.at_ (s.gcyc + (l.bank.wdog - q.dist - z.f)) (.watchdog p)
  if z.preemptReq then s.at_ s.gcyc (.preemptRequest p) else s
/-- R110, R129: a launch that was to be re-issued when its partition was frozen by a trip ends (DEDUCED, log 14). -/
def State.dropWaiting (s : State) (p : Nat) (q : Part) (l : Launch) : State :=
  ((s.setPart p { q with run := none }).conclude p l 2 3 0).rest p
/-- RESUME (R167, R162, R323): once the record stands and the services are done the front end announces G; at G the
launch goes on, or, where a discard has been asked for meanwhile, it is discarded (DEDUCED, log 50). -/
def execResume (p : Nat) (s : State) : Out :=
  .next (match s.part p with
    | none => s
    | some q =>
      match q.run, q.freeze with
      | some l, some z =>
        if !z.captured || z.outcome == .stable then s
        else if z.killed || z.discardReq then if q.runs then s.discardLate p (.resume p) else s.dropWaiting p q l
        else
          match z.resumeAt with
          | some g => if g = s.gcyc then s.goOn p q z l else s
          | none =>
            if q.pendRecs.isEmpty && s.served q z then
              let g := resumeCycle z.fgcyc (s.gcyc + q.dist)
              (s.setPart p { q with freeze := some { z with resumeAt := some g } }).at_ g (.resume p)
            else s.soon (.resume p)
      | _, _ => s)

/-! ## Pre-emption and the front end's requests (R152, R158, R162, R173) -/

/-- R83, R173: the first multiple of a period at or after a cycle; 0 and all ones stand for every cycle
(DEDUCED, log 17). -/
def nextPoint (period n : Nat) : Nat :=
  if period = 0 || period = 2 ^ 64 - 1 then n else (n + period - 1) / period * period
/-- PREEMPT_REQUEST (R152, R158, R173): F is the first pre-emption point at least D cycles ahead, announced at F - D; a
request in a shadow waits for the resume (R162) (DEDUCED, log 17). -/
def execPreemptRequest (p : Nat) (s : State) : Out :=
  .next (match s.part p with
    | none => s
    | some q =>
      match q.run, q.next with
      | some r, some h =>
        let l := s.gcyc - q.lbase
        if !q.runs || r.bank.preempt = 0 || q.stab.isSome || r.prio ≤ h.prio then s
        else if q.freeze.isSome then s.setPart p (q.frontTrap l (l + q.dist) 0x0E 0)
        else
          let f := nextPoint r.bank.preempt (l + q.dist)
          if f = l + q.dist then s.setPart p (q.frontTrap l f 0x0E 0)
          else s.at_ (s.gcyc + (f - q.dist - l)) (.preemptRequest p)
      | _, _ => s)
/-- FRONT_END_SERVICE_REQUEST (R157, R158, R162). -/
def execFrontEndServiceRequest (p : Nat) (s : State) : Out :=
  .next (match s.part p with
    | none => s
    | some q =>
      let l := s.gcyc - q.lbase
      if q.runs then s.setPart p (q.frontTrap l (l + q.dist) 0x0D 2) else s)
/-- R274, R125: a firmware context or a core starts at an address; its messages carry the generation accepted now (R74)
(PRESUMED, log 9). -/
def State.startCtx (s : State) (w : Who) (pc : Nat) : State :=
  let gen := match s.partOf (whoKey w) with
    | some q => s.accepted q
    | none => s.wgen
  s.setCtxAt w { s.ctxAt w with
    on := true, pc := pc, next := s.gcyc, hold := none, todo := [], mask := 0, target := none, gen := gen, faulted := false }
/-- FIRMWARE_CONTEXT_RESTART (R274, R325): firmware starts a firmware context, or a core, at an address
(PRESUMED, log 9). -/
def execFirmwareContextRestart (w : Who) (pc : Nat) (s : State) : Out :=
  .next (match w with
    | .task _ _ => s
    | .fw _ _ | .core _ _ => s.startCtx w pc)

/-! ## Stabling and restore (R174 to R179) -/

/-- R176: what the image of a tile leaves in place: its SRAM above the footprint and the rows above the grant. -/
def Tile.unimaged (t : Tile) (b : Bank) : Tile :=
  { t.idled with st := .stabled, rows := t.rows.filter fun e => b.rows ≤ e.1 }
/-- R178: a tile read back from its image over what it holds now. -/
def Tile.reload (t now : Tile) (b : Bank) : Tile :=
  let low (m : List Host.Cell) : List Host.Cell := m.filter fun e => e.1 < 1024 * b.foot
  let high (m : List Host.Cell) : List Host.Cell := m.filter fun e => 1024 * b.foot ≤ e.1
  { t with
    part := now.part, health := now.health, yhist := now.yhist, fwRegs := now.fwRegs
    rows := t.rows.filter (fun e => e.1 < b.rows) ++ now.rows.filter (fun e => b.rows ≤ e.1)
    sram := low t.sram ++ high now.sram
    spoi := t.spoi.filter (fun e => e.1 < 64 * b.foot) ++ now.spoi.filter (fun e => 64 * b.foot ≤ e.1) }
/-- R176: poison bits of 16-byte words: `w` words for each of some items. -/
def itemPoison (w : Nat) (ps : List Bool) : BitVec 256 :=
  (List.range ps.length).foldl (fun v i => if ps.getD i false then v ||| BitVec.ofNat 256 ((2 ^ w - 1) * 2 ^ (w * i)) else v) 0
/-- The registers of a context as bytes: values, then tags (DESIGN CHOICE, log 59). -/
def Ctx.bytes (c : Ctx) : List Byte :=
  (List.range 32).flatMap (fun r => bytesOf 8 (c.readS r).v.toNat) ++ (List.range 16).flatMap (fun r => bytesOf 1 (c.readP r).v.toNat) ++
    (List.range 8).flatMap (fun r => bytesOf 4 ((c.readB r).addr + (c.readB r).prep.toNat)) ++
    (List.range 32).flatMap (fun r => bytesOf 1 (tagOf (c.readS r).fmt (c.readS r).poi).toNat) ++
    (List.range 16).flatMap (fun r => bytesOf 1 (c.readP r).poi.toNat) ++ (List.range 8).flatMap (fun r => bytesOf 1 (c.readB r).poi.toNat)
/-- R176: a firmware context as bytes: its registers, FSTAT and trap registers, and where it stands (DESIGN CHOICE, log 59). -/
def Ctx.image (c : Ctx) : List Byte :=
  let held := match c.hold with
    | some h => h.until_
    | none => 0
  c.bytes ++ [c.fstat.toNat, c.trapc.toNat, c.trapb.toNat, c.trapm.toNat, c.trapt.toNat, c.pc, c.next, held, c.on.toNat].flatMap (bytesOf 8)
/-- R363 to R367: the cycle at which a row that a channel has read lands. -/
def ChCmd.rowDue (c : ChCmd) (j : Nat) : Nat := if c.what.writes then c.write0 + j else c.c + c.lag + 3 + j
/-- R173, R176: what a channel holds at F, with the rows it has read and not yet landed, each with the cycles after F at which
it is due (DESIGN CHOICE, log 59). -/
def ChCmd.image (c : ChCmd) (f : Nat) : List Byte :=
  bytesOf 32 (record [(0, 4, c.bundle), (4, 4, c.m), (8, 4, c.read), (12, 4, c.landed), (16, 8, c.busy - f), (24, 1, c.buf.length),
    (25, 1, c.poi.toNat), (26, 1, c.lag)]) ++
    c.buf.flatMap fun r => bytesOf 128 r.bits.toNat ++ bytesOf 16 (record [(0, 4, r.j), (4, 1, r.poi.toNat), (8, 8, c.rowDue r.j - f)])
/-- R173, R176: what a matrix command holds at F: its progress and the operands of the step under way, which give the sums
within it; those of the steps before stand in the accumulator tile (DESIGN CHOICE, log 59). -/
def MxCmd.image (m : MxCmd) (f : Nat) : List Byte :=
  let k := (f - m.c) / 32
  let rows (rs : List TroughRow) : List Byte := rs.flatMap fun r => bytesOf 48 r.bits.toNat ++ bytesOf 1 r.poi.toNat
  bytesOf 32 (record [(0, 4, m.bundle), (4, 1, m.slot), (5, 1, m.acc), (6, 2, k), (8, 2, (f - m.c) % 32), (10, 2, m.pops), (12, 2, m.rows),
    (14, 1, m.poi.toNat)]) ++
    (match m.steps[k]? with
    | some z => rows z.a ++ rows z.b ++ bytesOf 256 z.sa.toNat ++ bytesOf 256 z.sb.toNat ++ bytesOf 1 z.spoi.toNat
    | none => [])
/-- R173, R353: the watermark of an accumulator tile, with its format and latest writer (DESIGN CHOICE, log 59). -/
def AccTile.mark (a : AccTile) : List Byte := bytesOf 8 (record [(0, 1, a.wm), (1, 1, a.fp.toNat), (2, 6, a.writer)])
/-- R173, R353: a row that is still to become final, with the cycles after F at which it does; its value stands in the
accumulator tile (DESIGN CHOICE, log 59). -/
def AccFinal.image (e : AccFinal) (f : Nat) : List Byte :=
  bytesOf 8 (record [(0, 1, e.due - f), (1, 1, e.acc + 128 * e.val.isSome.toNat), (2, 1, e.row), (3, 1, e.wmark), (4, 4, e.writer)])
/-- R173, R176: row r of accumulator tile n as the image holds it: one that is to become final as it will be, one that a
matrix command works on with the sums of the K steps it has completed (DESIGN CHOICE, log 59). -/
def Tile.accImage (t : Tile) (n r f : Nat) : AccRow :=
  let old := (t.accAt n).row r
  match (t.finals.find? fun e => e.acc == n && e.row == r).bind (·.val) with
  | some v => v
  | none =>
    match t.mx.find? fun m => m.acc == n && m.rows ≤ r with
    | some m =>
      let m := { m with steps := m.steps.take ((f - m.c) / 32) }
      if m.steps.isEmpty then old else ⟨m.rowBits old r, m.rowPoi old r⟩
    | none => old
/-- R173, R176: the state of the engines of tile k at F: the summary of the fault record, the two sweep buffers, the watermarks
and rows still to become final, the channels, the matrix engine's commands (DESIGN CHOICE, log 59). -/
def State.engineImage (s : State) (q : Part) (k f : Nat) : List Byte :=
  let t := s.tile k
  let word (b : Option RowReg) : List Byte := match b with
    | some r => wordEntry r 0 0 0
    | none => bytesOf 144 0
  let bufs := s.sweepBuffers q k f
  bytesOf 64 (t.engines f) ++ word bufs.1 ++ word bufs.2 ++
    (List.range 8).flatMap (fun n => (t.accAt n).mark) ++ t.finals.flatMap (fun e => e.image f) ++
    ([t.ta, t.tb, t.g, t.sw].flatMap fun c => match c with
      | some c => c.image f
      | none => bytesOf 32 0) ++ t.mx.flatMap fun m => m.image f
/-- Bytes as the content of a block. -/
def cellsOf (bs : List Byte) : List Host.Cell := Memory.write [] 0 bs
/-- R176: the image of tile k at F, block by block, with poison bits (DESIGN CHOICE, log 59). -/
def State.imageOf (s : State) (q : Part) (b : Bank) (k f : Nat) : List (List Host.Cell × BitVec 256) :=
  let t := s.tile k
  let eng := s.engineImage q k f
  let a := q.recordAt (k % 256) (k / 256)
  let row (i : Nat) : RowReg := if i < b.rows then t.readV i else RowReg.zero
  let low := t.sram.filter fun e => e.1 < 1024 * b.foot
  let lowPoi := t.spoi.filter fun e => e.1 < 64 * b.foot
  let trough (tr : List TroughRow) : List Host.Cell × BitVec 256 :=
    (cellsOf (tr.flatMap fun r => bytesOf 48 r.bits.toNat), itemPoison 3 (tr.map (·.poi)))
  let accs (n : Nat) : List Host.Cell × BitVec 256 :=
    let rs := (List.range 32).map fun i => t.accImage n i f
    (cellsOf (rs.flatMap fun r => bytesOf 128 r.bits.toNat), itemPoison 8 (rs.map (·.poi)))
  (List.range 8).map (fun n => (blockCells s.dev (a + 4096 * n), blockPoison s.devPoi (a + 4096 * n))) ++
    (List.range 2).map (fun n => (cellsOf ((eng.drop (4096 * n)).take 4096), 0)) ++
    [(cellsOf (t.task.bytes ++ (List.range b.rows).flatMap (fun i => bytesOf 1 (tagOf (t.readV i).fmt (t.readV i).poi).toNat) ++
      bytesOf 8 t.task.fstat.toNat ++ bytesOf 8 t.la.toNat ++ bytesOf 8 t.lb.toNat ++ t.fw.image), 0), trough t.trA, trough t.trB] ++
    (List.range 8).map accs ++
    (List.range ((b.rows + 31) / 32)).map (fun n =>
      let rs := (List.range 32).map fun i => row (32 * n + i)
      (cellsOf (rs.flatMap fun r => bytesOf 128 r.bits.toNat), itemPoison 8 (rs.map (·.poi)))) ++
    (List.range ((b.foot + 3) / 4)).map fun n => (blockCells low (4096 * n), blockPoison lowPoi (4096 * n))
/-- R176, R177: a block sealed and put in its place (DESIGN CHOICE, log 59). -/
def State.storeBlock (s : State) (p : Nat) (l : Launch) (num : Nat) (c : List Host.Cell × BitVec 256) : State :=
  match s.part p with
  | none => s
  | some q =>
    let home := s.placeFor p q (q.blockTile num) fun _ => false
    let z : LoftBlock := ⟨num, home, q.stablings, c.1, c.2, loftTag (Config.stabKey s.onCount) p l num q.stablings c.1 c.2, false⟩
    (s.loftWrite home c.1 c.2).modPart p fun q => { q with stab := q.stab.map fun w => { w with blocks := w.blocks ++ [z] } }
/-- R176: the number of a tile within its partition. -/
def Part.tileIndex (q : Part) (k : Nat) : Nat := (k / 256 - 4 * q.py0) * (4 * q.w) + (k % 256 - 4 * q.px0)
/-- R174, R176, R177: the launch's state leaves its tiles for the lofts. -/
def State.stable (s : State) (p : Nat) (q : Part) (l : Launch) (z : Freeze) : State :=
  let ks := l.bank.wids.map (·.1)
  let images := (List.range ks.length).flatMap fun i =>
    let k := ks.getD i 0
    let im := s.imageOf q l.bank k z.f
    (List.range im.length).map fun n => (q.tileIndex k * 2 ^ 16 + n, im.getD n ([], 0))
  let image : Stabled := ⟨l, z, q.lbase, ks.map fun k => (k, s.tile k), q.links, q.arrivals, q.sweepWords, q.bars, q.ring,
    q.barFire, []⟩
  let s := s.modTiles ks fun _ t => t.unimaged l.bank
  let s := s.setPart p
    { q with run := none, freeze := none, stab := some image, stablings := q.stablings + 1, links := [], arrivals := [],
             sweepWords := [], bars := [], ring := none, barFire := none }
  (images.foldl (fun s e => s.storeBlock p l e.1 e.2) s).rest p
/-- STABLING (R174, R176, R161): once the record stands, every transfer and reply has completed, but for those that a flag
still holds back inside the tile (R204), and the services of the freeze are done, the launch is stabled, and the incoming
launch may start (R152) (DESIGN CHOICE, log 59). -/
def execStabling (p : Nat) (s : State) : Out :=
  .next (match s.part p with
    | none => s
    | some q =>
      match q.run, q.freeze with
      | some l, some z =>
        if !z.captured || z.outcome != .stable then s
        else if z.killed || z.discardReq then s.discardLate p (.stabling p)
        else
          let waits := l.bank.wids.any fun e => (s.tile e.1).ops.any fun o => o.open_ && !s.flagHolds e.1 o
          if waits || !q.pendRecs.isEmpty || !s.served q z then s.soon (.stabling p)
          else (s.stable p q l z).zeroGap p
      | _, _ => s)
/-- R151, R178: the scheduler resumes the pre-empted launch of a partition. R87 bars starts on fields that are not aligned and
says nothing of a restore, which the model lets go on (DESIGN CHOICE, log 18). -/
def State.restoreDue (s : State) (p : Nat) : Bool :=
  match s.part p with
  | none => false
  | some q =>
    q.stab.isSome && q.run.isNone && q.next.isNone && q.freeze.isNone && q.active && !s.trip &&
      q.resumesFirst ((s.eligible p).map fun j => (s.queue j).prio)
/-- R179: the first block of a stabled launch that fails. -/
def State.firstBad (s : State) (p : Nat) (q : Part) (z : Stabled) : Option Nat :=
  (z.blocks.find? fun b => s.blockFails p z.launch q.stablings b).map (·.num)
/-- R74: the generation of a stabled launch. -/
def Stabled.gen (z : Stabled) (other : Byte) : Byte := ((z.tiles.head?).map (·.2.task.gen)).getD other
/-- RESTORE (R178, R179): every block is read back and its tag checked; then the launch's state comes back and G is announced
(DESIGN CHOICE, log 59). -/
def execRestore (p : Nat) (s : State) : Out :=
  .next (match s.part p with
    | none => s
    | some q =>
      match q.stab with
      | none => s
      | some z =>
        if !s.restoreDue p then s
        else
          let q := { q with gen := z.gen q.gen }
          match s.firstBad p q z with
          | some b =>
            let s := (s.modTiles (z.tiles.map (·.1)) fun _ t => t.idled).setPart p { q with stab := none }
            (s.notePart p 0x0E b 0).conclude p { z.launch with charge := z.launch.charge + z.freeze.f + 1 } 2 3 0
          | none =>
            let bk := z.launch.bank
            let s := (s.setPart p { q with stab := none }).evict bk.covers
            let s := z.tiles.foldl (fun s e => s.modTile e.1 fun t => e.2.reload t bk) s
            (s.setPart p
              { q with run := some z.launch, stab := none, bank := bk, lbase := z.lbase,
                       freeze := some { z.freeze with outcome := .resume, resumeAt := none },
                       links := z.links, arrivals := z.arrivals, sweepWords := z.sweepWords, bars := z.bars, ring := z.ring,
                       barFire := z.barFire }).soon (.resume p))

end Sys2Proof.Machine
end

