-- ==== Sys2Proof/Machine/Privileged.lean ====
section
/-! DEFINITION. The privileged instructions of the SY slot: ALIGN, FRZ, RFZ, LTF and STF (R323, R324). -/

namespace Sys2Proof.Machine

/-- R323, R325: only a firmware context runs these; a task traps 0x0F, subcode 2, a core 0x06, subcode 1. -/
def State.firmwareOnly (s : State) : Try (Nat × Nat) :=
  match s.cur.who with
  | .task _ _ => .error (0x0F, 2)
  | .core _ _ => .error (6, 1)
  | .fw x y => .ok (x, y)

/-- R87: a field that is aligned and in service. -/
def FieldSt.inStep (z : FieldSt) : Bool := !z.lost && !z.outOfService && z.locked
/-- R85: the fields across the stitch boundaries of a field, by number. -/
def neighbours (f : Nat) : List Nat :=
  let x := f % 8
  (if 8 ≤ f then [f - 8] else []) ++ (if x = 0 then [] else [f - 1]) ++ (if x = 7 then [] else [f + 1]) ++
    (if f < 40 then [f + 8] else [])
/-- A field. -/
def State.field (s : State) (f : Nat) : FieldSt := sget FieldSt.zero s.fields f
/-- The machine with a field changed. -/
def State.modField (s : State) (f : Nat) (g : FieldSt → FieldSt) : State :=
  { s with fields := sset FieldSt.zero s.fields f (g (s.field f)) }

/-- No field: a realignment that finds no aligned neighbour. -/
def noField : Nat := 48
/-- R87: the aligned neighbour of lowest number, from which a field takes its count; none where no neighbour is aligned
(DESIGN CHOICE, log 18). -/
def State.countFrom (s : State) (f : Nat) : Nat := ((neighbours f).find? fun n => (s.field n).inStep).getD noField
/-- R87: a realigning field counts with an aligned neighbour. -/
def State.counts (s : State) (z : FieldSt) : Bool := z.src != noField && (s.field z.src).inStep

/-- A status result: I32, in place at c + 1, poisoned by the guard (DEDUCED, log 57). -/
def State.status (s : State) (d : R5) (gp : Bool) (v : Nat) : State := s.pushS d .i32 gp 1 (BitVec.ofNat 64 v) 0
/-- A status result's register. -/
def statusDest (d : R5) : List Dest := [⟨.scalar, d.toNat, .i32, 1⟩]

/-- ALIGN (R323): realignment of the tile's field starts: it takes its count from a neighbour (R87). One that began in this same
cycle is not yet there to be seen (R13); the two begin it together (DEDUCED, log 18). -/
def execAlign (g : Guard) (d : R5) (s : State) : Out :=
  .next (s.slot g (statusDest d) fun gp s => do
    let (x, y) ← s.firmwareOnly
    let f := fieldOfTile x y
    let z := s.field f
    if z.outOfService then return s.status d gp 3
    else if z.realigning && z.since != s.gcyc then return s.status d gp 2
    else if !z.lost then return s.status d gp 1
    else return (s.modField f fun z => { z with realigning := true, src := s.countFrom f, matched := [], since := s.gcyc }).status d gp 0)

/-- FRZ (R323): a freeze of cause 0x0D, subcode 2, announced by the firmware context with T = c. One announced in this same
cycle is not yet there to be seen (R13), and the two go together (R162). -/
def execFrz (g : Guard) (d : R5) (s : State) : Out :=
  .next (s.slot g (statusDest d) fun gp s => do
    let (x, y) ← s.firmwareOnly
    let k := tileKey x y
    let st := (s.tile k).st
    match s.partOf k with
    | none => return s.status d gp 1
    | some q =>
      let l := s.lcycOf k
      if (st == .running || st == .ended) && q.raisesAt l then
        return (s.modPartOf k fun q => q.frontTrap l (l + q.dist) 0x0D 2).status d gp 0
      else return s.status d gp 1)

/-- RFZ (R323): this tile's service of the freeze is done; KILL asks for a discard. -/
def execRfz (g : Guard) (kill : Bool) (d : R5) (s : State) : Out :=
  .next (s.slot g (statusDest d) fun gp s => do
    let (x, y) ← s.firmwareOnly
    let k := tileKey x y
    if (s.tile k).st != .frozen then return s.status d gp 1
    else
      return (s.modPartOf k fun q =>
        { q with freeze := q.freeze.map fun z =>
            { z with given := k :: z.given.filter (· != k), killed := z.killed || kill } }).status d gp 0)

/-- R324: the index of a space is in range (subcode 1) and, in bytes, a multiple of 8 (subcode 2). -/
def spaceIndex (sp : Space) (x : Nat) : Try Unit :=
  match sp with
  | .s => need (x < 32) 7 1
  | .p => need (x < 16) 7 1
  | .b => need (x < 8) 7 1
  | .row => need (x < 8192) 7 1
  | .tag => need (x < 544) 7 1
  | .sram => do
    need (x < 0x180000) 7 1
    need (x % 8 == 0) 7 2
  | .frec => do
    need (x < 0x8000) 7 1
    need (x % 8 == 0) 7 2

/-- R183, R78: the firmware context of a lender reaches no bank that its tile has lent. -/
def State.notLent (s : State) (sp : Space) (x : Nat) : Try Unit :=
  let h := (s.tile s.myKey).health
  need (sp != .sram || (x + 8 ≤ h.top && !h.gave (x / 16 % 64))) 7 4
/-- R268, R79: the cycles more that an access to a space takes: 4 for SRAM of a borrowed bank. -/
def State.spaceLag (s : State) (sp : Space) (x : Nat) : Nat := if sp == .sram then s.loadLag [(x, 8)] else 0
/-- R324: the index x of LTF and STF. -/
def State.spaceAddr (s : State) (a : R5) (off : W32) : Try Nat := do
  let b := s.ctx.readS a.toNat
  checkFmts intFmts false none [(b.fmt, 1)]
  return (b.v + off.signExtend 64).toNat

/-- LTF (R324): reads at c + 1, its scalar in place at c + 5, 4 cycles later from a borrowed bank (R79). Of a poisoned index
nothing is read, and the result is poisoned (R261, R262) (DEDUCED, log 38). -/
def execLtf (g : Guard) (sp : Space) (d a : R5) (off : W32) (s : State) : Out :=
  .next (s.slot g [⟨.scalar, d.toNat, .i32, 5⟩] fun gp s => do
    let _ ← s.firmwareOnly
    let x ← s.spaceAddr a off
    if (s.ctx.readS a.toNat).poi then return s.push (.poisoning .scalar s.cur.slot d.toNat .i32 s.now (s.now + 5))
    spaceIndex sp x
    s.notLent sp x
    let lag := s.spaceLag sp x
    return s.push { Latch.result .scalar s.cur.slot d.toNat .i32 gp s.now (s.now + 5 + lag) 0 allBits 0 with
      rdAt := s.now + 1 + lag, reads := [⟨spaceNum sp, x, 8⟩] })

/-- STF (R324): writes at the end of c + 1, 4 cycles later in a borrowed bank (R79), into a task that is FROZEN, IDLE or
STABLED; a poisoned index traps as an address of a write does (R262) (DEDUCED, log 38). -/
def execStf (g : Guard) (sp : Space) (d a : R5) (off : W32) (s : State) : Out :=
  .next (s.slot g [] fun gp s => do
    let (x, y) ← s.firmwareOnly
    let st := (s.tile (tileKey x y)).st
    need (st == .frozen || st == .idle || st == .stabled) 0x0F 2
    need (sp != .frec) 6 2
    let i ← s.spaceAddr a off
    need (!(s.ctx.readS a.toNat).poi) 3 2
    spaceIndex sp i
    s.notLent sp i
    let v := s.ctx.readS d.toNat
    need (!(sp == .tag && 14 ≤ v.v.toNat % 16)) 6 2
    return s.push { Latch.result .special s.cur.slot (0x1000 + spaceNum sp) v.fmt (v.poi || gp) s.now (s.now + 1 + s.spaceLag sp i)
      (v.v.setWidth 1024) allBits 0 with atEnd := true, addr := i })

end Sys2Proof.Machine
end

