-- ==== Sys2Proof/Machine/Errors.lean ====
section
/-! DEFINITION. Errors, alignment, power-on, power-off and thermal trips: buckets (R80), uncorrectable errors (R83, R84),
alignment across stitches (R85 to R87), the module's power and signals (R42 to R44, R107, R110, R126). -/

namespace Sys2Proof.Machine

/-! ## Buckets (R80, R81) -/

/-- R81: a tile's health word. -/
def Health.word (h : Health) : BitVec 32 :=
  BitVec.ofNat 32 (h.bkt.toNat + 2 ^ 7 * h.sus.toNat + 2 ^ 10 * h.state.toNat + 2 ^ 12 * h.lent.toNat + 2 ^ 14 * h.nlost.toNat +
    2 ^ 16 * h.lb0.toNat + 2 ^ 22 * h.lb1.toNat)
/-- R80: one decay. -/
def Health.decay (h : Health) : Health := { h with bkt := if h.bkt = 0 then 0 else h.bkt - 1 }
/-- R80: one corrected error counted; the count saturates, and going from 63 to 64 marks the tile suspect. -/
def Health.count (h : Health) : Health :=
  { h with bkt := if h.bkt = 127 then 127 else h.bkt + 1, sus := h.sus || h.bkt == 63 }
/-- The machine with a tile's health changed. -/
def State.modHealth (s : State) (k : Nat) (f : Health → Health) : State := s.modTile k fun t => { t with health := f t.health }
/-- R80: n corrected errors that a tile detects; an event names a tile that they make suspect, in bytes 24 and 25 of its DATA
(DESIGN CHOICE, log 68). -/
def State.corrected (s : State) (k : Nat) : Nat → State
  | 0 => s
  | n + 1 =>
    let h := (s.tile k).health
    let s := s.modHealth k Health.count
    (if h.bkt = 63 then s.note 0x05 h.count.word.toNat (record [(0, 2, k)]) else s).corrected k n
/-- R80: n errors that a slice controller corrects, the spares numbered 112 to 115; going from 63 to 64 marks the slice suspect, for good. -/
def State.sliceErrors (s : State) (slice : Nat) : Nat → State
  | 0 => s
  | n + 1 =>
    let b := sget 0 s.sliceBkt slice
    let s := { s with sliceBkt := sset 0 s.sliceBkt slice (Nat.min 127 (b + 1)) }
    (if b = 63 then { s with sliceSus := sset false s.sliceSus slice true }.note 0x06 ((s.indexOf slice).getD slice) 0
      else s).sliceErrors slice n
/-- R80: what a cycle brings a bucket that holds `bkt`: the errors to count, and whether it drops; an increment and the
decrement of a decay cycle cancel. -/
def bucketStep (decay : Bool) (bkt errs : Nat) : Nat × Bool :=
  if decay && bkt != 0 then (if errs = 0 then (0, true) else (errs - 1, false)) else (errs, false)
/-- R80: the corrected errors of the cycle counted, in a cycle of decay against the decrement. -/
def State.settleErrors (s : State) (decay : Bool) : State :=
  let s := (skeys s.tiles).foldl (fun s k =>
    let t := s.tile k
    let n := bucketStep decay t.health.bkt.toNat t.errs
    if t.errs = 0 && !n.2 then s
    else
      let s := s.modTile k fun t => { t with errs := 0 }
      (if n.2 then s.modHealth k Health.decay else s).corrected k n.1) s
  let keys := skeys s.sliceBkt ++ (skeys s.sliceErrs).filter fun i => !(skeys s.sliceBkt).contains i
  let s := keys.foldl (fun s i =>
    let b := sget 0 s.sliceBkt i
    let n := bucketStep decay b (sget 0 s.sliceErrs i)
    (if n.2 then { s with sliceBkt := sset 0 s.sliceBkt i (b - 1) } else s).sliceErrors i n.1) s
  { s with sliceErrs := [] }
/-- BUCKET_DECAY (R80): the last action of its cycle: every bucket drops by 1, unless it is 0. -/
def execBucketDecay (s : State) : Out := .next (s.settleErrors true)

/-! ## Uncorrectable errors (R83, R84) -/

/-- R83: H of an error at LCYC l (DEDUCED, log 16; DEDUCED, log 17). -/
def Part.errorStop (q : Part) (l : Nat) : Nat := nextPoint q.bank.rbp (l + q.dist)
/-- R83, R84: an uncorrectable error strikes a partition: its launch stops, and the record of a tile lists the error with a
bundle. One whose launch does not run has no schedule to stop (DEDUCED, log 16). -/
def State.strikeAt (s : State) (p k bundle : Nat) : State :=
  match s.part p with
  | none => s
  | some q =>
    if q.runs then
      let l := s.gcyc - q.lbase
      (s.setPart p (q.frontTrap l (q.errorStop l) 0x0A 0)).modTile k fun t => t.listFault ⟨0x0A, 0, 0xFF, bundle, l⟩
    else s
/-- R84: an error that lies in no tile strikes a partition: alone it is the cause of the freeze, and beside an announcement
made before it is listed at F. One whose launch does not run has no schedule to stop (DEDUCED, log 16). -/
def State.strike (s : State) (p : Nat) : State :=
  s.modPart p fun q => if q.runs then let l := s.gcyc - q.lbase; q.struck l (q.errorStop l) else q

/-- A channel. -/
def State.chan (s : State) (key : Nat) : HChan := sget HChan.zero s.chans key
/-- R65: the partitions that own a slot of a channel. -/
def HChan.owners (c : HChan) : List Nat :=
  (c.slots.filter fun e => e.extractLsb' 14 2 == 1).map fun e => (e.extractLsb' 0 9).toNat
/-- R51, R52: a partition has a reservation on a chiplet: a slot on one of its channels. -/
def State.reserves (s : State) (p chiplet : Nat) : Bool :=
  (skeys s.chans).any fun k => k < 1792 && controllerChiplet (s.controllerOf (k / 16)) == chiplet && (s.chan k).owners.contains p
/-- A UCIe module. -/
def State.link (s : State) (m : Nat) : Ucie := sget Ucie.zero s.ucie m
/-- R51: the partitions with slots on a chiplet, in ascending id. -/
def State.chipletOwners (s : State) (chiplet : Nat) : List Nat := s.partIds.filter fun p => s.reserves p chiplet
/-- R52: how many modules of a chiplet are disabled and re-laid. -/
def State.relaidOn (s : State) (chiplet : Nat) : Nat :=
  ((List.range 20).filter fun i => (s.link (20 * chiplet + i)).relaid).length
/-- R51: the partition that a flit position is reserved for; none for a parity flit's, and on a module whose reservations
lie elsewhere (DESIGN CHOICE, log 40). -/
def State.reservation (s : State) (m pos : Nat) : Option Nat :=
  let ps := s.chipletOwners (m / 20)
  if pos % 4096 = 4095 || (s.link m).relaid then none
  else ps[Config.reservedFor m (pos % 4096) (s.relaidOn (m / 20)) % (ps.length + 1)]?
/-- R51, R52: a partition has a reservation on a module. -/
def State.reservesOn (s : State) (p m : Nat) : Bool := (List.range 4096).any fun i => s.reservation m i == some p
/-- R48, R49: the word at an address that an operation moves is spoilt on its way: of a transfer that word, else its reply or
what it stores, is poisoned (DESIGN CHOICE, log 40). -/
def RemOp.spoilAt (o : RemOp) (a : Nat) : RemOp :=
  if o.staged then
    { o with pieces := o.pieces.map fun x =>
      if x.blk = a / 256 && !x.done then { x with poi := x.poi ||| (1#16 <<< (a % 256 / 16)) } else x }
  else { o with rpoi := true }
/-- R82: an operation of which a beat is spoilt: of a transfer the first word still to be moved, else its reply or what it
stores, is poisoned (DEDUCED, log 16). -/
def RemOp.spoil (o : RemOp) : RemOp :=
  if o.staged then
    match o.pieces.find? fun z => !z.done with
    | some z =>
      let w := ((o.wordsIn z.blk).headD 0) % 256 / 16
      { o with pieces := o.pieces.map fun x => if x.blk = z.blk then { x with poi := x.poi ||| (1#16 <<< w) } else x }
    | none => o
  else { o with rpoi := true }
/-- R82: a word of a partition's links poisoned. -/
def LinkWord.spoil (w : LinkWord) : LinkWord := { w with poi8 := BitVec.allOnes 8, w := { w.w with poi := true } }
/-- R82: an arrival register's word poisoned. -/
def Tile.spoilArrival (t : Tile) (port : Side) : Tile :=
  let f (a : Option RowReg) : Option RowReg := a.map fun w => { w with poi := true }
  match port with
  | .n => { t with arrN := f t.arrN }
  | .e => { t with arrE := f t.arrE }
  | .s => { t with arrS := f t.arrS }
  | .w => { t with arrW := f t.arrW }
/-- UNCORRECTABLE_ERROR (R82 to R84, R52, R179): where there is a poison bit the word, register or row is poisoned; in a
tile's other state the tile's partition stops, and the tile's record lists it; in a region table its partition, in a slot
table those that own slots there; on a disabled module every partition with a reservation there; in a loft a stabled block
is spoilt (DEDUCED, log 16; DESIGN CHOICE, log 18; DESIGN CHOICE, log 59). -/
def execUncorrectableError (e : ErrSite) (s : State) : Out :=
  .next (match e with
    | .tile x y =>
      let k := tileKey x y
      match (s.tile k).part with
      | none => s
      | some p =>
        s.strikeAt p k ((s.tile k).task.bundleDue (s.lcycOf k))
    | .module m => (s.partIds.filter fun p => s.reservesOn p m).foldl (fun s p => s.strike p) s
    | .regionTable p => s.strike p
    | .slotTable slice ch => ((s.chan (16 * slice + ch)).owners.eraseDups).foldl (fun s p => s.strike p) s
    | .loft p b =>
      s.modPart p fun q => { q with stab := q.stab.map fun z =>
        { z with blocks := z.blocks.map fun x => if x.num = b then { x with struck := true } else x } }
    | .sram x y a => s.modTile (tileKey x y) fun t => { t with spoi := if a < 0x180000 then sset false t.spoi (a / 16) true else t.spoi }
    | .scalar x y r => s.modTile (tileKey x y) fun t =>
        { t with task := t.task.writeS (r % 32) { t.task.readS (r % 32) with poi := true } }
    | .fwScalar x y r => s.modTile (tileKey x y) fun t =>
        { t with fw := t.fw.writeS (r % 32) { t.fw.readS (r % 32) with poi := true } }
    | .row x y r => s.modTile (tileKey x y) fun t => t.writeV (r % 512) { t.readV (r % 512) with poi := true }
    | .acc x y n r => s.modTile (tileKey x y) fun t =>
        let a := sget AccTile.zero t.acc (n % 8)
        let a := { a with rows := sset AccRow.zero a.rows (r % 32) { sget AccRow.zero a.rows (r % 32) with poi := true } }
        { t with acc := sset AccTile.zero t.acc (n % 8) a }
    | .link p n => s.modPart p fun q => { q with links := q.links.modify n LinkWord.spoil }
    | .arrival x y port => s.modTile (tileKey x y) fun t => t.spoilArrival port
    | .beat x y id => s.modTile (tileKey x y) fun t => t.modOp id RemOp.spoil
    | .coreScalar c n r => let w := Who.core (c % 28) (n % 4)
        s.setCtxAt w ((s.ctxAt w).writeS (r % 32) { (s.ctxAt w).readS (r % 32) with poi := true })
    | .hbm pa => if pa < hbmBytes then { s with devPoi := sset false s.devPoi (pa / 16) true } else s)

/-! ## Alignment (R85 to R87) -/

/-- R86: alignment is lost at the boundary of two fields: an event, and cause 0x10 on every partition that touches one; both
fields count as having lost it (DESIGN CHOICE, log 18). -/
def State.alignmentLost (s : State) (a b : Nat) : State :=
  let lose (n : Nat) (z : FieldSt) : FieldSt :=
    { z with lost := true, realigning := false, matched := [], bad := n :: z.bad.filter (· != n) }
  let s := (s.modField a (lose b)).modField b (lose a)
  let s := s.note 0x0B (Config.boundaryCode a b).toNat 0
  s.partIds.foldl (fun s p => s.modPart p fun q =>
    if q.runs && (q.fieldsOf.contains a || q.fieldsOf.contains b) then
      let l := s.gcyc - q.lbase
      q.frontTrap l (l + q.dist) 0x10 0
    else q) s
/-- R87: a field that is realigning has had a marker that does not match, one of which ends the attempt and counts as a failure
(DESIGN CHOICE, log 18); after three it stays out of service. -/
def FieldSt.failed (z : FieldSt) : FieldSt :=
  { z with realigning := false, matched := [], fails := z.fails + 1, outOfService := decide (3 ≤ z.fails + 1) }
/-- R87: two consecutive markers have matched on every boundary of a field. -/
def State.matchedAll (s : State) (f : Nat) : Bool := (neighbours f).all fun n => 2 ≤ sget 0 (s.field f).matched n
/-- ALIGN_MARKER (R85 to R87): the marker that field `src` sent reaches field `dst`, or is missing, or the lane's elastic
buffer has over- or under-run; a marker is compared with GCYC - 2. A field that is realigning has its count from an aligned
neighbour, and returns at the next multiple of 4,096 once two consecutive markers have matched on every boundary; at a
boundary where alignment is lost already there is nothing more to lose (DESIGN CHOICE, log 18). In ON alone (R34). -/
def execAlignMarker (src dst : Nat) (mark : LaneMark) (s : State) : Out :=
  let z := s.field dst
  let ok := mark == .value (BitVec.ofNat 16 (s.gcyc - 2))
  .next (if s.power != .on || !(neighbours dst).contains src || z.outOfService then s
    else if z.realigning then
      if ok && s.counts z then
        let s := s.modField dst fun z => { z with matched := sset 0 z.matched src (sget 0 z.matched src + 1) }
        if s.matchedAll dst then s.at_ (s.gcyc / 4096 * 4096 + 4096) (.fieldRealigned dst) else s
      else
        let s := s.modField dst FieldSt.failed
        if (s.field dst).outOfService then s.note 0x0B (Config.boundaryCode src dst).toNat 0 else s
    else if ok || z.bad.contains src then s
    else s.alignmentLost src dst)
/-- FIELD_REALIGNED (R87). A field that had lost PLL lock counts as locked again once its markers have matched
(DESIGN CHOICE, log 18). In ON alone (R34). -/
def execFieldRealigned (f : Nat) (s : State) : Out :=
  .next (if s.power == .on && (s.field f).realigning && s.matchedAll f then s.modField f fun _ => FieldSt.zero else s)
/-- PLL_LOCK_LOSS (R86): alignment is lost at every boundary of the field, for the neighbours too (DESIGN CHOICE, log 18). In ON
alone (R34). -/
def execPllLockLoss (f : Nat) (s : State) : Out :=
  .next (if s.power != .on then s
    else (neighbours f).foldl (fun s n => s.alignmentLost f n) (s.modField f fun z => { z with locked := false }))

/-! ## Power and signals (R42 to R44, R107, R110) -/

/-- R42: cycles of 2 ms, in which one field's converters ramp. -/
def rampField : Nat := 4800000
/-- R42, R125: step 3 under way: the cycles at which the image is loaded, the 48 fields have ramped, every PLL has locked, the
fields are aligned, and links and channels are trained. -/
def OnTask.marks (t : OnTask) : List Nat :=
  let a := t.start + t.load
  let b := a + 48 * rampField
  [a, b, b + t.lock, b + t.lock + t.align, b + t.lock + t.align + Nat.max t.links t.hbm]
/-- R42: the step under way at a cycle: 0 image load, 1 ramp, 2 lock, 3 alignment, 4 training, 5 ready. -/
def OnTask.step (t : OnTask) (g : Nat) : Nat := (t.marks.filter (· ≤ g)).length
/-- R42: the cycle at which training begins. -/
def OnTask.aligned (t : OnTask) : Nat := t.start + t.load + 48 * rampField + t.lock + t.align
/-- R42: the cycle of the ready events: the links and the channels have trained, side by side. -/
def OnTask.ready (t : OnTask) : Nat := t.aligned + Nat.max t.links t.hbm
/-- R42: step 3 as it will go, from free values (log 6): a load that keeps the whole within 300 ms, a lock within 100 us, an
alignment within 2 ms, a training of the links within 20 ms and of the channels within 150 ms. -/
def OnTask.begin (port start ctr : Nat) : OnTask :=
  ⟨port, start, (Config.freeDelay ctr) % 124560000, Config.freeDelay (ctr + 1) % 240000 + 1,
    Config.freeDelay (ctr + 2) % 4800000 + 1, Config.freeDelay (ctr + 3) % 48000000 + 1,
    Config.freeDelay (ctr + 4) % 360000000 + 1⟩

/-- R93: the CMDSTAT of a port: state 1 busy, 2 done, 3 refused, with the reason. LATE, of which only the setting is described,
stays through later commands (DESIGN CHOICE, log 66). -/
def State.setStat (s : State) (port state reason : Nat) : State :=
  s.modPort port fun p => { p with cmdstat := (p.cmdstat &&& 0x10000) ||| BitVec.ofNat 64 (state + 256 * reason) }
/-- R93: a command is done: its event, with DATA (DESIGN CHOICE, log 68). -/
def State.cmdDone (s : State) (port op data : Nat) : State :=
  (s.setStat port 2 0).event port (eventRec 0x07 none16 none16 op s.gcyc data)
/-- R93: a command is refused for a reason (DESIGN CHOICE, log 68). -/
def State.cmdRefused (s : State) (port op reason : Nat) : State :=
  (s.setStat port 3 reason).event port (eventRec 0x08 none16 none16 (op + 256 * reason) s.gcyc 0)

/-- R110: a partition on which nothing runs stands frozen. -/
def Part.halted (q : Part) (l : Nat) : Part :=
  let z := Freeze.announce l l 0x0D 3 true
  { q with freeze := some { z with stopped := true, captured := true, outcome := .discard, discardReq := q.run.isSome } }
/-- R44, R110, R129: a trip freezes a partition: its running launch through a freeze that ends in a discard; a launch that is to
be re-issued is discarded as this cycle ends, in its partition's turn (DEDUCED, log 14). One that is stabled or committed stays
until OFF (DESIGN CHOICE, log 14). -/
def State.tripPart (s : State) (p : Nat) : State :=
  match s.part p with
  | none => s
  | some q =>
    let l := s.gcyc - q.lbase
    if q.runs then s.setPart p (q.frontTrap l (l + q.dist) 0x0D 3)
    else
      let s := s.setPart p (q.halted l)
      if q.run.isSome then s.at_ s.gcyc (.resume p) else s
/-- R44, R110: the thermal trip of a module that is ON: THERMTRIP_N, the event, and a freeze of every partition
(DEDUCED, log 14). -/
def State.tripOn (s : State) (code : Nat) : State :=
  let s := { s with trip := true, thermtrip := true }.note 0x04 code 0
  s.partIds.foldl State.tripPart s
/-- R42, R107: the module without supply or coolant. What a delivered wafer keeps is its repair, its generation and its
health (R28, R73, R81); everything else is as reset leaves it, the agenda empty (DEDUCED, log 14) (DESIGN CHOICE, log 64). -/
def State.powerOff (s : State) : State :=
  { State.reset with
    gcyc := s.gcyc, vin := s.vin, flowOk := s.flowOk, perst := s.perst, modidPins := s.modidPins, onCount := s.onCount,
    wgen := s.wgen, retired := s.retired, host := s.host, hostReply := s.hostReply, ethOut := s.ethOut, creates := s.creates,
    freeCtr := s.freeCtr
    tiles := (skeys s.tiles).foldl (fun m k => sset Tile.zero m k { Tile.zero with health := (s.tile k).health }) [] }
/-- THERMAL_TRIP (R44, R110, R107). During step 3 of R42 the ramp stops, the module goes back to STANDBY and Y0 reports the step
reached; the command that asked for ON is refused. In STANDBY the loss of FLOW_OK puts the module OFF (DEDUCED, log 14). -/
def execThermalTrip (why : ThermWhy) (s : State) : Out :=
  let code := match why with
    | .flow => 0
    | .temperature => 1
  let s := match why with
    | .flow => { s with flowOk := false }
    | .temperature => s
  .next (match s.power, s.onTask with
    | .on, _ => s.tripOn code
    | .standby, some t =>
      let s := { s with onTask := none, agenda := s.agenda.filter fun e => e.2 != Instr.moduleReady }
      (s.note 0x04 code (record [(0, 8, t.step s.gcyc)])).cmdRefused t.port 0x06 0x0F
    | .standby, none => if s.flowOk then s else s.powerOff
    | .off, _ => s)

/-- POWER_UP_STANDBY (R41 to R43): VIN with FLOW_OK asserted: Y0 samples MODID, whose straps are the board's and stand here as
a free value, measures its root firmware, whose bytes are not given (log 15), and enters STANDBY (DESIGN CHOICE, log 14). -/
def execPowerUpStandby (s : State) : Out :=
  let strap := (Config.freeValue s.freeCtr).setWidth 16
  .next (if s.power == .off then
      { s with vin := true, flowOk := true, power := .standby, modidPins := strap, modid := strap, romHash := Config.digest 0x101 0,
               freeCtr := s.freeCtr + 1 }
    else s)
/-- POWER_OFF (R42, R107, R110): VIN or FLOW_OK is removed. Whether the loss of FLOW_OK in ON is a trip (R44) or OFF (R107) is
told by the event that the outside sends (DESIGN CHOICE, log 14). -/
def execPowerOff (vin flowOk : Bool) (s : State) : Out :=
  .next (if vin && flowOk then s else { s with vin := vin, flowOk := flowOk }.powerOff)
/-- PORT_RESET (R43, R89): PERST_N of a port changes; while it is low the port's link is in reset, and going low drops the
port's hold on OWNSEM. Nothing else changes. -/
def execPortReset (pin : PortPin) (s : State) : Out :=
  let port := pin.port
  let low := pin.low
  let bit : BitVec 8 := 1#8 <<< port
  .next { s with
    perst := if low then s.perst &&& ~~~bit else s.perst ||| bit
    ownsem := if low && port < 2 && s.ownsem == BitVec.ofNat 2 (port + 1) then 0 else s.ownsem }
/-- SMBUS_ACCESS (R126, R42, R41): a byte of the device identity block, from STANDBY on; the access clears ALERT_N
(DESIGN CHOICE, log 64). -/
def execSmbusAccess (off : Nat) (s : State) : Out :=
  .next (if s.power == .off then { s with hostReply := ⟨false, []⟩ }
    else { s with alertPending := false, hostReply := ⟨true, [identityAt off]⟩ })

end Sys2Proof.Machine
end

