-- ==== Sys2Proof/Machine/Commands.lean ====
section
/-! DEFINITION. The host's commands (R93): partitions (R134), retirement and loans (R76 to R78), power (R107, R108, R125),
queues and sequencer entries (R227). -/

namespace Sys2Proof.Machine

/-! ## Commands (R90, R93) -/

/-- R92: CMDARGi of a port. -/
def State.cmdArg (s : State) (port i : Nat) : Nat := (sget 0 (s.port port).cmdarg i).toNat
/-- n bits of an argument from bit k. -/
def bitsOf (v k n : Nat) : Nat := v / 2 ^ k % 2 ^ n
/-- R89: a port holds the ownership semaphore. -/
def State.holdsSem (s : State) (port : Nat) : Bool := s.ownsem == BitVec.ofNat 2 (port + 1)
/-- R91: the offset of CMDOP of a port. -/
def cmdopOff (port : Nat) : Nat := 0x1800 + 0x1000 * port
/-- R90, R93: a command without the right to it: reason 0x10 and the ownership violation (DEDUCED, log 12). -/
def State.notOwner (s : State) (port op : Nat) : State := (s.violation port (cmdopOff port)).cmdRefused port op 0x10
/-- R93: the first reason that holds, counted from 1, of the conditions of a row (DEDUCED, log 12). -/
def firstReason (n : Nat) : List Bool → Nat
  | [] => 0
  | b :: bs => if b then n else firstReason (n + 1) bs
/-- R93: a CMDOP write. A port that does not answer, or that has no command block, does nothing; while busy, LATE is set;
otherwise the command runs (DEDUCED, log 12). -/
def State.command (s : State) (port : Nat) (run : State → State) : State :=
  if 2 ≤ port || !s.answers port then s
  else if (s.port port).cmdstat.extractLsb' 0 2 == 1 then
    s.modPort port fun p => { p with cmdstat := p.cmdstat ||| 0x10000 }
  else run s
/-- R90, R93: a command that needs the semaphore, with its conditions and its effect and DATA (DEDUCED, log 12). -/
def State.owned (s : State) (port op : Nat) (bad : List Bool) (act : State → State × Nat) : State :=
  s.command port fun s =>
    if !s.holdsSem port then s.notOwner port op
    else
      let r := firstReason 1 bad
      if r != 0 then s.cmdRefused port op r
      else
        let (s, data) := act s
        s.cmdDone port op data
/-- R110: a thermal trip in force refuses the power commands (DEDUCED, log 12). -/
def tripReason : Nat := 0x0F

/-! ## Partitions (R134) -/

/-- R134: an id is in use. -/
def State.inUse (s : State) (p : Nat) : Bool := (s.part p).isSome
/-- R95, R93: an enabled queue, of a control port if one is named, lists the partition. -/
def State.queueNames (s : State) (p : Nat) (port : Option Nat) : Bool :=
  (skeys s.queues).any fun j =>
    let d := s.queue j
    d.en && d.pset.contains p && (match port with
      | some n => d.qport == n
      | none => true)
/-- R29: two pen rectangles share a pen. -/
def overlaps (ax ay aw ah bx by_ bw bh : Nat) : Bool :=
  ax < bx + bw && bx < ax + aw && ay < by_ + bh && by_ < ay + ah
/-- R134: a partition as created: IDLE, the wafer generation, a group of one (DEDUCED, log 13). -/
def newPart (x y w h : Nat) (ctl : Bool) (gen : Byte) (save : Nat) : Part :=
  ⟨x, y, w, h, ctl, .idle, none, gen, 0, save, 0, [], 0, false, 0, 0, 0, Bank.zero, none, none, none, none, [], [], [], [],
    none, none, [], []⟩
/-- R134: a tile with its SRAM, registers and accumulators zeroed, poison clear; its health stays (R81). -/
def Tile.wiped (t : Tile) (p : Option Nat) : Tile := { Tile.zero with part := p, health := t.health }
/-- R92, R111: the partition holds a running or pre-empted launch, or one committed to its next slot. -/
def Part.busy (q : Part) : Bool := q.run.isSome || q.stab.isSome || q.next.isSome
/-- R134, R135, R165: the partition of a rectangle made (DESIGN CHOICE, log 15; DESIGN CHOICE, log 54). -/
def State.create (s : State) (p x y w h : Nat) (ctl : Bool) : State :=
  let q := newPart x y w h ctl s.wgen 0
  let q := { q with save := s.saveFor q (Config.saveArea s.creates) }
  let s := { s with creates := s.creates + 1 }
  (s.setPart p q).modTiles q.tileKeys fun _ t => t.wiped (some p)
/-- PCREATE (R93, R134 to R136, R77), which before the module is ready has no wafer to place a rectangle on (R42)
(DEDUCED, log 13). -/
def execPcreate (port : Nat) (s : State) : Out :=
  let a := s.cmdArg port 0
  let p := bitsOf a 0 9
  let x := bitsOf a 16 8
  let y := bitsOf a 24 8
  let w := bitsOf a 32 8
  let h := bitsOf a 40 8
  let off := s.power != .on || w = 0 || h = 0 || 64 < x + w || 36 < y + h
  let taken := s.partIds.any fun j => match s.part j with
    | some q => overlaps x y w h q.px0 q.py0 q.w q.h
    | none => false
  let ctl := s.cmdArg port 1 % 2 = 1
  let q := newPart x y w h ctl s.wgen 0
  .next (s.owned port 0x01 [s.inUse p, off || taken, !off && (s.withdrawnPen q).isSome] fun s => (s.create p x y w h ctl, 0))

/-- R227: entries as the root writes them: a run of an entry ends with what it was. -/
def State.resetEntries (s : State) (keys : List Nat) (e : BitVec 512) : State :=
  keys.foldl (fun s k => { s.setEntry k e with seqRuns := sset none s.seqRuns k none }) s
/-- R227: the entries of a range that a partition owns are released: OWNV 0, every byte zero. -/
def State.releaseEntries (s : State) (p : Nat) (keys : List Nat) : State :=
  s.resetEntries (keys.filter fun k => entOwner (s.entry k) == some p) 0
/-- The machine with a UCIe module changed. -/
def State.modLink (s : State) (m : Nat) (f : Ucie → Ucie) : State :=
  { s with ucie := sset Ucie.zero s.ucie m (f (s.link m)) }
/-- R217: the messages of a partition of which an end has received a part go. -/
def UcieEnd.forget (e : UcieEnd) (p : Nat) : UcieEnd := { e with trains := e.trains.filter fun t => t.part != p }
/-- R217: a message of a partition that is queued. -/
def isMessageOf (p : Nat) : Instr → Bool
  | .bulkMessage m => m.part.toNat == p
  | _ => false
/-- R108: the end of a power transition of a partition. -/
def endsPower (p : Nat) : Instr → Bool
  | .powerTransitionDone j => j == p
  | _ => false
/-- R134, R217, R227: a partition destroyed: blocks of other partitions leave its lofts, its state is zeroed, its fences go,
its messages are discarded and its sequencer entries released. A power transition that runs is refused and ends nothing later
(DEDUCED, log 13). -/
def State.destroy (s : State) (p : Nat) : State :=
  match s.part p with
  | none => s
  | some q =>
    let s := s.evict fun z => z.tile.any fun k => q.tileKeys.contains k
    let s := s.modTiles q.tileKeys fun _ t => t.wiped none
    let s := s.releaseEntries p (skeys s.seqEntries)
    let s := match q.trans with
      | some t => s.cmdRefused t.2 0x07 1
      | none => s
    let s := (skeys s.ucie).foldl (fun s m => s.modLink m fun u => { u with yard := u.yard.forget p, wafer := u.wafer.forget p }) s
    { s with parts := sset none s.parts p none, agenda := s.agenda.filter fun e => !isMessageOf p e.2 && !endsPower p e.2 }
/-- PDESTROY (R93, R134, R217, R227). An id that is not in use is refused with reason 1 (DEDUCED, log 13). -/
def execPdestroy (port : Nat) (s : State) : Out :=
  let p := bitsOf (s.cmdArg port 0) 0 9
  let busy := match s.part p with
    | some q => q.busy
    | none => true
  .next (s.owned port 0x02 [busy, s.queueNames p none] fun s => (s.destroy p, 0))
/-- PASSIGN (R93, R88). An id that is not in use is refused with reason 1 (DEDUCED, log 13). -/
def execPassign (port : Nat) (s : State) : Out :=
  let p := bitsOf (s.cmdArg port 0) 0 9
  let bad := match s.part p with
    | some q => s.queueNames p (some q.ctl.toNat)
    | none => true
  let ctl := s.cmdArg port 1 % 2 = 1
  .next (s.owned port 0x03 [bad] fun s => (s.modPart p fun q => { q with ctl := ctl }, 0))

/-! ## Retirement and loans (R76 to R78) -/

/-- R27: the number of a field-row: its field column and its row. -/
def fieldRow (x y : Nat) : Nat := 8 * y + x / 32
/-- R76: a partition holds a pen that crosses the field-row of (x, y). -/
def Part.crossesRow (q : Part) (x y : Nat) : Bool :=
  4 * q.py0 ≤ y && y < 4 * (q.py0 + q.h) && 4 * q.px0 < 32 * (x / 32) + 32 && 32 * (x / 32) < 4 * (q.px0 + q.w)
/-- The partitions of a field-row. -/
def State.rowParts (s : State) (x y : Nat) : List Part :=
  s.partIds.filterMap fun p => match s.part p with
    | some q => if q.crossesRow x y then some q else none
    | none => none
/-- R76: a partition of the field-row has a running or pre-empted launch. -/
def State.rowRuns (s : State) (x y : Nat) : Bool := (s.rowParts x y).any fun q => q.run.isSome || q.stab.isSome
/-- R76: a loft of the field-row holds stabled state. -/
def State.rowStabled (s : State) (x y : Nat) : Bool :=
  s.loftUsed.any fun z => z.tile.any fun k => k / 256 == y && k % 256 / 32 == x / 32
/-- R28: the retired site of a field-row. -/
def State.retiredSite (s : State) (x y : Nat) : Option Nat :=
  match sget 0 s.retired (fieldRow x y) with
  | 0 => none
  | k + 1 => some k
/-- R28: the physical site that a logical tile occupies in its field-row. -/
def State.siteAt (s : State) (x y : Nat) : Nat := siteOf (x % 32) (s.retiredSite x y)
/-- R28: the spare site of a field-row, while no site is retired. -/
def State.spareSite (s : State) (x y : Nat) : Option Nat := if (s.retiredSite x y).isNone then some 32 else none
/-- R29: the tiles of the pen of (x, y). -/
def penTiles (x y : Nat) : List Nat :=
  (List.range 4).flatMap fun j => (List.range 4).map fun i => tileKey (x / 4 * 4 + i) (y / 4 * 4 + j)
/-- R76, R122: what the code and arguments placed in some tiles stood in has been zeroed: a launch that waits to start is
placed again (DEDUCED, log 61). -/
def State.unplace (s : State) (ks : List Nat) : State :=
  s.partIds.foldl (fun s p => s.modPart p fun q =>
    { q with next := q.next.map fun l => (if ks.any l.bank.maps then { l with placed := false, s := none } else l) }) s
/-- R76, R28: a tile's site is retired: the logical tiles of its field-row that move to another site are zeroed, the generation
advances (DEDUCED, log 61). -/
def State.retireTile (s : State) (x y : Nat) : State :=
  let k := s.siteAt x y
  let ks := ((List.range 32).filter fun i => siteOf i (some k) != siteOf i (s.retiredSite x y)).map fun i => tileKey (x / 32 * 32 + i) y
  let s := (s.modTiles ks fun _ t => t.wiped t.part).unplace ks
  { s with retired := sset 0 s.retired (fieldRow x y) (k + 1), wgen := s.wgen + 1 }
/-- R77: the pen of a tile withdrawn (DEDUCED, log 61). -/
def State.withdraw (s : State) (x y : Nat) : State :=
  s.modTiles (penTiles x y) fun _ t => { t with health := { t.health with state := 2 } }
/-- RETIRE (R93, R76, R77). A tile off the wafer is refused with reason 1 (DEDUCED, log 13; DEDUCED, log 61). -/
def execRetire (port : Nat) (s : State) : Out :=
  let a := s.cmdArg port 0
  let x := bitsOf a 0 8
  let y := bitsOf a 8 8
  .next (s.owned port 0x04 [144 ≤ y || s.rowRuns x y, s.rowStabled x y] fun s =>
    if (s.spareSite x y).isSome then (s.retireTile x y, 0)
    else (s.withdraw x y, record [(0, 1, 1), (2, 2, 64 * (y / 4) + x / 4)]))

/-- R78: the lender of a tile: its west neighbour in the field-row, of the first tile its east neighbour. -/
def lenderOf (x : Nat) : Nat := if x % 32 = 0 then x + 1 else x - 1
/-- R78: n banks of a tile lost, and lent by its lender; the capability tags follow; what the banks' addresses hold stays
(DESIGN CHOICE, log 15). -/
def State.lend (s : State) (x y b0 b1 n : Nat) : State :=
  let s := s.modHealth (tileKey x y) fun h =>
    { h with nlost := h.nlost + BitVec.ofNat 2 n, lb0 := if h.nlost = 0 then BitVec.ofNat 6 b0 else h.lb0
             lb1 := if h.nlost = 0 then (if n = 2 then BitVec.ofNat 6 b1 else h.lb1) else BitVec.ofNat 6 b0 }
  let s := s.modHealth (tileKey (lenderOf x) y) fun h => { h with lent := h.lent + BitVec.ofNat 2 n }
  { s with wgen := s.wgen + 1 }
/-- LOAN (R93, R78, R76): more than two lost banks (or a tile off the wafer); the lender already lends to another tile; a
tile that borrows would lend; then the conditions of R76. A bank that is lost already, or named twice, is taken and counted
(DESIGN CHOICE, log 13). -/
def execLoan (port : Nat) (s : State) : Out :=
  let a := s.cmdArg port 0
  let x := bitsOf a 0 8
  let y := bitsOf a 8 8
  let n := if bitsOf a 31 1 = 1 then 2 else 1
  let h := (s.tile (tileKey x y)).health
  let g := (s.tile (tileKey (lenderOf x) y)).health
  .next (s.owned port 0x05
    [144 ≤ y || 2 < h.nlost.toNat + n, h.nlost = 0 && g.lent != 0, h.lent != 0 || g.nlost != 0, s.rowRuns x y, s.rowStabled x y]
    fun s => (s.lend x y (bitsOf a 16 6) (bitsOf a 24 6) n, 0))

/-! ## Module power (R42, R107, R125) -/

/-- R125: the limits of the image arguments. -/
def imageOk (addr len : Nat) : Bool := addr % 4096 = 0 && 4096 ≤ len && len ≤ 2 ^ 24
/-- R107: a partition stands in the way of STANDBY. -/
def State.lit (s : State) : Bool :=
  s.partIds.any fun p => match s.part p with
    | some q => !(q.power == .dark && q.trans.isNone)
    | none => false
/-- R125: Y0 reads the image into its slot and computes BOOTM (DESIGN CHOICE, log 15). -/
def State.loadImage (s : State) (addr len : Nat) : State :=
  let img := Memory.reads s.host addr len
  { s with imageLen := len, image := Memory.write [] 0 img, bootm := extendBy s.romHash 6 img, chains := [] }
/-- R34, R107: in STANDBY Y0 alone is powered: the cores of the other chiplets and every tile's firmware context stop
(DEDUCED, log 14). -/
def State.powerDown (s : State) : State :=
  let s := (skeys s.tiles).foldl (fun s k => s.modTile k fun t => { t with fw := { t.fw with on := false, todo := [], latches := [], hold := none } }) s
  { s with power := .standby, cores := s.cores.filter fun e => e.1 < 4 }
/-- R93, R107, R110: MPOWER of a port. While the way to ON runs it is refused with reason 0x0E (DESIGN CHOICE, log 67); in STANDBY
with FLOW_OK low, after a trip on the way to ON, it is taken (DESIGN CHOICE, log 14) (DEDUCED, log 13). -/
def State.mpower (s : State) (port : Nat) : State :=
  s.command port fun s =>
    let target := bitsOf (s.cmdArg port 0) 0 2
    let addr := s.cmdArg port 1
    let len := s.cmdArg port 2
    if s.trip then s.cmdRefused port 0x06 tripReason
    else if s.onTask.isSome then s.cmdRefused port 0x06 0x0E
    else if !s.holdsSem port then s.notOwner port 0x06
    else
      let r := firstReason 1 [target = 2 && s.power == .standby && !imageOk addr len, target = 1 && s.power == .on && s.lit,
        target != 1 && target != 2]
      if r != 0 then s.cmdRefused port 0x06 r
      else if target = 1 then s.powerDown.cmdDone port 0x06 0
      else if s.power == .on then s.cmdDone port 0x06 0
      else
        let s := (s.loadImage addr len).setStat port 1 0
        let t := OnTask.begin port s.gcyc s.freeCtr
        { s with onTask := some t, freeCtr := s.freeCtr + 5 }.at_ t.ready .moduleReady
/-- MPOWER_ON (R93, R42, R107, R125). -/
def execMpowerOn (port : Nat) (s : State) : Out := .next (s.mpower port)
/-- MPOWER_STANDBY (R93, R107). -/
def execMpowerStandby (port : Nat) (s : State) : Out := .next (s.mpower port)
/-- R49, R52, R53: an event that happened at flit count n still counts: less than 2^24 flits ago. The flits of a module are those
that its wafer end has accepted, for replays of both directions (DESIGN CHOICE, log 40). -/
def Ucie.recent (u : Ucie) (n : Nat) : Bool := u.wafer.fcnt < n + 2 ^ 24
/-- R42, R45, R53: the STATE of a module that has no fault, while step 3 is under way: in training from the alignment on, then
active, or disabled where it does not reach 32 GT/s. -/
def OnTask.linkState (t : OnTask) (gcyc : Nat) (trains : Bool) : Nat :=
  if gcyc < t.aligned then 0 else if gcyc < t.aligned + t.links then 1 else if trains then 2 else 3
/-- R53: the status word of a module: disabled, active in ON, as step 3 of R42 has left it, else in reset. -/
def State.linkStatus (s : State) (m : Nat) : W32 :=
  let u := s.link m
  let state := if u.disabled then 3 else if s.power == .on then 2
    else match s.onTask with
      | some t => t.linkState s.gcyc (Config.linkTrains (s.onCount + 1) m)
      | none => 0
  BitVec.ofNat 32 ((if state = 2 then 1 else 0) + 2 * u.par.toNat + 4 * state + 16 * (u.lane % 256) +
    2 ^ 12 * u.spares + 2 ^ 16 * Nat.min 255 (u.replays.filter u.recent).length)
/-- R45, R52: a UCIe module that has not reached 32 GT/s, or whose fifth lane degrades, is disabled and reported; its reservations
are to be re-laid, and until then partitions with one take an uncorrectable error. The event's DATA carries the module's number
in bytes 24 and 25 (DESIGN CHOICE, log 40). -/
def State.failLink (s : State) (m : Nat) : State :=
  let s := s.modLink m fun u => { u with disabled := true }
  let s := s.note 0x0A (s.linkStatus m).toNat (record [(0, 2, m)])
  (s.at_ s.gcyc (.uncorrectableError (.module m))).soon (.reservationRelay (m / 20))
/-- R67, R68: a channel that could not be trained. -/
def HChan.unfit : HChan := { HChan.zero with hctl := 0, hstat := 2 }
/-- R67, R37: the channels of some slices trained or failed; a quadrant's spare is to serve the first slice with a failed one
(log 6). -/
def State.trainChannels (s : State) (n : Nat) : State :=
  let bad := (List.range 1792).filter fun k => !Config.channelTrains n k
  let s := bad.foldl (fun s k => { s with chans := sset HChan.zero s.chans k HChan.unfit }) s
  (List.range 4).foldl (fun s q => match bad.find? fun k => k / 16 / 28 == q with
    | some k => s.soon (.sliceRemap q true (BitVec.ofNat 5 (k / 16 % 28)))
    | none => s) s
/-- R125: Y0 starts the image on the cores of every chiplet, at its first bundle (PRESUMED, log 9). -/
def State.startCores (s : State) : State :=
  (List.range 112).foldl (fun s c => s.startCtx (.core (c / 4) (c % 4)) 0) { s with cores := [] }
/-- MODULE_READY (R42, R45, R67, R125, R129): the module is ON, every chain is BOOTM, links and channels are trained but for
those that fail, the cores run, the ready events are posted and the command is done (DEDUCED, log 14). -/
def execModuleReady (s : State) : Out :=
  .next (match s.onTask with
    | none => s
    | some t =>
      let s := { s with power := .on, onTask := none, chains := [], lseqs := [], onCount := s.onCount + 1, ucie := [], chans := [],
                        fields := [], remap := [] }
      let s := ((List.range 560).filter fun m => !Config.linkTrains s.onCount m).foldl State.failLink s
      (((s.trainChannels s.onCount).startCores).note 0x01 0 0).cmdDone t.port 0x06 0)

/-! ## Partition power (R108) -/

/-- R108: the transitions: whether the row is listed, and how many cycles it takes. -/
def transition (a b : PPower) : Option Nat :=
  match a, b with
  | .active, .idle => some 100
  | .idle, .active => some 2400
  | .idle, .retain => some 24000
  | .retain, .idle => some 480000
  | .retain, .active => some 480000
  | .idle, .dark => some 24000
  | .retain, .dark => some 24000
  | .dark, .idle => some 4800000
  | .dark, .active => some 4800000
  | _, _ => none
/-- R108: the condition of a transition: no running launch, no block in the partition's lofts, no pre-empted launch. -/
def State.mayGo (s : State) (q : Part) (b : PPower) : Bool :=
  let clear := !(q.tileKeys.any s.holdsBlock)
  match q.power, b with
  | .active, .idle => q.run.isNone
  | _, .retain => clear
  | _, .dark => clear && q.stab.isNone
  | _, _ => true
/-- R137: the state that a code names. -/
def ppowerOf (n : Nat) : PPower :=
  match n with
  | 0 => .active
  | 1 => .idle
  | 2 => .retain
  | _ => .dark
/-- R93, R108, R110: PPOWER of a port: it runs until the transition is done, in STANDBY too, out of DARK as into it
(DESIGN CHOICE, log 14) (DEDUCED, log 12; DEDUCED, log 13). -/
def State.ppower (s : State) (port : Nat) : State :=
  s.command port fun s =>
    let a := s.cmdArg port 0
    let p := bitsOf a 0 9
    let target := ppowerOf (bitsOf a 16 2)
    if s.trip then s.cmdRefused port 0x07 tripReason
    else
      match s.part p with
      | none => s.cmdRefused port 0x07 1
      | some q =>
        if q.trans.isSome then s.cmdRefused port 0x07 0x0E
        else if q.ctl.toNat != port then s.notOwner port 0x07
        else
          match transition q.power target with
          | none => s.cmdRefused port 0x07 2
          | some n =>
            if !s.mayGo q target then s.cmdRefused port 0x07 3
            else
              ((s.setPart p { q with trans := some (target, port) }).setStat port 1 0).at_ (s.gcyc + n) (.powerTransitionDone p)
/-- PPOWER_ACTIVE (R93, R108). -/
def execPpowerActive (port : Nat) (s : State) : Out := .next (s.ppower port)
/-- PPOWER_IDLE (R93, R108). -/
def execPpowerIdle (port : Nat) (s : State) : Out := .next (s.ppower port)
/-- PPOWER_RETAIN (R93, R108). -/
def execPpowerRetain (port : Nat) (s : State) : Out := .next (s.ppower port)
/-- PPOWER_DARK (R93, R108). -/
def execPpowerDark (port : Nat) (s : State) : Out := .next (s.ppower port)
/-- POWER_TRANSITION_DONE (R108, R109): the partition is in its new state; coming out of DARK its tiles are zeroed, and a launch
that waits to start is placed again. -/
def execPowerTransitionDone (p : Nat) (s : State) : Out :=
  .next (match s.part p with
    | none => s
    | some q =>
      match q.trans with
      | none => s
      | some t =>
        let s := if q.power == .dark then (s.modTiles q.tileKeys fun _ t => t.wiped (some p)).unplace q.tileKeys else s
        (s.modPart p fun q => { q with power := t.1, trans := none }).cmdDone t.2 0x07 0)

/-! ## Queues and sequencer entries -/

/-- QRESUME (R93, R104): a queue stopped on error, whose record is no longer held, goes on
(DEDUCED, log 12; DEDUCED, log 20). -/
def execQresume (port : Nat) (s : State) : Out :=
  let q := bitsOf (s.cmdArg port 0) 0 15
  let d := s.queue q
  .next (s.command port fun s =>
    if d.qport != port then s.notOwner port 0x08
    else if d.st != .error || d.held.isSome then s.cmdRefused port 0x08 1
    else ((s.modQueue q fun d => { d with st := if d.en then .running else .disabled }).writeStatus q).cmdDone port 0x08 0)

/-- R227: an entry as SQOWN leaves it: OWNER and OWNV, every other byte zero. -/
def ownedEntry (p : Nat) : BitVec 512 := BitVec.ofNat 512 ((p + 2 ^ 9) * 2 ^ 160)
/-- R93, R227: SQOWN of a port, with and without release. The bits of its arguments that are to be zero are ignored
(DESIGN CHOICE, log 66); entries of a chiplet without power are not written (R34) (DEDUCED, log 14). -/
def State.sqown (s : State) (port : Nat) : State :=
  s.command port fun s =>
    let a := s.cmdArg port 0
    let i := bitsOf a 0 5
    let e := bitsOf a 5 12
    let n := bitsOf a 17 12 + 1
    let p := bitsOf (s.cmdArg port 1) 0 9
    let release := bitsOf (s.cmdArg port 1) 9 1 = 1
    let keys := (List.range n).map fun j => 4096 * i + e + j
    let other := match s.part p with
      | some q => q.ctl.toNat != port
      | none => true
    let r := firstReason 1 [other, i < 8 || 27 < i, 4096 < e + n || (i = 8 && 4096 ≤ e + n),
      !release && keys.any fun k => (match entOwner (s.entry k) with
        | some o => o != p
        | none => false),
      keys.any fun k => entBusy (s.entry k)]
    if r != 0 then s.cmdRefused port 0x09 r
    else
      let keys := keys.filter fun k => s.chipletLit (k / 4096)
      let s := if release then s.releaseEntries p keys else s.resetEntries keys (ownedEntry p)
      s.cmdDone port 0x09 0
/-- SQOWN (R93, R227). -/
def execSqown (port : Nat) (s : State) : Out := .next (s.sqown port)
/-- SQOWN_RELEASE (R93, R227). -/
def execSqownRelease (port : Nat) (s : State) : Out := .next (s.sqown port)
/-- UNKNOWN_CMDOP (R93): reason 0x11. -/
def execUnknownCmdop (port : Nat) (op : W64) (s : State) : Out :=
  .next (s.command port fun s => s.cmdRefused port (op.toNat % 256) 0x11)

end Sys2Proof.Machine
end

