-- ==== Sys2Proof/Machine/HostRegs.lean ====
section
/-! DEFINITION. BAR 0 (R88 to R96, R102 to R105, R137), the wake window and the HBM aperture (R55 to R58, R111), slot tables
and the channel registers (R65 to R69), the remap register (R196). -/

namespace Sys2Proof.Machine

/-! ## The ownership semaphore (R89) -/

/-- R89: a write of a code to OWNSEM by a port; one whose bits 63:2 are not zero is no code, and is ignored
(DESIGN CHOICE, log 66). -/
def State.ownsemWrite (s : State) (port v : Nat) : State :=
  if 2 ≤ port then s
  else if v = 0 then (if s.holdsSem port then { s with ownsem := 0 } else s)
  else if v = port + 1 && s.ownsem == 0 then { s with ownsem := BitVec.ofNat 2 v }
  else s
/-- OWNSEM_ACQUIRE (R89). -/
def execOwnsemAcquire (port : Nat) (s : State) : Out := .next (s.ownsemWrite port (port + 1))
/-- OWNSEM_RELEASE (R89). -/
def execOwnsemRelease (port : Nat) (s : State) : Out := .next (s.ownsemWrite port 0)

/-! ## Queue descriptors (R94, R95) -/

/-- R91: the offset of word w of the descriptor of queue q. -/
def descOff (q w : Nat) : Nat := 0x100000 + 0x40 * q + 8 * w
/-- No two entries of a list are equal. -/
def noRepeats : List Nat → Bool
  | [] => true
  | x :: xs => !xs.contains x && noRepeats xs
/-- R94: a PSET breaks a rule, for a control port. -/
def State.psetBad (s : State) (d : Queue) : Bool :=
  let es := (List.range 8).map fun n => d.field (16 + 2 * n) 2
  let valid := es.takeWhile fun e => 2 ^ 15 ≤ e
  es.any (fun e => e / 2 ^ 9 % 2 ^ 6 != 0) || valid.isEmpty || (es.drop valid.length).any (fun e => 2 ^ 15 ≤ e) ||
    !noRepeats (valid.map (· % 512)) || valid.any fun e => match s.part (e % 512) with
      | some q => q.ctl.toNat != d.qport
      | none => true
/-- R94: enabling a descriptor is refused. -/
def State.descBad (s : State) (d : Queue) : Bool :=
  d.field 0 1 / 2 != 0 || d.field 8 1 < 4 || 16 < d.field 8 1 || d.field 9 1 / 4 % 8 != 0 || 2 ^ 12 ≤ d.field 10 2 ||
    s.psetBad d || d.field 32 1 / 2 % 4 != 0 || d.field 40 4 = 0 || d.field 44 12 != 0
/-- R94: EN of a descriptor, bit 79. -/
def enBit : BitVec 512 := 1#512 <<< 79
/-- R95, R94: a queue enabled: the three indices take IDX0, nothing is held of an earlier enable but an error
(DEDUCED, log 20). -/
def Queue.enable (d : Queue) : Queue :=
  let i : W32 := BitVec.ofNat 32 (d.field 12 4)
  { d with
    desc := d.desc ||| enBit, en := true, st := if d.st == .error then .error else .running, ridx := i, widx := i, cidx := i,
    def_ := 0, recs := [], asleep := false, lastS := 0, epoch := d.epoch + 1 }
/-- R95: EN goes from 0 to 1: the descriptor is checked. -/
def State.enableQueue (s : State) (q : Nat) : State :=
  if s.descBad (s.queue q) then
    (s.modQueue q fun d => { d with desc := d.desc &&& ~~~enBit }).queueError q 6 0 0 none16
  else (s.modQueue q Queue.enable).writeStatus q
/-- R95, R148: EN is cleared: records that have not started leave; those that have go on (DEDUCED, log 20). -/
def Queue.disable (d : Queue) : Queue :=
  { d with desc := d.desc &&& ~~~enBit, en := false, st := if d.st == .error then .error else .disabled
           recs := d.recs.filter fun r => r.started }
/-- R88, R90, R95: a write to queue q by the port that is not its QPORT, or that changes QPORT without the semaphore. -/
def State.descViolation (s : State) (port q w : Nat) : State := s.violation port (descOff q w)
/-- QUEUE_ENABLE (R95, R94): EN set in the descriptor as it stands. -/
def execQueueEnable (port q : Nat) (s : State) : Out :=
  .next (if 32768 ≤ q then s
    else if (s.queue q).qport != port then s.descViolation port q 1
    else if (s.queue q).en then s
    else s.enableQueue q)
/-- QUEUE_DISABLE (R95). -/
def execQueueDisable (port q : Nat) (s : State) : Out :=
  .next (if 32768 ≤ q then s
    else if (s.queue q).qport != port then s.descViolation port q 1
    else if (s.queue q).en then (s.modQueue q Queue.disable).writeStatus q
    else s)
/-- R94: QPORT of a descriptor, bit 77. -/
def qportBit : BitVec 512 := 1#512 <<< 77
/-- QPORT_CHANGE (R95, R88, R90): of a disabled queue, by the port that holds the semaphore. -/
def execQportChange (port q : Nat) (s : State) : Out :=
  .next (if 32768 ≤ q then s
    else if !s.holdsSem port then s.descViolation port q 1
    else if (s.queue q).en then (if (s.queue q).qport != port then s.descViolation port q 1 else s)
    else s.modQueue q fun d => { d with desc := d.desc ^^^ qportBit })

/-- R94: a descriptor with word w replaced. -/
def descWith (d : BitVec 512) (w : Nat) (v : W64) : BitVec 512 :=
  (d &&& ~~~((BitVec.allOnes 64).setWidth 512 <<< (64 * w))) ||| (v.setWidth 512 <<< (64 * w))
/-- R95: a write of word w of a descriptor. STAT (word 7) is read only. A write that clears EN and changes anything else,
in byte 9 too, is ignored (DESIGN CHOICE, log 66). -/
def State.descWrite (s : State) (port q w : Nat) (v : W64) : State :=
  let d := s.queue q
  let new := descWith d.desc w v
  let turns := (new ^^^ d.desc) &&& qportBit != 0
  if w = 7 then (if d.qport != port then s.descViolation port q w else s)
  else if d.en then
    if d.qport != port || (turns && !s.holdsSem port) then s.descViolation port q w
    else if new = d.desc &&& ~~~enBit && new != d.desc then (s.modQueue q Queue.disable).writeStatus q
    else s
  else if d.qport != port then
    if turns && s.holdsSem port && new = d.desc ^^^ qportBit then s.modQueue q fun d => { d with desc := new }
    else s.descViolation port q w
  else if turns && !s.holdsSem port then s.descViolation port q w
  else
    let s := s.modQueue q fun d => { d with desc := new }
    if new &&& enBit != 0 then s.enableQueue q else s

/-! ## Port blocks (R92, R102 to R104) -/

/-- R102, R104: EVTAIL of a port: a value that would make the count exceed the ring is ignored; when it advances the held
records are written first. -/
def State.evtailWrite (s : State) (port : Nat) (v : W32) : State :=
  let p := s.port port
  if 2 ^ (p.evsz.toNat % 32) < (p.evhead - v).toNat || v = p.evtail then s
  else (s.modPort port fun p => { p with evtail := v }).flushHeld port (skeys s.queues)
/-- EVTAIL_WRITE (R102, R104). -/
def execEvtailWrite (port : Nat) (v : W32) (s : State) : Out := .next (if port < 2 then s.evtailWrite port v else s)
/-- EVOVF_CLEAR (R92). -/
def execEvovfClear (port : Nat) (s : State) : Out :=
  .next (if port < 2 then s.modPort port fun p => { p with evovf := 0 } else s)
/-- DROPCNT_CLEAR (R92): of the block of port n. -/
def execDropcntClear (_port n : Nat) (s : State) : Out :=
  .next (if n < 8 then s.modPort n fun p => { p with dropcnt := 0 } else s)

/-- R92: a landing region of a port. -/
def Port.landing (p : Port) (k : Nat) : Landing := sget Landing.zero p.lr k
/-- R92: the partition of a port's aperture has a running launch. -/
def State.apertureRuns (s : State) (n : Nat) : Bool :=
  match s.part ((s.port n).aper.toNat % 512) with
  | some q => q.run.isSome
  | none => false
/-- R92: a register of landing region k with a new value, none where the value is ignored. -/
def Landing.put (l : Landing) (r : Nat) (v : W64) : Option Landing :=
  match r with
  | 0 => if v.extractLsb' 0 21 = 0 then some { l with base := v } else none
  | 1 => some { l with len := v &&& 0xFFFF }
  | 2 => some { l with rid := v }
  | _ => if v.toNat < 32 then some { l with ctl := v } else none
/-- R92: a write to a landing-region register of port n, of which `off` is the offset. -/
def State.landingWrite (s : State) (port n off : Nat) (v : W64) : State :=
  let k := (off - 0x100) / 32
  let l := (s.port n).landing k
  if l.enabled && s.apertureRuns n then s.violation port (0x1000 + 0x1000 * n + off)
  else
    match l.put ((off - 0x100) / 8 % 4) v with
    | some l => s.modPort n fun p => { p with lr := sset Landing.zero p.lr k l }
    | none => s
/-- R92: a write to the aperture register of port n: while the aperture partition runs a launch it is refused, whether or not
a landing region is enabled (DESIGN CHOICE, log 66). -/
def State.aperWrite (s : State) (port n : Nat) (v : W64) : State :=
  if s.apertureRuns n then s.violation port (0x1000 + 0x1000 * n)
  else if v.toNat < 512 then s.modPort n fun p => { p with aper := v }
  else s
/-- R92, R102: a write to EVCTL; ESEQ counts from the enable. -/
def Port.evctlWrite (p : Port) (v : W64) : Port :=
  { p with evctl := v &&& 3, eseq := if v.getLsbD 0 && !p.evctl.getLsbD 0 then 0 else p.eseq }
/-- R93: a write to CMDOP (DEDUCED, log 19). -/
def State.cmdopWrite (s : State) (port : Nat) (v : W64) : State :=
  let run (o : Out) : State := match o with
    | .next t => t
    | .fault _ => s
    | .refused _ => s
  match v.toNat with
  | 0x01 => run (execPcreate port s)
  | 0x02 => run (execPdestroy port s)
  | 0x03 => run (execPassign port s)
  | 0x04 => run (execRetire port s)
  | 0x05 => run (execLoan port s)
  | 0x06 => s.mpower port
  | 0x07 => s.ppower port
  | 0x08 => run (execQresume port s)
  | 0x09 => s.sqown port
  | _ => run (execUnknownCmdop port v s)
/-- R92: a write to the block of port n: either control port writes every register of both but CMDOP
(DESIGN CHOICE, log 66) (DEDUCED, log 19). -/
def State.portWrite (s : State) (port n off : Nat) (v : W64) : State :=
  if off = 0 then s.aperWrite port n v
  else if off = 8 then s.modPort n fun p => { p with dropcnt := 0 }
  else if 0x100 ≤ off && off < 0x300 then s.landingWrite port n off v
  else if 2 ≤ n then s
  else if off = 0x800 then (if n = port then s.cmdopWrite port v else s.violation port (cmdopOff n))
  else match off with
    | 0x400 => if v.extractLsb' 0 6 = 0 then s.modPort n fun p => { p with evbase := v } else s
    | 0x408 => if 6 ≤ v.toNat && v.toNat ≤ 16 then s.modPort n fun p => { p with evsz := v } else s
    | 0x418 => s.evtailWrite n (v.setWidth 32)
    | 0x420 => s.modPort n fun p => { p with evovf := 0 }
    | 0x428 => s.modPort n fun p => p.evctlWrite v
    | 0x808 | 0x810 | 0x818 | 0x820 => s.modPort n fun p => { p with cmdarg := sset 0 p.cmdarg ((off - 0x808) / 8) v }
    | _ => s
/-- R54, R91: a write to the MSI-X table of port n: two words of an entry; unmasking a pending vector fires it
(PRESUMED, the PCIe form, log 42). -/
def State.msixWrite (s : State) (n off : Nat) (v : W64) : State :=
  if 0x400 ≤ off then s
  else
    let i := off / 4
    let s := s.modPort n fun p => { p with msix := sset 0 (sset 0 p.msix i (v.setWidth 32)) (i + 1) ((v >>> 32).setWidth 32) }
    let e := off / 16
    if (s.port n).pending.getLsbD e && (sget 0 (s.port n).msix (4 * e + 3)).toNat % 2 = 0 then
      (s.modPort n fun p => { p with pending := p.pending &&& ~~~(1#64 <<< e) }).fire n e
    else s

/-! ## Partition blocks (R105, R137) -/

/-- R91: the offset of a register of the block of partition p. -/
def partOff (p off : Nat) : Nat := 0x300000 + 0x100 * p + off
/-- R90: a write to a partition block by the port it is assigned to; that to the block of an id that is not in use is a
violation too (DESIGN CHOICE, log 19). -/
def State.partWrite (s : State) (port p off : Nat) (act : Part → State) : State :=
  match s.part p with
  | some q => if q.ctl.toNat = port then act q else s.violation port (partOff p off)
  | none => s.violation port (partOff p off)
/-- R105, R106: slots freed; a record that waits is written next. -/
def State.tqack (s : State) (port p : Nat) (v : W64) : State :=
  s.partWrite port p 0x28 fun q =>
    let keep := q.tqValid &&& ~~~v
    let s := s.setPart p { q with tqValid := keep, tq := q.tq.filter fun e => keep.getLsbD e.1 }
    if q.pendRecs.isEmpty then s else s.at_ s.gcyc (.trapRecordWrite p)
/-- TQACK_WRITE (R105, R106). -/
def execTqackWrite (port p : Nat) (v : W64) (s : State) : Out := .next (s.tqack port p v)
/-- R137: MGRP breaks a rule: a position not below its count, or high bits. -/
def mgrpBad (v : W64) : Bool :=
  v.extractLsb' 48 16 != 0 || v.extractLsb' 0 8 < v.extractLsb' 24 8 || v.extractLsb' 8 8 < v.extractLsb' 32 8 ||
    v.extractLsb' 16 8 < v.extractLsb' 40 8
/-- R137, R138: a write to MGRP. -/
def State.mgrpWrite (s : State) (port p : Nat) (v : W64) : State :=
  s.partWrite port p 0x40 fun q =>
    if q.busy || mgrpBad v then s.violation port (partOff p 0x40) else s.setPart p { q with mgrp := v }
/-- MGRP_WRITE (R137, R138). -/
def execMgrpWrite (port p : Nat) (v : W64) (s : State) : Out := .next (s.mgrpWrite port p v)
/-- R137: PSTATE. -/
def Part.pstate (q : Part) : Nat :=
  q.power.code + 4 * q.trans.isSome.toNat + 8 * q.run.isSome.toNat + 16 * q.stab.isSome.toNat +
    32 * (match q.freeze with
      | some z => z.stopped
      | none => false).toNat + 64 * q.next.isSome.toNat
/-- R137: PRUN and PNEXT. -/
def launchWord : Option Launch → Nat
  | some l => l.idx.toNat + 2 ^ 32 * l.q + 2 ^ 63
  | none => 0
/-- R137: a register of the block of partition p, as it reads: the generation accepted now (R74), the capability tag of the
tiles as they are (R121). -/
def State.partReg (s : State) (q : Part) (p off : Nat) : Nat :=
  match off with
  | 0x00 => q.pstate
  | 0x08 => q.geom p + 2 ^ 48 * q.ctl.toNat
  | 0x10 => q.dist
  | 0x18 => (s.accepted q).toNat
  | 0x20 => q.tqValid.toNat
  | 0x30 => q.tqLost.toNat
  | 0x38 => (s.capTag q).toNat
  | 0x40 => q.mgrp.toNat
  | 0x48 => launchWord q.run
  | 0x50 => launchWord q.next
  | 0x58 => q.lfault.toNat
  | 0x60 => q.geom p
  | _ => 0

/-! ## Health words, channels, slot tables (R65 to R69, R81, R196) -/

/-- R81: SUS cleared, with the bucket. -/
def Health.clear (h : Health) : Health := { h with sus := false, bkt := 0 }
/-- SUS_CLEAR (R81): a 1 is written to SUS. -/
def execSusClear (x y : Nat) (s : State) : Out := .next (s.modHealth (tileKey x y) Health.clear)

/-- The machine with a channel changed. -/
def State.modChan (s : State) (key : Nat) (f : HChan → HChan) : State :=
  { s with chans := sset HChan.zero s.chans key (f (s.chan key)) }
/-- R68: WERR set. -/
def HChan.werr (c : HChan) : HChan := { c with hstat := c.hstat ||| 8 }
/-- R67, R69: the channel's slot table holds a partition entry. -/
def HChan.partitioned (c : HChan) : Bool := c.slots.any fun e => e.extractLsb' 14 2 == 1
/-- R68: MODE. -/
def HChan.mode (c : HChan) : Nat := c.hctl.toNat % 4
/-- R68: the lane that HDLY names. -/
def HChan.lane (c : HChan) : Nat := (sget 0 c.hdly 256).toNat
/-- R68, R69, R67: a training write: in MODE 2, out of its range, or to a channel whose table holds a partition entry it is
ignored and sets WERR (DEDUCED, log 21). -/
def HChan.training (c : HChan) (ok locked : Bool) (f : HChan → HChan) : HChan :=
  if !ok || (locked && c.mode = 2) || c.partitioned then c.werr else f c
/-- R67 to R69: a write of MODE. Leaving training, TRAINED and FAILED say what it came to, which is free (log 6)
(DEDUCED, log 21). -/
def HChan.setMode (c : HChan) (mode : BitVec 2) (free : W64) : HChan :=
  c.training (mode != 3) false fun c =>
    let st := if c.mode = 1 && mode != 1 then (c.hstat &&& ~~~3) ||| (if free.getLsbD 0 then 1 else 2) else c.hstat
    { c with hctl := (c.hctl &&& ~~~3) ||| mode.setWidth 64, hstat := st }
/-- R68, R67: HRPR is applied: the failed lane is mapped to the redundant lane. -/
def HChan.apply (c : HChan) : HChan :=
  c.training true false fun c =>
    { c with hstat := c.hstat ||| 4, laneMap := sset 0 c.laneMap (c.hrpr.toNat % 256) (c.hrpr.toNat / 256 % 4 + 1) }
/-- R68, R67: HERR of the lane in HDLY cleared. -/
def HChan.clearErr (c : HChan) : HChan := c.training true false fun c => { c with herr := sset 0 c.herr c.lane 0 }
/-- R68: a 32-bit write to the register at an offset of a channel's block. In MODE 1 the error count and the eye of the
lane written are free (log 6) (DEDUCED, log 21). -/
def HChan.write (c : HChan) (off : Nat) (v : W32) (free : W64) : HChan :=
  match off with
  | 0x00 =>
    if v.toNat % 4 = 3 || 8 ≤ v.toNat then c.werr
    else
      let c := c.setMode (v.setWidth 2) free
      if v.getLsbD 2 then c.apply else c
  | 0x04 => c.training ((v.setWidth 8).toNat ≤ 71) true fun c =>
      let n := (v.setWidth 8).toNat
      { c with
        hdly := sset 0 (sset 0 c.hdly n ((v.extractLsb' 8 8).setWidth 64)) 256 ((v.setWidth 8).setWidth 64)
        herr := if c.mode = 1 then sset 0 c.herr n (free &&& 0xFFFF) else c.herr
        heye := if c.mode = 1 then (free >>> 16) &&& 0xFFFFFF else c.heye }
  | 0x08 => c.training (v.toNat < 4) true fun c => { c with hpat := v.setWidth 64 }
  | 0x0C => c.training true false fun c => { c with hpwd := v.setWidth 64 }
  | 0x10 => c.clearErr
  | 0x18 => c.training ((v.setWidth 8).toNat ≤ 71) true fun c => { c with hrpr := v.setWidth 64 &&& 0x3FF }
  | _ => c
/-- R68: a register of a channel as it reads. -/
def HChan.read (c : HChan) (off : Nat) : Nat :=
  match off with
  | 0x00 => c.mode
  | 0x04 => c.lane + 2 ^ 8 * (sget 0 c.hdly c.lane).toNat
  | 0x08 => c.hpat.toNat
  | 0x0C => c.hpwd.toNat
  | 0x10 => (sget 0 c.herr c.lane).toNat
  | 0x14 => c.heye.toNat
  | 0x18 => c.hrpr.toNat
  | 0x1C => c.hstat.toNat
  | _ => 0
/-- R37, R91: the channel `ch` that the controller of training block i controls, by key; none where it controls none, or has no
power (R34). -/
def State.chanKey (s : State) (i ch : Nat) : Option Nat :=
  if s.chipletLit (controllerChiplet i) then (s.indexOf i).map fun n => 16 * n + ch else none
/-- The machine with such a channel changed. -/
def State.modBlock (s : State) (i ch : Nat) (f : HChan → HChan) : State :=
  match s.chanKey i ch with
  | some k => s.modChan k f
  | none => s
/-- R68: a channel is FAILED. -/
def HChan.failed (c : HChan) : Bool := c.hstat.getLsbD 1
/-- R67, R37: the quadrant's spare is to serve the slice of a channel that has just failed, unless it serves one already
(log 6). -/
def State.remapFailed (s : State) (old : HChan) (key : Nat) : State :=
  if (s.chan key).failed && !old.failed && (s.spareFor (key / 16 / 28)).isNone then
    s.soon (.sliceRemap (key / 16 / 28) true (BitVec.ofNat 5 (key / 16 % 28)))
  else s
/-- R67: a training step on a channel of a block: a channel that cannot be trained fails, and the spare comes in. -/
def State.trainBlock (s : State) (i ch : Nat) (f : HChan → HChan) : State :=
  match s.chanKey i ch with
  | some k => (s.modChan k f).remapFailed (s.chan k) k
  | none => s
/-- HCTL_MODE (R68, R69, R67). -/
def execHctlMode (slice ch : Nat) (mode : BitVec 2) (s : State) : Out :=
  let v := Config.freeValue s.freeCtr
  .next ({ s with freeCtr := s.freeCtr + 1 }.trainBlock slice ch fun c => c.setMode mode v)
/-- HCTL_REPAPPLY (R68). -/
def execHctlRepapply (slice ch : Nat) (s : State) : Out := .next (s.modBlock slice ch HChan.apply)
/-- HERR_CLEAR (R68). -/
def execHerrClear (slice ch : Nat) (s : State) : Out := .next (s.modBlock slice ch HChan.clearErr)
/-- R91, R68: a 32-bit write to the training block of slice i (112 to 115 the spares) (DEDUCED, log 21). -/
def State.trainWrite (s : State) (i off : Nat) (v : W32) : State :=
  { s with freeCtr := s.freeCtr + 1 }.trainBlock i (off / 0x40) fun c => c.write (off % 0x40) v (Config.freeValue s.freeCtr)
/-- R91, R68: a 32-bit read of such a block. -/
def State.trainRead (s : State) (i off : Nat) : Nat :=
  match s.chanKey i (off / 0x40) with
  | some k => (s.chan k).read (off % 0x40)
  | none => 0

/-- R65: an entry of a slot table breaks a rule. -/
def slotBad (e : BitVec 16) : Bool :=
  e.extractLsb' 9 4 != 0 || (e.extractLsb' 14 2 != 1 && (e.getLsbD 13 || e.extractLsb' 0 9 != 0))
/-- R65: a slot table is rejected. -/
def tableBad (t : List (BitVec 16)) : Bool :=
  t.length != 1024 || t.any slotBad || (t.filter fun e => e.extractLsb' 14 2 == 2).length < 32
/-- R124: a table that would give a partition a slot of another one in use. -/
def State.takesSlot (s : State) (old new : List (BitVec 16)) : Bool :=
  (List.range 1024).any fun i =>
    let o := old.getD i 0
    let n := new.getD i 0
    o.extractLsb' 14 2 == 1 && n.extractLsb' 14 2 == 1 && o.extractLsb' 0 9 != n.extractLsb' 0 9 &&
      (s.part (o.extractLsb' 0 9).toNat).isSome
/-- SLOT_TABLE_WRITE (R65, R124): a rejected table leaves the previous one in force and raises an event; the root refuses a
request that takes a slot away from another partition (DEDUCED, log 23). -/
def execSlotTableWrite (slice ch : Nat) (table : List (BitVec 16)) (s : State) : Out :=
  .next (if tableBad table then s.note 0x0D (16 * slice + ch) 0
    else s.modBlock slice ch fun c => if s.takesSlot c.slots table then c else { c with slots := table })

/-- R216: a partition is quiesced: it has no running or pre-empted launch, so none of its messages is in flight. -/
def State.quiesced (s : State) (p : Nat) : Bool :=
  match s.part p with
  | some q => q.run.isNone && q.stab.isNone
  | none => true
/-- R65: a partition has a slot on a slice. -/
def State.onSlice (s : State) (p slice : Nat) : Bool :=
  (List.range 16).any fun ch => (s.chan (16 * slice + ch)).owners.contains p
/-- R196: the remap register (DEDUCED, log 63). -/
def remapWord (valid : Bool) (fslc : BitVec 5) : W64 := fslc.setWidth 64 + (if valid then 256 else 0)
/-- R67: a slice has a channel that could not be trained. -/
def State.sliceFailed (s : State) (slice : Nat) : Bool := (List.range 16).any fun ch => (s.chan (16 * slice + ch)).failed
/-- SLICE_REMAP (R196, R37): the root writes it only while every partition with a slot on the failed slice is quiesced,
and never a slice of 28 or above; for a slice with a failed channel it tries again (R67) (DEDUCED, log 63). -/
def execSliceRemap (quadrant : Nat) (valid : Bool) (fslc : BitVec 5) (s : State) : Out :=
  let slice := 28 * quadrant + fslc.toNat
  let names := quadrant < 4 && fslc.toNat < 28
  .next (if names && s.partIds.all fun p => s.quiesced p || !s.onSlice p slice then
      { s with remap := sset 0 s.remap quadrant (remapWord valid fslc) }
    else if names && valid && s.sliceFailed slice then s.soon (.sliceRemap quadrant valid fslc)
    else s)

/-! ## BAR 0 writes (R91) -/

/-- R91: the 32-bit registers of BAR 0: UCIe status, health, training but for the remap registers. -/
def isNarrow (off : Nat) : Bool :=
  (0x600000 ≤ off && off < 0x601000) || (0x610000 ≤ off && off < 0x634000) ||
    (0x640000 ≤ off && off < 0x65D000 && !((off - 0x640000) % 0x400 = 0x3F8 && 0x640000 + 0x400 * 112 ≤ off))
/-- R91: a 32-bit register written. -/
def State.narrowWrite (s : State) (off : Nat) (v : W32) : State :=
  if 0x640000 ≤ off then s.trainWrite ((off - 0x640000) / 0x400) ((off - 0x640000) % 0x400) v
  else if 0x610000 ≤ off then
    (if v.getLsbD 7 then s.modHealth ((off - 0x610000) / 4) Health.clear else s)
  else s
/-- R91: a 64-bit register written. -/
def State.wideWrite (s : State) (port off : Nat) (v : W64) : State :=
  if off = 0x10 then s.ownsemWrite port v.toNat
  else if 0x1000 ≤ off && off < 0x9000 then s.portWrite port (off / 0x1000 - 1) (off % 0x1000) v
  else if 0x10000 ≤ off && off < 0x12000 then s.msixWrite (off / 0x1000 - 0x10) (off % 0x1000) v
  else if 0x100000 ≤ off && off < 0x300000 then s.descWrite port ((off - 0x100000) / 0x40) (off % 0x40 / 8) v
  else if 0x300000 ≤ off && off < 0x320000 then
    let p := (off - 0x300000) / 0x100
    match off % 0x100 with
    | 0x28 => s.tqack port p v
    | 0x40 => s.mgrpWrite port p v
    | o => s.partWrite port p o fun _ => s
  else s
/-! ## BAR 0 reads (R91) -/

/-- R91, R92: a register of the block of port n, as it reads. CMDOP, of which only the write is described, reads 0
(DESIGN CHOICE, log 66). -/
def State.portRead (s : State) (n off : Nat) : Nat :=
  let p := s.port n
  if off = 0 then p.aper.toNat
  else if off = 8 then p.dropcnt.toNat
  else if 0x100 ≤ off && off < 0x300 then
    let l := p.landing ((off - 0x100) / 32)
    match (off - 0x100) / 8 % 4 with
    | 0 => l.base.toNat
    | 1 => l.len.toNat
    | 2 => l.rid.toNat
    | _ => l.ctl.toNat
  else if 2 ≤ n then 0
  else match off with
    | 0x400 => p.evbase.toNat
    | 0x408 => p.evsz.toNat
    | 0x410 => p.evhead.toNat
    | 0x418 => p.evtail.toNat
    | 0x420 => p.evovf.toNat
    | 0x428 => p.evctl.toNat
    | 0x808 | 0x810 | 0x818 | 0x820 => (sget 0 p.cmdarg ((off - 0x808) / 8)).toNat
    | 0x828 => p.cmdstat.toNat
    | _ => 0
/-- R91: IDENT: the vendor in bits 15:0, the device in 31:16, the revision in 39:32 (DESIGN CHOICE, log 66). -/
def ident : Nat := 0x4C41 + 2 ^ 16 * 0x0D48 + 2 ^ 32 * Config.revision.toNat
/-- R91, R110: MSTATE: the module state in bits 1:0, 0 OFF, 1 STANDBY, 2 ON (DESIGN CHOICE, log 66); TRIP in bit 8. -/
def State.mstate (s : State) : Nat :=
  (match s.power with
    | .off => 0
    | .standby => 1
    | .on => 2) + 2 ^ 8 * s.trip.toNat
/-- R91: the 64-bit register at an aligned offset, as it reads; zero where there is none. -/
def State.wideRead (s : State) (off : Nat) : Nat :=
  if off < 0x1000 then
    match off with
    | 0x00 => ident
    | 0x08 => s.modid.toNat
    | 0x10 => s.ownsem.toNat
    | 0x18 => s.mstate
    | 0x20 => s.wgen.toNat
    | _ => 0
  else if off < 0x9000 then s.portRead (off / 0x1000 - 1) (off % 0x1000)
  else if 0x10000 ≤ off && off < 0x12000 then
    let p := s.port (off / 0x1000 - 0x10)
    let o := off % 0x1000
    if o < 0x400 then (sget 0 p.msix (o / 4)).toNat + 2 ^ 32 * (sget 0 p.msix (o / 4 + 1)).toNat
    else if o = 0x800 then p.pending.toNat
    else 0
  else if 0x100000 ≤ off && off < 0x300000 then ((s.queue ((off - 0x100000) / 0x40)).word (off % 0x40 / 8)).toNat
  else if 0x300000 ≤ off && off < 0x320000 then
    let p := (off - 0x300000) / 0x100
    match s.part p with
    | some q => s.partReg q p (off % 0x100)
    | none => 0
  else if 0x400000 ≤ off && off < 0x600000 then
    match s.part ((off - 0x400000) / 0x1000) with
    | some q => ((sget 0 q.tq (off % 0x1000 / 0x40)).extractLsb' (8 * (off % 0x40)) 64).toNat
    | none => 0
  else if 0x640000 + 0x400 * 112 ≤ off && off < 0x65D000 && (off - 0x640000) % 0x400 = 0x3F8 then
    (sget 0 s.remap ((off - 0x640000) / 0x400 - 112)).toNat
  else 0
/-- R91: the 32-bit register at an aligned offset, as it reads. -/
def State.narrowRead (s : State) (off : Nat) : Nat :=
  if 0x640000 ≤ off then s.trainRead ((off - 0x640000) / 0x400) ((off - 0x640000) % 0x400)
  else if 0x610000 ≤ off then (s.tile ((off - 0x610000) / 4)).health.word.toNat
  else if (off - 0x600000) / 4 < 560 then (s.linkStatus ((off - 0x600000) / 4)).toNat
  else 0
/-- R91: a read of n bytes at an offset of BAR 0: what is not an aligned access of the register's width, or an aligned 8-byte
one of two 32-bit registers, reads zero. What the read clears is its event's to say (R53, R68, R105). -/
def State.bar0Read (s : State) (off n : Nat) : List Byte :=
  if isNarrow off then
    if n = 4 && off % 4 = 0 then bytesOf 4 (s.narrowRead off)
    else if n = 8 && off % 8 = 0 then bytesOf 4 (s.narrowRead off) ++ bytesOf 4 (s.narrowRead (off + 4))
    else bytesOf n 0
  else if n = 8 && off % 8 = 0 then bytesOf 8 (s.wideRead off)
  else bytesOf n 0
/-- A completed read of BAR 0 returned to the host. -/
def State.reads (s : State) (off n : Nat) : HostReply := ⟨true, s.bar0Read off n⟩
/-- TQLOST_READ (R105): the bit is returned and cleared. -/
def execTqlostRead (port p : Nat) (s : State) : Out :=
  .next (if 2 ≤ port || !s.answers port then { s with hostReply := ⟨false, []⟩ }
    else { s.modPart p (fun q => { q with tqLost := false }) with hostReply := s.reads (partOff p 0x30) 8 })
/-- HSTAT_READ (R68): the status is returned and WERR cleared. -/
def execHstatRead (slice ch : Nat) (s : State) : Out :=
  .next { s.modBlock slice ch (fun c => { c with hstat := c.hstat &&& ~~~8 }) with
    hostReply := s.reads (0x640000 + 0x400 * slice + 0x40 * ch + 0x1C) 4 }

/-- REGISTER_WRITE (R91): an access of n bytes at an offset of BAR 0. A 64-bit register takes an aligned 8-byte access, a
32-bit one an aligned 4-byte access or half of an aligned 8-byte one; anything else is ignored. -/
def execRegisterWrite (port off n : Nat) (v : W64) (s : State) : Out :=
  .next (if 2 ≤ port || !s.answers port then s
    else if isNarrow off then
      if n = 4 && off % 4 = 0 then s.narrowWrite off (v.setWidth 32)
      else if n = 8 && off % 8 = 0 then (s.narrowWrite off (v.setWidth 32)).narrowWrite (off + 4) ((v >>> 32).setWidth 32)
      else s
    else if n = 8 && off % 8 = 0 then s.wideWrite port off v
    else s)

/-! ## The HBM aperture (R55 to R58, R111, R225, R226) -/

/-- R56, R55: where an access of n bytes to the 4 TiB of BAR 4 of a port goes, with the region that holds all of it
(DEDUCED, log 22). -/
def State.bar4At (s : State) (port : Nat) (addr n : Nat) : Option (Region × Nat) :=
  if 2 ^ 42 < addr + n then none
  else
    match findRegion (s.aperture port) addr with
    | some r => if addr + n ≤ r.vbase + 2 ^ 21 * r.pages then some (r, r.pbase + (addr - r.vbase)) else none
    | none => none
/-- R56: the host owns every page of a range (DEDUCED, log 22) (DESIGN CHOICE, log 69). -/
def State.hostOwned (s : State) (pa n : Nat) : Bool :=
  (List.range (pageOf (pa + n - 1) - pageOf pa + 1)).all fun i => !s.deviceOwned (pageOf pa + i)
/-- BAR4_READ (R55, R56, R225): of a page the host owns, or of a sequencer space by its region's rights; else Completer
Abort, as where what holds it has no power (R34; DEDUCED, log 22). -/
def execBar4Read (port : Nat) (addr : W64) (n : Nat) (s : State) : Out :=
  let abort : Out := .next { s with hostReply := ⟨false, []⟩ }
  if 8 ≤ port || !s.answers port || n = 0 then abort
  else
    match s.bar4At port addr.toNat n with
    | none => abort
    | some (r, pa) =>
      if !s.rangeLit pa n then abort
      else if inSeq pa then .next { s with hostReply := if r.r then ⟨true, s.seqRead pa n⟩ else ⟨false, []⟩ }
      else if !s.hostOwned pa n then abort
      else if !present pa n then .fault .physicalAddressAbsent
      else .next { s with hostReply := ⟨true, Memory.reads s.dev pa n⟩ }
/-- R57: the landing region that an address falls in (DEDUCED, log 19). Where two enabled regions overlap the lowest-numbered
decides (DESIGN CHOICE, log 66). -/
def Port.landingOf (p : Port) (va : Nat) : Option Landing := (skeys p.lr).findSome? fun k =>
  if (p.landing k).hits va then some (p.landing k) else none
/-- R226: the places of a write's bytes that set READY of an entry. -/
def readyBytes (pa : Nat) (bs : List Byte) : List Nat :=
  (List.range bs.length).filter fun i => (match seqKey (pa + i) with
    | some (_, o) => o == 19
    | none => false) && (bs.getD i 0).getLsbD 0
/-- BAR4_WRITE (R55 to R58, R225, R226, R34): performed, or dropped, counted and reported (DEDUCED, log 19; DEDUCED, log 22). -/
def execBar4Write (port : Nat) (rid : BitVec 16) (addr : W64) (data : List Byte) (s : State) : Out :=
  let n := data.length
  if 8 ≤ port || !s.answers port || n = 0 then .next s
  else
    match s.bar4At port addr.toNat n with
    | none => .next (s.dropWrite port)
    | some (r, pa) =>
      if inSeq pa then
        if !r.w || !s.rangeLit pa n then .next (s.dropWrite port)
        else
          let p := (s.port port).aper.toNat % 512
          let t := s.hostSeqWrite p pa data
          let fires := (readyBytes pa data).filter fun i => !t.1 || refusesFire (pa + i)
          let u := fires.foldl (fun s i => s.hostFire port (addr.toNat + i)) t.2
          .next (if t.1 then u.dropWrite port else u)
      else
        let ok := match (s.port port).landingOf addr.toNat with
          | some l => l.permits rid && l.hits (addr.toNat + n - 1)
          | none => s.hostOwned pa n
        if !ok || !s.rangeLit pa n then .next (s.dropWrite port)
        else if !present pa n then .fault .physicalAddressAbsent
        else .next (s.writeDev pa data false)

end Sys2Proof.Machine
end

