-- ==== Sys2Proof/Machine/Links.lean ====
section
/-! DEFINITION. UCIe modules: flits (R46 to R49), credits and reserved positions (R47, R51), replay (R49, R50), lane parity and
repair (R52, R53); HBM slots (R65, R66); messages at an endpoint (R214 to R217). -/

namespace Sys2Proof.Machine

/-! ## The parts of a flit (R46 to R48) -/

/-- n bits of a flit from bit k. -/
def flitField (v : BitVec 2048) (k n : Nat) : Nat := (v.extractLsb' k n).toNat
/-- R46: n bytes of a flit from byte o. -/
def flitBytes (v : BitVec 2048) (o n : Nat) : List Byte := (List.range n).map fun i => v.extractLsb' (8 * (o + i)) 8
/-- R46: beat i of a flit. -/
def flitBeat (v : BitVec 2048) (i : Nat) : BitVec 768 := v.extractLsb' (128 + 768 * i) 768
/-- R46: the metadata of beat i. -/
def flitMeta (v : BitVec 2048) (i : Nat) : BitVec 128 := v.extractLsb' (1664 + 128 * i) 128
/-- R47: SEQ. -/
def flitSeq (v : BitVec 2048) : BitVec 12 := v.extractLsb' 116 12
/-- R47: ACK. -/
def flitAck (v : BitVec 2048) : BitVec 12 := v.extractLsb' 104 12
/-- R47: FTYPE. -/
def flitType (v : BitVec 2048) : Nat := flitField v 100 4
/-- R47: beat i is valid. -/
def flitHas (v : BitVec 2048) (i : Nat) : Bool := flitType v == 1 && v.getLsbD (98 + i)
/-- R47: the class of beat i. -/
def flitClass (v : BitVec 2048) (i : Nat) : Nat := flitField v (95 - 3 * i) 3
/-- R47: the credits that a flit returns for a class. -/
def flitCred (v : BitVec 2048) (c : Nat) : Nat := flitField v (68 + 4 * c) 4
/-- R47: FCNT. -/
def flitCount (v : BitVec 2048) : Nat := flitField v 32 32

/-- R46: one bit of CRC-64/ECMA-182. -/
def crc64Bit (c : W64) (b : Bool) : W64 :=
  let x := c <<< 1
  if c.getLsbD 63 != b then x ^^^ 0x42F0E1EBA9EA3693 else x
/-- One byte, most significant bit first. -/
def crc64Byte (c : W64) (b : Byte) : W64 := [7, 6, 5, 4, 3, 2, 1, 0].foldl (fun c i => crc64Bit c (b.getLsbD i)) c
/-- R46: CRC-64/ECMA-182 of some bytes (PRESUMED, log 40). -/
def crc64 (bs : List Byte) : W64 := bs.foldl crc64Byte 0
/-- R46: both CRC fields of a flit agree with its bytes. -/
def crcGood (v : BitVec 2048) : Bool :=
  crc64 (flitBytes v 0 120) == v.extractLsb' 1920 64 && crc64 (flitBytes v 120 120) == v.extractLsb' 1984 64
/-- R47, R48: a flit is corrupt, for a receiver that has counted `fcnt` flits. -/
def flitCorrupt (v : BitVec 2048) (fcnt : Nat) : Bool :=
  3 < flitType v || 5 < flitClass v 0 || 5 < flitClass v 1 || flitField v 64 4 != 0 || flitCount v != fcnt % 2 ^ 32 ||
    flitField v 0 32 != 0 || (flitMeta v 0).extractLsb' 77 51 != 0 || (flitMeta v 1).extractLsb' 77 51 != 0

/-! ## The two ends (R47, R49, R51) -/

/-- The end of a module at the yard chiplet, or at the wafer. -/
def Ucie.end_ (u : Ucie) (yard : Bool) : UcieEnd := if yard then u.yard else u.wafer
/-- The module with an end changed. -/
def Ucie.modEnd (u : Ucie) (yard : Bool) (f : UcieEnd → UcieEnd) : Ucie :=
  if yard then { u with yard := f u.yard } else { u with wafer := f u.wafer }
/-- R50: the classes of the messages that carry a deadline: REQ, DATA and REPLY. -/
def deadlineClass (c : Nat) : Bool := c == 1 || c == 3 || c == 4
/-- R47, R51: an end may send beat i of a flit: a beat of a message with a deadline in a position of its partition, any other
under a credit of its class, of which beat 0 may have taken one; a parity flit's position carries no beat
(DESIGN CHOICE, log 40). -/
def State.maySend (s : State) (m : Nat) (e : UcieEnd) (v : BitVec 2048) (i : Nat) : Bool :=
  let c := flitClass v i
  let first := if i = 1 && flitHas v 0 && flitClass v 0 == c then 1 else 0
  !flitHas v i || (flitCount v % 4096 != 4095 &&
    (if deadlineClass c then s.reservation m (flitCount v) == some ((flitMeta v i).extractLsb' 0 9).toNat
     else sget 0 e.used c + first < Config.classDepth c))
/-- R52: the lane parities that a parity flit carries: bit i for lane i, in the first eight bytes of beat 0
(DESIGN CHOICE, log 40). -/
def flitParities (v : BitVec 2048) : BitVec 64 := v.extractLsb' 128 64
/-- R51, R52: a parity flit stands where the flit count modulo 4,096 is 4,095 and nowhere else, and carries the parities of
what its sender has sent since the last. -/
def UcieEnd.parityRight (e : UcieEnd) (v : BitVec 2048) : Bool :=
  (flitType v == 2) == (flitCount v % 4096 == 4095) && (flitType v != 2 || flitParities v == e.txPar)
/-- R47, R49, R51: an end sends a flit: a new one, with the next SEQ, or one of its replay buffer, bit for bit. -/
def State.sends (s : State) (m : Nat) (e : UcieEnd) (f : Flit) : Bool :=
  e.sent.contains f ||
    (flitSeq f.bits == e.txSeq && e.parityRight f.bits && s.maySend m e f.bits 0 && s.maySend m e f.bits 1)
/-- R49: the flits after the one that a link partner has acknowledged stay in the replay buffer. -/
def ackTo (sent : List Flit) (ack : BitVec 12) : List Flit :=
  if sent.any fun f => flitSeq f.bits == ack then (sent.dropWhile fun f => flitSeq f.bits != ack).drop 1 else sent
/-- Some counts by class changed, class by class. -/
def byClass (m : Sparse Nat) (f : Nat → Nat → Nat) : Sparse Nat := (List.range 6).foldl (fun m c => sset 0 m c (f c (sget 0 m c))) m
/-- R47: the valid beats of a class in a flit that flow under credits. -/
def credBeats (v : BitVec 2048) (c : Nat) : Nat :=
  ((List.range 2).filter fun i => flitHas v i && flitClass v i == c && !deadlineClass c).length
/-- R52: the parity of each lane over a flit: byte k goes over lane k mod 64 (PRESUMED, log 40). -/
def laneParity (v : BitVec 2048) : BitVec 64 :=
  (List.range 64).foldl (fun p i =>
    if (List.range 4).foldl (fun b j => (List.range 8).foldl (fun b k => b != v.getLsbD (8 * (i + 64 * j) + k)) b) false
    then p ||| (1#64 <<< i) else p) 0
/-- R47, R49: a new flit leaves an end: it goes into the replay buffer of 64, and uses and returns credits
(DESIGN CHOICE, log 40). -/
def UcieEnd.send (e : UcieEnd) (f : Flit) : UcieEnd :=
  { e with
    txSeq := e.txSeq + 1, sent := (e.sent ++ [f]).drop (e.sent.length + 1 - 64)
    used := byClass e.used fun c n => n + credBeats f.bits c
    held := byClass e.held fun c n => n - flitCred f.bits c }
/-- R47, R49: a good flit accepted (DESIGN CHOICE, log 40). -/
def UcieEnd.accept (e : UcieEnd) (v : BitVec 2048) : UcieEnd :=
  { e with
    rxSeq := flitSeq v, fcnt := e.fcnt + 1, discarding := false, sent := ackTo e.sent (flitAck v)
    used := byClass e.used fun c n => n - flitCred v c
    held := byClass e.held fun c n => n + credBeats v c }

/-! ## Beats (R48, R49, R75) -/

/-- What SECDED says of a word. -/
inductive EccState where
  | clean | single | double
  deriving DecidableEq, Repr

/-- R48, R49: a word against its check bits: one bit of the nine or of the word wrong is corrected (PRESUMED, log 40). -/
def eccState (w : BitVec 128) (check : BitVec 9) : EccState :=
  let e := Config.eccOf w
  if e = check then .clean
  else if ((List.range 9).any fun i => e ^^^ (1#9 <<< i) == check) ||
      (List.range 128).any fun i => Config.eccOf (w ^^^ (1#128 <<< i)) == check then .single
  else .double
/-- R49: a word as it is taken: a single wrong bit corrected. -/
def eccWord (w : BitVec 128) (check : BitVec 9) : BitVec 128 :=
  if Config.eccOf w = check || (List.range 9).any (fun i => Config.eccOf w ^^^ (1#9 <<< i) == check) then w
  else ((List.range 128).find? fun i => Config.eccOf (w ^^^ (1#128 <<< i)) == check).elim w fun i => w ^^^ (1#128 <<< i)
/-- R48, R49: word n of a beat, corrected. -/
def beatWord (beat : BitVec 768) (info : BitVec 128) (n : Nat) : BitVec 128 :=
  eccWord (beat.extractLsb' (128 * n) 128) (info.extractLsb' (23 + 9 * n) 9)
/-- R48, R49: word n of a beat, as its check bits find it. -/
def beatEcc (beat : BitVec 768) (info : BitVec 128) (n : Nat) : EccState :=
  eccState (beat.extractLsb' (128 * n) 128) (info.extractLsb' (23 + 9 * n) 9)
/-- R215: n bytes of the header of a message under way, from byte o. -/
def Train.field (t : Train) (o n : Nat) : Nat := (t.hdr.extractLsb' (8 * o) (8 * n)).toNat
/-- The message of a class and partition that a beat belongs to: the one of which beats are still to come, else the beat is the
first of its message and begins with its header (R215), corrected (R49). Beats of one class and partition cross a module message by message
(DESIGN CHOICE, log 40). -/
def UcieEnd.train (e : UcieEnd) (cls part : Nat) (beat : BitVec 768) (info : BitVec 128) : Train :=
  (e.trains.find? fun t => t.cls == cls && t.part == part).getD ⟨cls, part, beatWord beat info 1 ++ beatWord beat info 0, 0⟩
/-- R215: one more beat of a message has arrived; after NBEAT + 1 of them it is complete. -/
def UcieEnd.carry (e : UcieEnd) (t : Train) : UcieEnd :=
  let rest := e.trains.filter fun x => !(x.cls == t.cls && x.part == t.part)
  { e with trains := if t.got < t.field 2 1 then rest ++ [{ t with got := t.got + 1 }] else rest }
/-- R215: the place in its message's payload of word n of the beat that comes next: the header fills words 0 and 1 of the
first. -/
def Train.offset (t : Train) (n : Nat) : Option Nat :=
  if t.got = 0 then (if n < 2 then none else some (16 * (n - 2))) else some (64 + 96 * (t.got - 1) + 16 * n)
/-- R48, R49: the words of a beat that are spoilt: marked poisoned, or with a double-bit error. One of the header spoils every
word of the beat (DESIGN CHOICE, log 40). -/
def Train.spoilt (t : Train) (beat : BitVec 768) (info : BitVec 128) : List Nat :=
  let bad := (List.range 6).filter fun i => beatEcc beat info i == .double || info.getLsbD (17 + i)
  if bad.any fun i => (t.offset i).isNone then List.range 6 else bad
/-- The tile whose operation a message serves: its receiver, or the sender of a request to a unit of a yard chiplet. -/
def Train.tile (t : Train) : Nat := if t.field 4 2 / 256 < 144 then t.field 4 2 else t.field 6 2
/-- R48, R49: the word at an address is spoilt for the operation of a tile of the partition that TAG names
(DESIGN CHOICE, log 40). -/
def State.spoilTagged (s : State) (t : Train) (a : Nat) : State :=
  if (s.tile t.tile).part == some t.part then
    s.modTile t.tile fun x => { x with ops := x.ops.map fun o => if o.id % 2 ^ 16 = t.field 8 2 then o.spoilAt a else o }
  else s
/-- R48, R49, R75, R80: a beat of a class that has arrived at an end. Of an unknown partition it is discarded; of a stale
generation an event tells, and it touches nothing else. Of others, single-bit errors are corrected and count in the receiving
tile, and each spoilt word of the payload is poisoned. -/
def State.beat (s : State) (m : Nat) (yard : Bool) (cls : Nat) (beat : BitVec 768) (info : BitVec 128) : State :=
  let p := (info.extractLsb' 0 9).toNat
  let gen := info.extractLsb' 9 8
  match s.part p with
  | none => { s with msgDrops := s.msgDrops + 1 }
  | some q =>
    if gen = s.accepted q then
      let t := ((s.link m).end_ yard).train cls p beat info
      let dst := t.field 4 2
      let n := ((List.range 6).filter fun i => beatEcc beat info i == .single).length
      let s := if n != 0 && dst / 256 < 144 then s.modTile dst fun t => { t with errs := t.errs + n } else s
      let s := ((t.spoilt beat info).filterMap t.offset).foldl
        (fun s off => if off < t.field 28 4 then s.spoilTagged t (t.field 16 6 + off) else s) s
      s.modLink m fun u => u.modEnd yard fun e => e.carry t
    else s.notePart p 0x0C gen.toNat 0

/-! ## Receiving (R46 to R49, R52) -/

/-- R52: a new flit counts in the parities of the lanes at the end that sends it; a parity flit starts them again. -/
def UcieEnd.sendPar (e : UcieEnd) (v : BitVec 2048) : UcieEnd :=
  { e with txPar := if flitType v = 2 then 0 else e.txPar ^^^ laneParity v }
/-- R52: the same at the end where `v` arrives; at a parity flit that end keeps what it has counted. -/
def UcieEnd.receivePar (e : UcieEnd) (parity : Bool) (v : BitVec 2048) : UcieEnd :=
  if parity then { e with period := e.rxPar, rxPar := 0 } else { e with rxPar := e.rxPar ^^^ laneParity v }
/-- A new flit `f` crosses module m to its yard end or its wafer end, and `v` arrives: the sending end keeps it for replay, and
the lanes' parities run on at both ends. A flit that is replayed counts no second time (DESIGN CHOICE, log 40). -/
def State.cross (s : State) (m : Nat) (yard : Bool) (f : Flit) (v : BitVec 2048) : State :=
  if flitSeq f.bits = ((s.link m).end_ (!yard)).txSeq then
    s.modLink m fun u =>
      (u.modEnd (!yard) fun e => (e.send f).sendPar f.bits).modEnd yard fun e => e.receivePar (flitType f.bits == 2) v
  else s
/-- R52: an accepted parity flit shows the lanes on which what it carries differs from what the end has counted. -/
def UcieEnd.compare (e : UcieEnd) (v : BitVec 2048) : UcieEnd := { e with seen := some (flitParities v ^^^ e.period) }
/-- FLIT_RECEIVE (R46 to R52): a flit that its sender sends arrives, with noise. A bad flit starts a discard until the
replay of the flit after the last good one, and asks for that replay; a good one is accepted, whatever its SEQ while no
replay is awaited, its beats judged, a replay request in it answered, its parities compared
(DESIGN CHOICE, log 40; DESIGN CHOICE, log 60). -/
def execFlitReceive (m : Nat) (c : Crossing) (s : State) : Out :=
  let u := s.link m
  let yard := c.yard
  let f := c.flit
  let v := f.bits ^^^ c.noise
  let e := u.end_ yard
  .next (if s.power != .on || u.disabled || !s.sends m (u.end_ (!yard)) f then s
    else
      let s := s.cross m yard f v
      if e.discarding && flitSeq v != e.rxSeq + 1 then s
      else if !crcGood v || flitCorrupt v e.fcnt then
        (s.modLink m fun u => u.modEnd yard fun e => { e with discarding := true }).at_ s.gcyc (.replay m ⟨yard, e.rxSeq⟩)
      else
        let s := s.modLink m fun u => u.modEnd yard fun e => e.accept v
        let s := (List.range 2).foldl
          (fun s i => if flitHas v i then s.beat m yard (flitClass v i) (flitBeat v i) (flitMeta v i) else s) s
        match flitType v with
        | 2 => (s.modLink m fun u => u.modEnd yard fun e => e.compare v).at_ s.gcyc (.parityFlit m yard)
        | 3 => s.at_ s.gcyc (.replay m ⟨!yard, flitAck v⟩)
        | _ => s)

/-! ## Replay (R49, R50) -/

/-- R50, R195, R225: an operation with a deadline that crosses to a chiplet: that of a sequencer space, or one with a slice in
which a block of it falls. -/
def State.crosses (s : State) (o : RemOp) (chiplet : Nat) : Bool :=
  match o.kind with
  | .wake | .crdy => false
  | .gst | .ldg | .stg | .stp | .amo _ | .cas _ =>
    if inSeq o.pa then seqChiplet o.pa == chiplet
    else
      let mask := sliceMask o.pa o.len
      (List.range 112).any fun i => mask.getLsbD i && controllerChiplet (s.controllerOf i) == chiplet
/-- R50: an operation under way when a replay falls on a crossing of its attachment, `key`: from the second on one crossing on,
whether it misses its deadline is free (log 6). Its reply crosses until it is delivered. -/
def RemOp.replayed (o : RemOp) (key : Nat) (free : W64) : RemOp :=
  if o.open_ || (o.done && !o.mute && o.dest < 32 && (o.kind == .ldg || o.isAmo)) then
    { o with replays := sset 0 o.replays key (sget 0 o.replays key + 1)
             late := o.late || (1 ≤ sget 0 o.replays key && free.getLsbD 0) }
  else o
/-- REPLAY (R49, R50): the end that did not get the flit after the last good one is sent the replay buffer again, go-back-N,
within 231 cycles of the request; it falls on the operations that cross to the chiplet, of partitions with positions on the module
(DESIGN CHOICE, log 40). -/
def execReplay (m : Nat) (r : ReplayFrom) (s : State) : Out :=
  let u := s.link m
  let yard := r.yard
  .next (if s.power != .on || u.disabled then s
    else
      let flits := ackTo (u.end_ (!yard)).sent r.lastGood
      let s := s.modLink m fun u =>
        { u.modEnd (!yard) (fun e => { e with sent := flits }) with replays := u.replays.filter u.recent ++ [u.wafer.fcnt] }
      let d := s.nextDelay
      let s := flits.foldl (fun s f => s.at_ (s.gcyc + d.1 % 231 + 1) (.flitReceive m ⟨yard, f, 0⟩)) d.2
      let v := Config.freeValue s.freeCtr
      let s := { s with freeCtr := s.freeCtr + 1 }
      let ps := s.partIds.filter fun p => s.reservesOn p m
      (skeys s.tiles).foldl (fun z k => z.modTile k fun t =>
        { t with ops := t.ops.map fun o => if t.part.any ps.contains && s.crosses o (m / 20) then o.replayed (2 * m + yard.toNat) v else o }) s)

/-! ## Lanes (R52) -/

/-- R52: the parity disagreements of the last 2^24 flits with those of a parity flit. Those of both directions count together
for a lane, and the flits are those that the wafer end has accepted (DESIGN CHOICE, log 40). -/
def Ucie.parityOf (u : Ucie) (bad : BitVec 64) : List (Nat × Nat) :=
  u.parity.filter (fun e => u.recent e.2) ++ ((List.range 64).filter fun i => bad.getLsbD i).map fun i => (i, u.wafer.fcnt)
/-- The lanes that wait for their switch. -/
def Ucie.waiting (u : Ucie) : Nat := ((List.range 64).filter fun i => u.pendLanes.getLsbD i).length
/-- R52: the lanes that wait move to redundant lanes. -/
def Ucie.switch (u : Ucie) : Ucie := { u with spares := u.spares + u.waiting, pendLanes := 0 }
/-- R52: a lane is marked degraded: it is to move to a redundant lane, or, as the fifth, it disables the module. The event's
DATA carries the module's number in bytes 24 and 25 (DESIGN CHOICE, log 40). -/
def State.degrade (s : State) (m lane : Nat) : State :=
  let u := s.link m
  if u.disabled then s
  else
    let s := s.modLink m fun u => { u with lane := lane, parity := u.parity.filter fun e => e.1 != lane }
    if u.spares + u.waiting < 4 then
      let s := s.modLink m fun u => { u with pendLanes := u.pendLanes ||| (1#64 <<< lane) }
      s.note 0x0A (s.linkStatus m).toNat (record [(0, 2, m)])
    else s.failLink m
/-- R52: the lanes on which a parity flit accepted at an end disagrees. -/
def Ucie.disagree (u : Ucie) (yard : Bool) : BitVec 64 := (u.end_ yard).seen.getD 0
/-- PARITY_FLIT (R52): the receiver of a parity flit acts on it: lanes marked before it switch; a lane that disagrees three
times within 2^24 flits is degraded (DESIGN CHOICE, log 18). -/
def execParityFlit (m : Nat) (yard : Bool) (s : State) : Out :=
  let u := s.link m
  .next (if s.power != .on || u.disabled || (u.end_ yard).seen.isNone then s
    else
      let bad := u.disagree yard
      let ps := u.parityOf bad
      let s := s.modLink m fun u =>
        { u.switch.modEnd yard (fun e => { e with seen := none }) with parity := ps, par := u.par || bad != 0 }
      (List.range 64).foldl (fun s i =>
        if bad.getLsbD i && 3 ≤ (ps.filter fun e => e.1 = i).length then s.degrade m i else s) s)
/-- LANE_SWITCH (R52): the lanes that wait move to redundant lanes, at the position of a parity flit. -/
def execLaneSwitch (m : Nat) (s : State) : Out :=
  .next (if s.power == .on && (s.link m).wafer.fcnt % 4096 == 4095 then s.modLink m Ucie.switch else s)
/-- The disabled modules of a chiplet whose reservations have not been re-laid. -/
def State.unlaid (s : State) (chiplet : Nat) : List Nat :=
  (skeys s.ucie).filter fun m => m / 20 == chiplet && (s.link m).disabled && !(s.link m).relaid
/-- RESERVATION_RELAY (R52): every DATA reservation of the chiplet is laid anew, so only while every partition with one
there is quiesced; until then each with a reservation on a disabled module takes an uncorrectable error
(DEDUCED, log 16). -/
def execReservationRelay (chiplet : Nat) (s : State) : Out :=
  let ms := s.unlaid chiplet
  let ps := s.partIds.filter fun p => s.reserves p chiplet && !s.quiesced p
  .next (if ms.isEmpty then s
    else if ps.isEmpty then ms.foldl (fun s m => s.modLink m fun u => { u with relaid := true }) s
    else ((ps.filter fun p => ms.any fun m => s.reservesOn p m).foldl (fun s p => s.strike p) s).soon (.reservationRelay chiplet))
/-- UCIE_STATUS_READ (R53): the status word is returned and PAR cleared. -/
def execUcieStatusRead (m : Nat) (s : State) : Out :=
  .next { s.modLink m (fun u => { u with par := false }) with hostReply := s.reads (0x600000 + 4 * m) 4 }

/-! ## HBM slots (R65, R66) -/

/-- R65: the slot of a channel that starts at a cycle. -/
def HChan.slotAt (c : HChan) (g : Nat) : BitVec 16 := c.slots.getD (g % 12288 / 12) 0
/-- R66: a slot of a direction serves operations of a kind; an AMO, which reads and writes, in a write slot
(DESIGN CHOICE, log 23). -/
def RemOp.direction (o : RemOp) (write : Bool) : Bool :=
  match o.kind with
  | .gst | .stp | .amo _ | .cas _ => write
  | .ldg | .stg => !write
  | .wake | .crdy => false
/-- R66: the blocks of an operation that a slot of a channel starting at a cycle may serve: their requests have been at the
slice for 24 cycles. -/
def RemOp.servable (o : RemOp) (slice ch g : Nat) (write : Bool) : List Piece :=
  if o.open_ && o.inHbm && o.direction write && present o.pa o.len then
    o.pieces.filter fun z => !z.done && z.due.isNone && z.reach + 24 ≤ g && sliceOf (256 * z.blk) == slice && channelOf (256 * z.blk) == ch
  else []
/-- The entry of least number, the first of those. -/
def leastBy {α : Type} (f : α → Nat) : List α → Option α
  | [] => none
  | a :: as => match leastBy f as with
    | none => some a
    | some b => if f b < f a then some b else some a
/-- R66: the block that a slot of a partition serves, with its tile and operation: the request that came first
(DEDUCED, log 23). -/
def State.slotServes (s : State) (p slice ch : Nat) (write : Bool) : Option (Nat × RemOp × Piece) :=
  match s.part p with
  | none => none
  | some q => leastBy (fun e => e.2.2.reach) (q.tileKeys.flatMap fun k =>
      (s.tile k).ops.flatMap fun o =>
        (o.servable slice ch s.gcyc write).filterMap fun z => if s.opHeld k o then none else some (k, o, z))
/-- R66: a slot serves a block: read data are taken now and leave at g + 60, from where they travel a free number of cycles
(log 6), a write is in HBM at g + 12. -/
def State.serve (s : State) (k : Nat) (o : RemOp) (z : Piece) (write : Bool) : State :=
  let d := s.nextDelay
  let s := d.2
  let due := if write then s.gcyc + 12 else s.gcyc + 60 + d.1
  let a := 256 * z.blk
  let data : BitVec 2048 := if write then z.data else BitVec.ofNat 2048 (memNat s.dev a 256)
  let poi : BitVec 16 := if write then z.poi
    else (List.range 16).foldl (fun v i => if sget false s.devPoi (a / 16 + i) then v ||| (1#16 <<< i) else v) z.poi
  let s := s.modTile k fun t => t.modOp o.id fun o =>
    { o with pieces := o.pieces.map fun x => if x.blk = z.blk then { x with due := some due, data := data, poi := poi } else x }
  s.at_ due (if o.staged then .stagingComplete (k % 256) (k / 256) o.id else .sliceAccess (k % 256) (k / 256) o.id)
/-- R80: n more errors that a controller has corrected in this cycle. -/
def State.sliceFound (s : State) (ctl n : Nat) : State :=
  { s with sliceErrs := sset 0 s.sliceErrs ctl (sget 0 s.sliceErrs ctl + n) }
/-- HBM_SLOT (R65, R66, R80, R37): the slot of a channel that starts at this cycle, performed by the controller that controls
the channel: it serves one request of its owner, refreshes, or scrubs; how many errors each corrects is free (log 6). A
slot that its owner does not use stays idle (DEDUCED, log 23). -/
def execHbmSlot (ctl ch : Nat) (s : State) : Out :=
  .next (match s.chanKey ctl ch with
    | none => s
    | some key =>
      let c := s.chan key
      let e := c.slotAt s.gcyc
      if s.power != .on || s.gcyc % 12 != 0 || c.lastSlot == some s.gcyc then s
      else
        let s := s.modChan key fun c => { c with lastSlot := some s.gcyc }
        match (e.extractLsb' 14 2).toNat with
        | 1 => match s.slotServes (e.extractLsb' 0 9).toNat (key / 16) ch (e.getLsbD 13) with
          | some (k, o, z) => (s.serve k o z (e.getLsbD 13)).sliceFound ctl (Config.corrected s.gcyc (0x20000 + ctl))
          | none => s
        | 3 =>
          let n := (Config.freeValue s.freeCtr).toNat % 2
          { s with freeCtr := s.freeCtr + 1 }.sliceFound ctl n
        | _ => s)

/-! ## Messages (R214 to R217) -/

/-- R215: n bytes of a message header at an offset. -/
def msgField (m : BulkMsg) (o n : Nat) : Nat := m.hdr.toNat / 2 ^ (8 * o) % 2 ^ (8 * n)
/-- R215: CLS. -/
def msgClass (m : BulkMsg) : Nat := msgField m 0 1 / 32
/-- R215: DST names a tile or a unit of a yard chiplet (DESIGN CHOICE, log 24). -/
def knownEndpoint (d : Nat) : Bool := d / 256 < 144 || (0xF000 ≤ d && d < 0xF000 + 16 * 28)
/-- R217: the endpoint serves the message's partition (DESIGN CHOICE, log 24). -/
def State.serves (s : State) (d p : Nat) : Bool :=
  if d / 256 < 144 then (s.tile d).part == some p else (s.part p).isSome
/-- R215: the message is discarded and counted (DESIGN CHOICE, log 24). -/
def msgDropped (m : BulkMsg) : Bool :=
  5 < msgClass m || msgField m 0 1 % 32 != 0 || msgField m 3 1 != 0 || !knownEndpoint (msgField m 4 2) || msgField m 10 6 != 0
/-- R215: the message is discarded with an error reply: an unknown operation of CLS ≤ 2, a bad address, or a length that
does not fit its beats (DESIGN CHOICE, log 24). -/
def msgAnswered (m : BulkMsg) : Bool :=
  (!Config.knownOp (msgClass m) (msgField m 1 1) && msgClass m ≤ 2) || msgField m 22 2 != 0 || (32 + msgField m 28 4 + 95) / 96 != msgField m 2 1 + 1 ||
    m.beats != msgField m 2 1 + 1
/-- R215: what becomes of a message that has left its sender: discarded and counted, ignored, or answered with an error; one of
class REPLY or EVT causes no reply, whose class would not be later than its own (R214). -/
def State.endpoint (s : State) (m : BulkMsg) : State :=
  if msgDropped m then { s with msgDrops := s.msgDrops + 1 }
  else if s.serves (msgField m 4 2) m.part.toNat && msgAnswered m then
    if 4 ≤ msgClass m then { s with msgDrops := s.msgDrops + 1 }
    else { s with errReplies := s.errReplies ++ [(BitVec.ofNat 16 (msgField m 6 2), BitVec.ofNat 16 (msgField m 8 2))] }
  else s
/-- BULK_MESSAGE (R214 to R217, R48, R75): one of a stale generation does not leave its sender, and an event tells; another comes
to its endpoint. What an accepted one asks for is the access, transfer or wake that its sender has under way
(DESIGN CHOICE, log 24; DESIGN CHOICE, log 60). -/
def execBulkMessage (m : BulkMsg) (s : State) : Out :=
  let stale := match s.part m.part.toNat with
    | some q => m.gen != s.accepted q
    | none => false
  .next (if s.power != .on then s
    else if stale then s.notePart m.part.toNat 0x0C m.gen.toNat 0
    else s.endpoint m)

end Sys2Proof.Machine
end

