-- ==== Sys2Proof/Machine/Dispatch.lean ====
section
/-! DEFINITION. One arm per row of the opcode table: the meaning of each instruction and event. -/

namespace Sys2Proof.Machine

/-- What performing one row of the opcode table does. -/
def exec (i : Instr) (s : State) : Host.Outcome State Fault Refusal :=
  match i with
  | .nop g => Sys2Proof.Machine.execNop g s
  | .add g x d a b => Sys2Proof.Machine.execAdd g x d a b s
  | .sub g x d a b => Sys2Proof.Machine.execSub g x d a b s
  | .addi g x d a imm => Sys2Proof.Machine.execAddi g x d a imm s
  | .addiLong g x d a imm => Sys2Proof.Machine.execAddiLong g x d a imm s
  | .mul g x d a b => Sys2Proof.Machine.execMul g x d a b s
  | .mulh g x u d a b => Sys2Proof.Machine.execMulh g x u d a b s
  | .div g x f d a b => Sys2Proof.Machine.execDiv g x f d a b s
  | .and g x d a b => Sys2Proof.Machine.execAnd g x d a b s
  | .or g x d a b => Sys2Proof.Machine.execOr g x d a b s
  | .xor g x d a b => Sys2Proof.Machine.execXor g x d a b s
  | .andn g x d a b => Sys2Proof.Machine.execAndn g x d a b s
  | .shl g x d a b => Sys2Proof.Machine.execShl g x d a b s
  | .shr g x d a b => Sys2Proof.Machine.execShr g x d a b s
  | .sra g x d a b => Sys2Proof.Machine.execSra g x d a b s
  | .rot g x right d a b => Sys2Proof.Machine.execRot g x right d a b s
  | .min g x u d a b => Sys2Proof.Machine.execMin g x u d a b s
  | .max g x u d a b => Sys2Proof.Machine.execMax g x u d a b s
  | .bit g x f d a => Sys2Proof.Machine.execBit g x f d a s
  | .ext g x d a sx len pos => Sys2Proof.Machine.execExt g x d a sx len pos s
  | .ins g x d a len pos => Sys2Proof.Machine.execIns g x d a len pos s
  | .sel g d a b => Sys2Proof.Machine.execSel g d a b s
  | .mov g d a => Sys2Proof.Machine.execMov g d a s
  | .movi g d imm => Sys2Proof.Machine.execMovi g d imm s
  | .moviLong g t d imm => Sys2Proof.Machine.execMoviLong g t d imm s
  | .moviWide g raw d imm => Sys2Proof.Machine.execMoviWide g raw d imm s
  | .lea g x d imm => Sys2Proof.Machine.execLea g x d imm s
  | .leaLong g x d a imm => Sys2Proof.Machine.execLeaLong g x d a imm s
  | .cmp g x r pd a b => Sys2Proof.Machine.execCmp g x r pd a b s
  | .cmpi g x lt pd a imm => Sys2Proof.Machine.execCmpi g x lt pd a imm s
  | .cmpiLong g x r pd a imm => Sys2Proof.Machine.execCmpiLong g x r pd a imm s
  | .plog g op pd na pa nb pb => Sys2Proof.Machine.execPlog g op pd na pa nb pb s
  | .fop g x f d a b => Sys2Proof.Machine.execFop g x f d a b s
  | .fma g x f d a b => Sys2Proof.Machine.execFma g x f d a b s
  | .fcmp g x r pd a b => Sys2Proof.Machine.execFcmp g x r pd a b s
  | .fcvt g x f d a => Sys2Proof.Machine.execFcvt g x f d a s
  | .rdc g lcyc d => Sys2Proof.Machine.execRdc g lcyc d s
  | .rdw g d level => Sys2Proof.Machine.execRdw g d level s
  | .rds g d num => Sys2Proof.Machine.execRds g d num s
  | .wrs g num a => Sys2Proof.Machine.execWrs g num a s
  | .pbr g b imm => Sys2Proof.Machine.execPbr g b imm s
  | .pbrx g b a => Sys2Proof.Machine.execPbrx g b a s
  | .br g b => Sys2Proof.Machine.execBr g b s
  | .call g b => Sys2Proof.Machine.execCall g b s
  | .ret g b => Sys2Proof.Machine.execRet g b s
  | .brdec g d b => Sys2Proof.Machine.execBrdec g d b s
  | .waitc g a => Sys2Proof.Machine.execWaitc g a s
  | .waitcLong g a imm => Sys2Proof.Machine.execWaitcLong g a imm s
  | .waitn g n => Sys2Proof.Machine.execWaitn g n s
  | .waitnLong g n => Sys2Proof.Machine.execWaitnLong g n s
  | .bar g a level off => Sys2Proof.Machine.execBar g a level off s
  | .chk g a b => Sys2Proof.Machine.execChk g a b s
  | .chkP g pa pb => Sys2Proof.Machine.execChkP g pa pb s
  | .chkV g v => Sys2Proof.Machine.execChkV g v s
  | .chkB g ba bb => Sys2Proof.Machine.execChkB g ba bb s
  | .drain g level n => Sys2Proof.Machine.execDrain g level n s
  | .drainLong g a level off => Sys2Proof.Machine.execDrainLong g a level off s
  | .endTask g => Sys2Proof.Machine.execEndTask g s
  | .trap g n => Sys2Proof.Machine.execTrap g n s
  | .sysc g n => Sys2Proof.Machine.execSysc g n s
  | .align g d => Sys2Proof.Machine.execAlign g d s
  | .frz g d => Sys2Proof.Machine.execFrz g d s
  | .rfz g kill d => Sys2Proof.Machine.execRfz g kill d s
  | .ltf g sp d a off => Sys2Proof.Machine.execLtf g sp d a off s
  | .stf g sp d a off => Sys2Proof.Machine.execStf g sp d a off s
  | .vadd g x v vd va vb => Sys2Proof.Machine.execVadd g x v vd va vb s
  | .vaddLit g x v vd va lit => Sys2Proof.Machine.execVaddLit g x v vd va lit s
  | .vsub g x v vd va vb => Sys2Proof.Machine.execVsub g x v vd va vb s
  | .vsubLit g x v vd va lit => Sys2Proof.Machine.execVsubLit g x v vd va lit s
  | .vmul g x v vd va vb => Sys2Proof.Machine.execVmul g x v vd va vb s
  | .vmulLit g x v vd va lit => Sys2Proof.Machine.execVmulLit g x v vd va lit s
  | .vfma g x v vd va vb => Sys2Proof.Machine.execVfma g x v vd va vb s
  | .vfmaLit g x v vd va lit => Sys2Proof.Machine.execVfmaLit g x v vd va lit s
  | .vfms g x v vd va vb => Sys2Proof.Machine.execVfms g x v vd va vb s
  | .vfmsLit g x v vd va lit => Sys2Proof.Machine.execVfmsLit g x v vd va lit s
  | .vfnm g x v vd va vb => Sys2Proof.Machine.execVfnm g x v vd va vb s
  | .vfnmLit g x v vd va lit => Sys2Proof.Machine.execVfnmLit g x v vd va lit s
  | .vmin g x v vd va vb => Sys2Proof.Machine.execVmin g x v vd va vb s
  | .vminLit g x v vd va lit => Sys2Proof.Machine.execVminLit g x v vd va lit s
  | .vmax g x v vd va vb => Sys2Proof.Machine.execVmax g x v vd va vb s
  | .vmaxLit g x v vd va lit => Sys2Proof.Machine.execVmaxLit g x v vd va lit s
  | .vun g x v f vd va vb => Sys2Proof.Machine.execVun g x v f vd va vb s
  | .vsf g x v f vd va => Sys2Proof.Machine.execVsf g x v f vd va s
  | .vcmp g x v r vd va vb => Sys2Proof.Machine.execVcmp g x v r vd va vb s
  | .vcmpLit g x v r vd va lit => Sys2Proof.Machine.execVcmpLit g x v r vd va lit s
  | .vsel g x r vd va vb vn => Sys2Proof.Machine.execVsel g x r vd va vb vn s
  | .vand g x v vd va vb => Sys2Proof.Machine.execVand g x v vd va vb s
  | .vandLit g x v vd va lit => Sys2Proof.Machine.execVandLit g x v vd va lit s
  | .vor g x v vd va vb => Sys2Proof.Machine.execVor g x v vd va vb s
  | .vorLit g x v vd va lit => Sys2Proof.Machine.execVorLit g x v vd va lit s
  | .vxor g x v vd va vb => Sys2Proof.Machine.execVxor g x v vd va vb s
  | .vxorLit g x v vd va lit => Sys2Proof.Machine.execVxorLit g x v vd va lit s
  | .vandn g x v vd va vb => Sys2Proof.Machine.execVandn g x v vd va vb s
  | .vandnLit g x v vd va lit => Sys2Proof.Machine.execVandnLit g x v vd va lit s
  | .vshl g x v vd va vb => Sys2Proof.Machine.execVshl g x v vd va vb s
  | .vshlLit g x v vd va lit => Sys2Proof.Machine.execVshlLit g x v vd va lit s
  | .vshr g x v f vd va vb => Sys2Proof.Machine.execVshr g x v f vd va vb s
  | .vshrLit g x v f vd va lit => Sys2Proof.Machine.execVshrLit g x v f vd va lit s
  | .viadd g x v sub vd va vb => Sys2Proof.Machine.execViadd g x v sub vd va vb s
  | .viaddLit g x v sub vd va lit => Sys2Proof.Machine.execViaddLit g x v sub vd va lit s
  | .vimul g x v f vd va vb => Sys2Proof.Machine.execVimul g x v f vd va vb s
  | .vimulLit g x v f vd va lit => Sys2Proof.Machine.execVimulLit g x v f vd va lit s
  | .vimm g x v f vd va vb => Sys2Proof.Machine.execVimm g x v f vd va vb s
  | .vimmLit g x v f vd va lit => Sys2Proof.Machine.execVimmLit g x v f vd va lit s
  | .vcvt g x v t p vd va => Sys2Proof.Machine.execVcvt g x v t p vd va s
  | .vqnt g x v t p soff vd va => Sys2Proof.Machine.execVqnt g x v t p soff vd va s
  | .vdq g x v t p soff vd va => Sys2Proof.Machine.execVdq g x v t p soff vd va s
  | .vred g x v op vd va => Sys2Proof.Machine.execVred g x v op vd va s
  | .vscan g x v op ex vd va => Sys2Proof.Machine.execVscan g x v op ex vd va s
  | .vperm g x v wrap vd va vb => Sys2Proof.Machine.execVperm g x v wrap vd va vb s
  | .vshuf g x v f vd va vb => Sys2Proof.Machine.execVshuf g x v f vd va vb s
  | .vbcL g v vd va k => Sys2Proof.Machine.execVbcL g v vd va k s
  | .vbcI g v t vd lit => Sys2Proof.Machine.execVbcI g v t vd lit s
  | .vext g x r d va k => Sys2Proof.Machine.execVext g x r d va k s
  | .vins g x r vd a k => Sys2Proof.Machine.execVins g x r vd a k s
  | .vmov g v vd va => Sys2Proof.Machine.execVmov g v vd va s
  | .viota g v t vd base => Sys2Proof.Machine.execViota g v t vd base s
  | .vcmul g x v conj vd va vb => Sys2Proof.Machine.execVcmul g x v conj vd va vb s
  | .vbfly g x v dif vd va vb => Sys2Proof.Machine.execVbfly g x v dif vd va vb s
  | .vcls g x v cls vd va => Sys2Proof.Machine.execVcls g x v cls vd va s
  | .vtag g v t vd va => Sys2Proof.Machine.execVtag g v t vd va s
  | .vmsk g x r f d va => Sys2Proof.Machine.execVmsk g x r f d va s
  | .mma g z acc nk fa fb => Sys2Proof.Machine.execMma g z acc nk fa fb s
  | .mmas g z acc nk fa fb vsa vsb => Sys2Proof.Machine.execMmas g z acc nk fa fb vsa vsb s
  | .mzero g acc fp row0 nr => Sys2Proof.Machine.execMzero g acc fp row0 nr s
  | .amv g m acc t vd row0 nr => Sys2Proof.Machine.execAmv g m acc t vd row0 nr s
  | .amvt g m acc t vd col0 nc => Sys2Proof.Machine.execAmvt g m acc t vd col0 nc s
  | .ald g acc fp vs row0 nr => Sys2Proof.Machine.execAld g acc fp vs row0 nr s
  | .aadd g acc fp vs row0 nr => Sys2Proof.Machine.execAadd g acc fp vs row0 nr s
  | .ld g r t base v off => Sys2Proof.Machine.execLd g r t base v off s
  | .lds g r t base v off => Sys2Proof.Machine.execLds g r t base v off s
  | .ldt g r t base v stride => Sys2Proof.Machine.execLdt g r t base v stride s
  | .ldg g d a b dl fl sz => Sys2Proof.Machine.execLdg g d a b dl fl sz s
  | .ldw g d a sz off => Sys2Proof.Machine.execLdw g d a sz off s
  | .ldwLong g d a sz off => Sys2Proof.Machine.execLdwLong g d a sz off s
  | .ldws g d a sz off => Sys2Proof.Machine.execLdws g d a sz off s
  | .ldwsLong g d a sz off => Sys2Proof.Machine.execLdwsLong g d a sz off s
  | .ldb g d a sz off => Sys2Proof.Machine.execLdb g d a sz off s
  | .ldbLong g d a sz off => Sys2Proof.Machine.execLdbLong g d a sz off s
  | .recv g v port => Sys2Proof.Machine.execRecv g v port s
  | .st g r base v off => Sys2Proof.Machine.execSt g r base v off s
  | .stt g r t base v off => Sys2Proof.Machine.execStt g r t base v off s
  | .sct g r base v off => Sys2Proof.Machine.execSct g r base v off s
  | .stw g d a sz off => Sys2Proof.Machine.execStw g d a sz off s
  | .stwLong g d a sz off => Sys2Proof.Machine.execStwLong g d a sz off s
  | .send g v dx dy yx => Sys2Proof.Machine.execSend g v dx dy yx s
  | .gst g d a b dl fl sz => Sys2Proof.Machine.execGst g d a b dl fl sz s
  | .amo g f d a b dl fl dbl => Sys2Proof.Machine.execAmo g f d a b dl fl dbl s
  | .amoCas g d a b dl fl dbl cmp => Sys2Proof.Machine.execAmoCas g d a b dl fl dbl cmp s
  | .wake g a b scope rel => Sys2Proof.Machine.execWake g a b scope rel s
  | .cpy g da sa rows side kind => Sys2Proof.Machine.execCpy g da sa rows side kind s
  | .cpz g da rows => Sys2Proof.Machine.execCpz g da rows s
  | .cpt g b sa st rows side kind => Sys2Proof.Machine.execCpt g b sa st rows side kind s
  | .cptFollow g b sa st rows side kind sc f => Sys2Proof.Machine.execCptFollow g b sa st rows side kind sc f s
  | .cpn g dir da sa rows => Sys2Proof.Machine.execCpn g dir da sa rows s
  | .stg g sa sb sc fl dl => Sys2Proof.Machine.execStg g sa sb sc fl dl s
  | .stp g sa sb sc fl dl => Sys2Proof.Machine.execStp g sa sb sc fl dl s
  | .acp g inn i32 acc sa row0 nr => Sys2Proof.Machine.execAcp g inn i32 acc sa row0 nr s
  | .cav g op vd vs scope => Sys2Proof.Machine.execCav g op vd vs scope s
  | .ard g op vd vs scope => Sys2Proof.Machine.execArd g op vd vs scope s
  | .scn g ex op vd vs scope => Sys2Proof.Machine.execScn g ex op vd vs scope s
  | .bcs g vd vs sr scope => Sys2Proof.Machine.execBcs g vd vs sr scope s
  | .crdy g a scope rel => Sys2Proof.Machine.execCrdy g a scope rel s
  | .resultLanding w => Sys2Proof.Machine.execResultLanding w s
  | .waitResume w => Sys2Proof.Machine.execWaitResume w s
  | .barDeadline x y => Sys2Proof.Machine.execBarDeadline x y s
  | .drainDeadline x y => Sys2Proof.Machine.execDrainDeadline x y s
  | .replyDelivery x y => Sys2Proof.Machine.execReplyDelivery x y s
  | .deadlineCheck x y => Sys2Proof.Machine.execDeadlineCheck x y s
  | .fabricHop x y dir => Sys2Proof.Machine.execFabricHop x y dir s
  | .wordArrival x y port => Sys2Proof.Machine.execWordArrival x y port s
  | .burstRowLanding x y => Sys2Proof.Machine.execBurstRowLanding x y s
  | .copyRow x y ch => Sys2Proof.Machine.execCopyRow x y ch s
  | .troughPush x y b => Sys2Proof.Machine.execTroughPush x y b s
  | .troughPop x y => Sys2Proof.Machine.execTroughPop x y s
  | .scaleRead x y => Sys2Proof.Machine.execScaleRead x y s
  | .accRowFinal x y => Sys2Proof.Machine.execAccRowFinal x y s
  | .followOnIssue x y b => Sys2Proof.Machine.execFollowOnIssue x y b s
  | .sweepWord x y => Sys2Proof.Machine.execSweepWord x y s
  | .sweepResult x y => Sys2Proof.Machine.execSweepResult x y s
  | .stagingComplete x y id => Sys2Proof.Machine.execStagingComplete x y id s
  | .sliceAccess x y id => Sys2Proof.Machine.execSliceAccess x y id s
  | .bulkMessage m => Sys2Proof.Machine.execBulkMessage m s
  | .hbmSlot ctl ch => Sys2Proof.Machine.execHbmSlot ctl ch s
  | .flitReceive m f => Sys2Proof.Machine.execFlitReceive m f s
  | .replay m r => Sys2Proof.Machine.execReplay m r s
  | .parityFlit m yard => Sys2Proof.Machine.execParityFlit m yard s
  | .laneSwitch m => Sys2Proof.Machine.execLaneSwitch m s
  | .reservationRelay chiplet => Sys2Proof.Machine.execReservationRelay chiplet s
  | .collectiveDataFrame port f => Sys2Proof.Machine.execCollectiveDataFrame port f s
  | .ackFrame port f => Sys2Proof.Machine.execAckFrame port f s
  | .wakeFrame port f => Sys2Proof.Machine.execWakeFrame port f s
  | .abortFrame port f => Sys2Proof.Machine.execAbortFrame port f s
  | .retransmitTimeout key chunk hop => Sys2Proof.Machine.execRetransmitTimeout key chunk hop s
  | .seqFire key part => Sys2Proof.Machine.execSeqFire key part s
  | .seqEntryEnd key => Sys2Proof.Machine.execSeqEntryEnd key s
  | .bucketDecay => Sys2Proof.Machine.execBucketDecay s
  | .uncorrectableError e => Sys2Proof.Machine.execUncorrectableError e s
  | .alignMarker src dst mark => Sys2Proof.Machine.execAlignMarker src dst mark s
  | .fieldRealigned f => Sys2Proof.Machine.execFieldRealigned f s
  | .powerUpStandby => Sys2Proof.Machine.execPowerUpStandby s
  | .powerOff vin flowOk => Sys2Proof.Machine.execPowerOff vin flowOk s
  | .thermalTrip why => Sys2Proof.Machine.execThermalTrip why s
  | .portReset pin => Sys2Proof.Machine.execPortReset pin s
  | .smbusAccess off => Sys2Proof.Machine.execSmbusAccess off s
  | .entryTake q => Sys2Proof.Machine.execEntryTake q s
  | .dependenceRecheck q => Sys2Proof.Machine.execDependenceRecheck q s
  | .launch q idx => Sys2Proof.Machine.execLaunch q idx s
  | .wait q idx => Sys2Proof.Machine.execWait q idx s
  | .signal q idx => Sys2Proof.Machine.execSignal q idx s
  | .signalWrite q idx => Sys2Proof.Machine.execSignalWrite q idx s
  | .fence q idx => Sys2Proof.Machine.execFence q idx s
  | .receipt q idx => Sys2Proof.Machine.execReceipt q idx s
  | .receiptWrite q idx => Sys2Proof.Machine.execReceiptWrite q idx s
  | .scheduleCommit p => Sys2Proof.Machine.execScheduleCommit p s
  | .launchStart p => Sys2Proof.Machine.execLaunchStart p s
  | .launchRetire p => Sys2Proof.Machine.execLaunchRetire p s
  | .preemptRequest p => Sys2Proof.Machine.execPreemptRequest p s
  | .watchdog p => Sys2Proof.Machine.execWatchdog p s
  | .freezeStop p => Sys2Proof.Machine.execFreezeStop p s
  | .freezeCaptured p => Sys2Proof.Machine.execFreezeCaptured p s
  | .trapRecordWrite p => Sys2Proof.Machine.execTrapRecordWrite p s
  | .resume p => Sys2Proof.Machine.execResume p s
  | .stabling p => Sys2Proof.Machine.execStabling p s
  | .restore p => Sys2Proof.Machine.execRestore p s
  | .pllLockLoss f => Sys2Proof.Machine.execPllLockLoss f s
  | .firmwareContextRestart w pc => Sys2Proof.Machine.execFirmwareContextRestart w pc s
  | .frontEndServiceRequest p => Sys2Proof.Machine.execFrontEndServiceRequest p s
  | .sliceRemap quadrant valid fslc => Sys2Proof.Machine.execSliceRemap quadrant valid fslc s
  | .wakeWrite src q v => Sys2Proof.Machine.execWakeWrite src q v s
  | .pcreate port => Sys2Proof.Machine.execPcreate port s
  | .pdestroy port => Sys2Proof.Machine.execPdestroy port s
  | .passign port => Sys2Proof.Machine.execPassign port s
  | .retire port => Sys2Proof.Machine.execRetire port s
  | .loan port => Sys2Proof.Machine.execLoan port s
  | .mpowerOn port => Sys2Proof.Machine.execMpowerOn port s
  | .mpowerStandby port => Sys2Proof.Machine.execMpowerStandby port s
  | .moduleReady => Sys2Proof.Machine.execModuleReady s
  | .ppowerActive port => Sys2Proof.Machine.execPpowerActive port s
  | .ppowerIdle port => Sys2Proof.Machine.execPpowerIdle port s
  | .ppowerRetain port => Sys2Proof.Machine.execPpowerRetain port s
  | .ppowerDark port => Sys2Proof.Machine.execPpowerDark port s
  | .powerTransitionDone p => Sys2Proof.Machine.execPowerTransitionDone p s
  | .qresume port => Sys2Proof.Machine.execQresume port s
  | .sqown port => Sys2Proof.Machine.execSqown port s
  | .sqownRelease port => Sys2Proof.Machine.execSqownRelease port s
  | .unknownCmdop port op => Sys2Proof.Machine.execUnknownCmdop port op s
  | .ownsemAcquire port => Sys2Proof.Machine.execOwnsemAcquire port s
  | .ownsemRelease port => Sys2Proof.Machine.execOwnsemRelease port s
  | .queueEnable port q => Sys2Proof.Machine.execQueueEnable port q s
  | .queueDisable port q => Sys2Proof.Machine.execQueueDisable port q s
  | .qportChange port q => Sys2Proof.Machine.execQportChange port q s
  | .evtailWrite port v => Sys2Proof.Machine.execEvtailWrite port v s
  | .evovfClear port => Sys2Proof.Machine.execEvovfClear port s
  | .dropcntClear port n => Sys2Proof.Machine.execDropcntClear port n s
  | .tqackWrite port p v => Sys2Proof.Machine.execTqackWrite port p v s
  | .tqlostRead port p => Sys2Proof.Machine.execTqlostRead port p s
  | .mgrpWrite port p v => Sys2Proof.Machine.execMgrpWrite port p v s
  | .hctlMode slice ch mode => Sys2Proof.Machine.execHctlMode slice ch mode s
  | .hctlRepapply slice ch => Sys2Proof.Machine.execHctlRepapply slice ch s
  | .herrClear slice ch => Sys2Proof.Machine.execHerrClear slice ch s
  | .hstatRead slice ch => Sys2Proof.Machine.execHstatRead slice ch s
  | .ucieStatusRead m => Sys2Proof.Machine.execUcieStatusRead m s
  | .susClear x y => Sys2Proof.Machine.execSusClear x y s
  | .registerWrite port off n v => Sys2Proof.Machine.execRegisterWrite port off n v s
  | .bar4Read port addr n => Sys2Proof.Machine.execBar4Read port addr n s
  | .bar4Write port rid addr data => Sys2Proof.Machine.execBar4Write port rid addr data s
  | .seqHostFire port addr => Sys2Proof.Machine.execSeqHostFire port addr s
  | .slotTableWrite slice ch table => Sys2Proof.Machine.execSlotTableWrite slice ch table s

end Sys2Proof.Machine
end

