-- ==== Sys2Proof/Machine/Schedule.lean ====
section
/-! DEFINITION. Which action comes next (R4, R13, R263, R268 to R273, R278, R361): what is due in the present cycle, phase by
phase, the issue of a bundle, and the turn of the cycle. -/

namespace Sys2Proof.Machine

/-- What a step does: an event that is due, an entry of the agenda, a slot of a bundle that is being issued, the fetch of a
bundle, or, with nothing due, the turn of the cycle. -/
inductive Act where
  | event (i : Instr)
  | entry (n : Nat) (i : Instr)
  | slot (w : Who) (sl : Slot) (i : Instr)
  | fetch (w : Who)
  | tick
  deriving DecidableEq, Repr

/-! ## The agenda -/

/-- The entries of a list with their places. -/
def numbered (n : Nat) : List (Nat × Instr) → List (Nat × Nat × Instr)
  | [] => []
  | e :: es => (n, e) :: numbered (n + 1) es
/-- R13, R80: the decay of the buckets closes its cycle. -/
def isDecay : Instr → Bool
  | .bucketDecay => true
  | _ => false
/-- R129, R150: the partition for which an action ends its cycle: its scheduler, what a captured freeze brings, its stabling
or restore, a resume that turns into a discard. -/
def State.closes (s : State) : Instr → Option Nat
  | .scheduleCommit p | .freezeCaptured p | .stabling p | .restore p => some p
  | .resume p =>
    match s.part p with
    | some q => match q.freeze with
      | some z => if z.captured && z.outcome != .stable && (z.killed || z.discardReq) then some p else none
      | none => none
    | none => none
  | _ => none
/-- The entries of the agenda that are due. -/
def State.dueEntries (s : State) : List (Nat × Nat × Instr) := (numbered 0 s.agenda).filter fun e => e.2.1 ≤ s.gcyc
/-- R89: the port of a write of OWNSEM. -/
def semPort : Instr → Option Nat
  | .ownsemAcquire p | .ownsemRelease p => some p
  | .registerWrite p off _ _ => if off = 0x10 then some p else none
  | _ => none
/-- R89: where a write of OWNSEM is next, that of port 0 goes first. -/
def semFirst (e : Nat × Nat × Instr) (es : List (Nat × Nat × Instr)) : Nat × Nat × Instr :=
  if (semPort e.2.2).isSome then (es.find? fun x => semPort x.2.2 == some 0).getD e else e
/-- The next entry of the agenda that is due and does not close its cycle. -/
def State.dueEntry (s : State) : Option Act :=
  match s.dueEntries.filter fun e => (s.closes e.2.2).isNone && !isDecay e.2.2 with
  | [] => none
  | e :: es => let b := semFirst e (e :: es); some (.entry b.1 b.2.2)

/-! ## Issue (R272, R273, R278) -/

/-- The place after the bundle that has been issued: the branch target, else the next 64 bytes; the cycle after the one
it takes, or the one until which it holds issue. -/
def Ctx.endBundle (c : Ctx) (now : Nat) : Ctx :=
  { c with
    pc := (c.target.getD (c.bundle + 64)), target := none, mask := 0
    next := match c.hold with
      | some h => h.until_
      | none => now + 1 }
/-- A stream has a slot to perform, or a bundle to fetch, at a cycle. -/
def Ctx.nextAct (c : Ctx) (w : Who) (go : Bool) (now : Nat) : Option Act :=
  match c.todo with
  | (sl, i) :: _ => some (.slot w sl i)
  | [] => if go && c.hold.isNone && c.next ≤ now then some (.fetch w) else none
/-- R279: the Y mark of a bundle's header word. -/
def headerY (h : W32) : Bool := h.getLsbD 16
/-- The task of a tile issues. -/
def Tile.issues (t : Tile) : Bool := t.st == .running
/-- R278, R121: a bundle address lies in the code region of the launch (DEDUCED, log 27). -/
def Bank.inCode (b : Bank) (pc : Nat) : Bool := b.ioff ≤ pc && pc < b.ioff + 64 * b.nbun
/-- The 64 bytes of a bundle of a stream: of a task from its tile's SRAM, of a firmware context, which reaches SRAM by LTF and
STF alone (R271), or a front-end core from the firmware image (PRESUMED, log 9). -/
def State.bundleBytes (s : State) (w : Who) (pc : Nat) : List Byte :=
  match w with
  | .task x y => Memory.reads (s.tile (tileKey x y)).sram pc 64
  | .fw _ _ => Memory.reads s.image pc 64
  | .core _ _ => Memory.reads s.image pc 64
/-- R272: a tile's task issues a bundle with the Y mark in this cycle. -/
def State.yDue (s : State) (k l : Nat) : Bool :=
  let c := (s.tile k).task
  c.hold.isNone && c.todo.isEmpty && c.next ≤ l && (s.bankOf k).inCode c.pc &&
    (Dec.bundle .task (Dec.bundleWords (s.bundleBytes (.task (k % 256) (k / 256)) c.pc))).y
/-- R272: the firmware context of a tile may issue in this cycle. It issues before the task does, so that it reads what stood
before the cycle (R13) (DEDUCED, log 25). -/
def State.fwMay (s : State) (k l : Nat) : Bool :=
  match (s.tile k).st with
  | .idle | .frozen | .stabled => true
  | .loaded | .ended => false
  | .running => s.yDue k l
/-- Which decode rules a stream's bundles follow (R271, R325) (PRESUMED, log 9). -/
def streamOf : Who → Dec.Stream
  | .task _ _ => .task
  | .fw _ _ => .fw
  | .core _ _ => .core
/-- A bundle that decode stops: its fault is taken, the faults of its other slots are listed, and it performs nothing
(R284, R277) (DEDUCED, log 27). -/
def State.decodeTrap (s : State) (w : Who) (f : Dec.DecFault) (more : List Dec.DecFault) : State :=
  match w with
  | .task x y =>
    let k := tileKey x y
    let c := s.ctxAt w
    let s := s.raiseTask k f.cause f.sub f.slot c.bundle 0 false
    more.foldl (fun s d => s.modTile k fun t => t.listFault ⟨d.cause, d.sub, d.slot, c.bundle, s.lcycOf k⟩) s
  | .fw _ _ => s.stopCtx w f.cause f.sub
  | .core _ _ => s.stopCtx w f.cause f.sub
/-- The bundle of a stream over: its next address and cycle (DEDUCED, log 27). -/
def State.endBundle (s : State) (w : Who) : State := s.setCtxAt w ((s.ctxAt w).endBundle (s.nowAt w))
/-- R275: a task bundle that has been issued joins the last 4,096 (DEDUCED, log 25). -/
def State.markY (s : State) (w : Who) (y : Bool) : State :=
  match w with
  | .task a b => s.modTile (tileKey a b) fun t => { t with yhist := (t.yhist <<< 1) ||| (if y then 1 else 0) }
  | .fw _ _ => s
  | .core _ _ => s
/-- R278, R283, R284: the bundle due is fetched and decoded. Its slots are then to be performed, and the tile detects what the
reads of its registers correct (R80); none are of one that decode stops, or whose address lies outside the code region
(PRESUMED, log 9; DEDUCED, log 27). -/
def State.issueBundle (s : State) (w : Who) : State :=
  let c := s.ctxAt w
  let pc := c.pc
  let s := s.setCtxAt w { c with bundle := pc, mask := 0, target := none, todo := [], faulted := false }
  let outside := match w with
    | .task x y => !(s.bankOf (tileKey x y)).inCode pc
    | .fw _ _ => false
    | .core _ _ => false
  if outside then (s.decodeTrap w ⟨7, 1, 0xFF⟩ []).endBundle w
  else
    let b := Dec.bundle (streamOf w) (Dec.bundleWords (s.bundleBytes w pc))
    let s := s.markY w b.y
    match b.trap with
    | some f => (s.decodeTrap w f b.deferred).endBundle w
    | none =>
      let s := s.setCtxAt w { s.ctxAt w with todo := b.slots }
      if b.slots.isEmpty then s.endBundle w else s.detectAt w
/-- The first slot of the bundle being issued taken up: it is the one that `exec` performs next. -/
def State.takeSlot (s : State) (w : Who) (sl : Slot) : State :=
  let c := s.ctxAt w
  { s.setCtxAt w { c with todo := c.todo.tail } with cur := ⟨w, Dec.slotNum sl⟩ }
/-- After a slot: with none left the bundle is over. -/
def State.afterSlot (s : State) (w : Who) : State := if (s.ctxAt w).todo.isEmpty then s.endBundle w else s

/-! ## What is due in a partition -/

/-- An event of the tile at a key. -/
def eventAt (k : Nat) (i : Nat → Nat → Instr) : Option Act := some (.event (i (k % 256) (k / 256)))
/-- An event of a tile that is due if a test holds. -/
def dueIf (b : Bool) (k : Nat) (i : Nat → Nat → Instr) : Option Act := if b then eventAt k i else none
/-- R9, R199: an operation whose deadline has come, or that goes before such a one, acts now. -/
def State.forcedAct (s : State) (k : Nat) (t : Tile) (l : Nat) : Option Act :=
  (s.forced k t l).map fun e =>
    .event ((if e.2.staged then Instr.stagingComplete else Instr.sliceAccess) (e.1 % 256) (e.1 / 256) e.2.id)
/-- R316 to R319: the hold of a task ends. -/
def Tile.holdEnds (t : Tile) (k l : Nat) : Option Act :=
  match t.task.hold with
  | none => none
  | some h =>
    if h.until_ ≤ l && t.st == .running then
      match h.kind with
      | .wait => some (.event (.waitResume (.task (k % 256) (k / 256))))
      | .bar _ _ => eventAt k .barDeadline
      | .drain _ _ => eventAt k .drainDeadline
    else none
/-- A word of a sweep is due at a tile (R223). -/
def Tile.sweepWordDue (t : Tile) (l : Nat) : Bool :=
  match t.sw with
  | some c => match c.what with
    | .sweep m => m.waits.any fun w => w.due ≤ l
    | .cpy .. | .cpz _ | .cpt .. | .cpn .. | .acpOut .. | .acpIn .. => false
  | none => false
/-- The result of a sweep is due at a tile (R223). -/
def Tile.sweepResultDue (t : Tile) (l : Nat) : Bool :=
  match t.sw with
  | some c => match c.what with
    | .sweep _ => c.landed = 0 && c.busy ≤ l
    | .cpy .. | .cpz _ | .cpt .. | .cpn .. | .acpOut .. | .acpIn .. => false
  | none => false
/-- R269: what lands first at a tile of the results of its task, its replies and the result of its sweep: that of the bundle
issued first, of one bundle that of the lowest slot, and before a scalar of VEXT or VMSK one of the SC slot (R327); the writes of special registers go before them. -/
def Tile.landNext (t : Tile) (k l : Nat) : Option Act :=
  let early := t.task.latches.filter fun m => !m.atEnd && m.due ≤ l
  let land := eventAt k fun x y => .resultLanding (.task x y)
  if early.any fun m => m.kind == .special then land
  else
    let key (c slot : Nat) : Nat := 8 * c + slot
    let latch : List (Nat × Option Act) := ((firstLatch early).map fun m => (key m.issued m.slot, land)).toList
    let reply : List (Nat × Option Act) := ((t.dueReply l).map fun o => (key o.issued o.slot, eventAt k .replyDelivery)).toList
    let sweep : List (Nat × Option Act) := (t.sw.map fun c => (key c.c 6, dueIf (t.sweepResultDue l) k .sweepResult)).toList
    (leastBy (·.1) ((latch ++ reply ++ sweep).filter fun e => e.2.isSome)).bind (·.2)
/-- A pending follow-on of a channel is due (R365). -/
def followDue (c : Option ChCmd) (l : Nat) : Bool :=
  match c with
  | some c => match c.follow with
    | some f => f.due ≤ l
    | none => false
  | none => false
/-- A channel's copy command has an action due. -/
def chanDue (f : ChCmd → Nat → Bool) (c : Option ChCmd) (l : Nat) : Bool :=
  match c with
  | some c => f c l
  | none => false
/-- The first of a tile's channels with an action due. -/
def Tile.copyDue (t : Tile) (k : Nat) (f : ChCmd → Nat → Bool) (l : Nat) : Option Act :=
  if chanDue f t.ta l then eventAt k fun x y => .copyRow x y 0
  else if chanDue f t.tb l then eventAt k fun x y => .copyRow x y 1
  else if chanDue f t.g l then eventAt k fun x y => .copyRow x y 2
  else none
/-- The first of several searches that finds something. -/
def firstDue (fs : List (Unit → Option Act)) : Option Act := fs.findSome? fun f => f ()

/-- The start of a cycle: words, results, finals, holds, then reads, then pushes. -/
def State.dueEarly (_s : State) (p : Nat) (q : Part) (ts : List (Nat × Tile)) (l : Nat) : Option Act :=
  let each (f : Nat → Tile → Option Act) (_ : Unit) : Option Act := ts.findSome? fun e => f e.1 e.2
  firstDue [fun _ => if q.barFire.any (· ≤ l) then some (.event (.seqFire barKey p)) else none,
    each fun k t => dueIf (t.sweepWordDue l) k .sweepWord,
    each fun k t => t.landNext k l,
    fun _ => (q.arrivals.find? fun a => a.burst.isNone && a.due ≤ l).map fun a => .event (.wordArrival a.x a.y a.port),
    fun _ => (q.links.find? fun w => w.enter ≤ l).map fun w => .event (.fabricHop w.x w.y w.dir),
    each fun k t => dueIf (t.finals.any (fun e => e.due ≤ l) || t.mx.any (·.rowDue l)) k .accRowFinal,
    each fun k t => dueIf (followDue t.ta l) k fun x y => .followOnIssue x y false,
    each fun k t => dueIf (followDue t.tb l) k fun x y => .followOnIssue x y true,
    each fun k t => t.holdEnds k l,
    each fun k t => dueIf (t.st == .ended && !(t.dueChecks l).isEmpty) k .deadlineCheck,
    each fun k t => t.copyDue k ChCmd.readDue l,
    each fun k t => dueIf (t.task.latches.any (·.readDue l)) k fun x y => .resultLanding (.task x y),
    each fun k t => dueIf (t.mx.any (·.popDue l)) k .troughPop,
    each fun k t => dueIf (chanDue ChCmd.pushDue t.ta l) k fun x y => .troughPush x y false,
    each fun k t => dueIf (chanDue ChCmd.pushDue t.tb l) k fun x y => .troughPush x y true]
/-- Issue, then the scale reads of the engines. -/
def dueIssue (ts : List (Nat × Tile)) (l : Nat) : Option Act :=
  (ts.findSome? fun e => e.2.task.nextAct (.task (e.1 % 256) (e.1 / 256)) e.2.issues l).or
    (ts.findSome? fun e => dueIf (e.2.mx.any (·.scaleDue l)) e.1 .scaleRead)
/-- The end of a cycle: writes, copy rows, then rows of neighbours' bursts. -/
def dueLate (q : Part) (ts : List (Nat × Tile)) (l : Nat) : Option Act :=
  (ts.findSome? fun e =>
    dueIf (e.2.task.latches.any fun m => m.atEnd && m.due ≤ l) e.1 fun x y => .resultLanding (.task x y)).or
    ((ts.findSome? fun e => e.2.copyDue e.1 ChCmd.writeDue l).or
      ((q.arrivals.find? fun a => a.burst.isSome && a.due ≤ l).map fun a => .event (.burstRowLanding a.x a.y)))
/-- An attempt has started on the partition. -/
def Part.started (q : Part) (gcyc : Nat) : Bool :=
  q.runs && (match q.run with
    | some l => l.s.any (· ≤ gcyc)
    | none => false)
/-- R163: an attempt runs on the partition, and it is not stopped. -/
def Part.moves (q : Part) (gcyc : Nat) : Bool :=
  q.started gcyc && (match q.freeze with
    | some z => !z.stopped
    | none => true)
/-- R163: the partition comes to F. -/
def Part.stopsNow (q : Part) (l : Nat) : Bool :=
  match q.freeze with
  | some z => z.f ≤ l
  | none => false
/-- The partitions that move, with what a search finds in one. -/
def State.inParts (s : State) (f : Nat → Part → Nat → Option Act) : Option Act :=
  s.parts.findSome? fun e =>
    match e.2 with
    | some q => if q.moves s.gcyc then f e.1 q (s.gcyc - q.lbase) else none
    | none => none
/-- R163, R9: the forced operations of every attempt, those of a stopped one too: the memory side goes on. -/
def State.dueForced (s : State) : Option Act :=
  s.parts.findSome? fun e =>
    match e.2 with
    | some q =>
      if q.started s.gcyc then (s.tilesOf e.1).findSome? fun t => s.forcedAct t.1 t.2 (s.gcyc - q.lbase) else none
    | none => none
/-- R65, R66: the slot of a channel that starts at this cycle and has something to do; idle and refresh slots change
nothing. -/
def State.dueSlot (s : State) : Option Act :=
  if s.power == .on && s.gcyc % 12 = 0 then
    s.chans.findSome? fun e =>
      let c := e.2
      let slice := e.1 / 16
      let w := c.slotAt s.gcyc
      let used : Bool := match (w.extractLsb' 14 2).toNat with
        | 1 => (s.slotServes (w.extractLsb' 0 9).toNat slice (e.1 % 16) (w.getLsbD 13)).isSome
        | 3 => true
        | _ => false
      if used && c.lastSlot != some s.gcyc then some (.event (.hbmSlot (s.controllerOf slice) (e.1 % 16))) else none
  else none

/-! ## Firmware contexts and cores (R271, R272, R325) -/

/-- A result of a firmware context or core is due. -/
def Ctx.dueResult (c : Ctx) (w : Who) (g : Nat) : Option Act :=
  if c.latches.any fun m => !m.atEnd && m.due ≤ g then some (.event (.resultLanding w)) else none
/-- A read of one is due. -/
def Ctx.dueRead (c : Ctx) (w : Who) (g : Nat) : Option Act :=
  if c.latches.any (·.readDue g) then some (.event (.resultLanding w)) else none
/-- What one does next: its hold ends, or it issues. -/
def Ctx.due (c : Ctx) (w : Who) (go : Bool) (g : Nat) : Option Act :=
  match c.hold with
  | some h => if h.until_ ≤ g then some (.event (.waitResume w)) else c.nextAct w false g
  | none => c.nextAct w (go && c.on) g
/-- What is due in one at the end of the cycle. -/
def Ctx.dueEnd (c : Ctx) (w : Who) (g : Nat) : Option Act :=
  if c.latches.any fun m => m.atEnd && m.due ≤ g then some (.event (.resultLanding w)) else none
/-- R34, R325: the front-end cores run in ON, those of Y0, which alone is powered in STANDBY, in STANDBY too. -/
def State.corePowered (s : State) (core : Nat) : Bool := s.power == .on || (s.power == .standby && core / 4 = 0)
/-- The firmware contexts and the cores searched; a firmware context runs in ON alone (R34). -/
def State.inFirmware (s : State) (f : Ctx → Who → Bool → Option Act) : Option Act :=
  (s.tiles.findSome? fun e =>
    f e.2.fw (.fw (e.1 % 256) (e.1 / 256)) (s.power == .on && e.2.fw.on && s.fwMay e.1 (s.lcycOf e.1))).or
    (s.cores.findSome? fun e => f e.2 (.core (e.1 / 4) (e.1 % 4)) (s.corePowered e.1))

/-! ## The next action -/

/-- The partition of least id whose cycle is to be closed: by an entry of the agenda, or by the retirement of its launch
(R123, R129, R150) (DEDUCED, log 26). -/
def State.dueClosing (s : State) : Option Act :=
  let entries := s.dueEntries.filterMap fun e => (s.closes e.2.2).map fun p => (p, Act.entry e.1 e.2.2)
  let retire := s.parts.filterMap fun e =>
    if (match e.2 with
      | some q => q.moves s.gcyc
      | none => false) && s.retires e.1 then some (e.1, Act.event (.launchRetire e.1))
    else none
  (leastBy (·.1) (entries ++ retire)).map (·.2)
/-- The decay of the buckets, if it is due. -/
def State.dueDecay (s : State) : Option Act := (s.dueEntries.find? fun e => isDecay e.2.2).map fun e => .entry e.1 e.2.2
/-- What the machine does next: the agenda, the memory side, the partitions up to their issue, the firmware contexts and the
cores, which so read what stood before the tasks' bundles of the cycle (R13), the tasks, the end of the cycle, what closes it,
and then the turn of the cycle (DEDUCED, log 26). -/
def State.nextAct (s : State) : Act :=
  (firstDue [fun _ => s.dueEntry,
    fun _ => s.inParts fun p q l => if q.stopsNow l then some (.event (.freezeStop p)) else none,
    fun _ => s.inFirmware fun c w _ => c.dueResult w s.gcyc,
    fun _ => s.dueSlot,
    fun _ => s.dueForced,
    fun _ => s.inParts fun p q l => s.dueEarly p q (s.tilesOf p) l,
    fun _ => s.inFirmware fun c w _ => c.dueRead w s.gcyc,
    fun _ => s.inFirmware fun c w go => c.due w go s.gcyc,
    fun _ => s.inParts fun p _ l => dueIssue (s.tilesOf p) l,
    fun _ => s.inParts fun p q l => dueLate q (s.tilesOf p) l,
    fun _ => s.inFirmware fun c w _ => c.dueEnd w s.gcyc,
    fun _ => s.dueClosing,
    fun _ => s.dueDecay]).getD .tick

/-! ## The turn of the cycle -/

/-- The machine with an action on the agenda after some free number of cycles, unless it is there already. -/
def State.plan (s : State) (i : Instr) : State := if s.agenda.any fun e => e.2 == i then s else s.soon i
/-- R99, R115, R116, R148: what the front end of a queue has to do. -/
def State.queueWork (s : State) (j : Nat) : List Instr :=
  let d := s.queue j
  let take : List Instr := if d.looks then [.entryTake j] else []
  let start : List Instr := match d.head with
    | some r =>
      let i := r.idx.toNat
      if d.starts i then
        match r.kind with
        | 2 => [.wait j i]
        | 3 => [.signal j i]
        | 4 => [.fence j i]
        | 5 => [.receipt j i]
        | _ => []
      else if r.kind = 4 && r.started && d.first i then [.fence j i]
      else []
    | none => []
  let go : List Instr := d.recs.filterMap fun r =>
    let i := r.idx.toNat
    if !r.started || r.done then none
    else if r.kind = 3 && d.first i then some (.signalWrite j i)
    else if r.kind = 5 && d.recs.any (fun l => l.idx.toNat == recF r.bytes 152 4 && l.kind == 1 && l.done) then some (.receiptWrite j i)
    else none
  take ++ start ++ go
/-- R150, R151, R178: what the scheduler of a partition has to do. -/
def State.partWork (s : State) (p : Nat) : List Instr :=
  (if s.scheduleDue p then [.scheduleCommit p] else []) ++ (if s.restoreDue p then [.restore p] else [])
/-- The work of the front ends of a module that is ON. -/
def State.frontWork (s : State) : List Instr :=
  if s.power == .on then (skeys s.queues).flatMap s.queueWork ++ s.partIds.flatMap s.partWork else []
/-- R115: the queues whose event words are to be read again at a cycle. -/
def State.rechecks (s : State) (g : Nat) : List Instr :=
  ((skeys s.queues).filter fun j => (s.queue j).recs.any fun r => r.awaitsEvent && r.recheck ≤ g).map fun j => .dependenceRecheck j
/-- R85, R87, R34: in ON, the markers of a round that reach the fields that are realigning, 2 cycles after they were sent: the count of
a field in step or realigning, of another whatever it counts, a free value (DESIGN CHOICE, log 18). -/
def State.markers (s : State) : List Instr :=
  ((List.range 48).filter fun f => s.power == .on && (s.field f).realigning).flatMap fun f =>
    (neighbours f).map fun n =>
      let z := s.field n
      .alignMarker n f (.value (if z.inStep || z.realigning then BitVec.ofNat 16 (s.gcyc - 2)
        else (Config.freeValue (s.freeCtr + n)).setWidth 16))
/-- R80: the decay of the buckets. -/
def State.decays (s : State) : List Instr := if s.gcyc % 2 ^ 24 = 0 then [.bucketDecay] else []
/-- The turn of the cycle: what the front ends have to do goes on the agenda, GCYC counts, and what the new cycle brings of
itself goes on the agenda. -/
def State.tick (s : State) : State :=
  let s := (s.frontWork.foldl State.plan s).settleErrors false
  let s := { s with gcyc := s.gcyc + 1 }
  let s := (s.decays ++ s.rechecks s.gcyc).foldl (fun s i => s.at_ s.gcyc i) s
  if s.gcyc % 4096 = 2 then s.markers.foldl (fun s i => s.at_ s.gcyc i) { s with freeCtr := s.freeCtr + 48 } else s

/-! ## Placing one instruction (log 10) -/

/-- The bundle that holds the words of an instruction alone, in the first slot whose decoder takes it. -/
def fetchBundle (nbits w : Nat) : List Byte :=
  let ws := Dec.tableWords nbits w
  let sl := match Dec.placeWords ws Dec.tryOrder with
    | some q => q.1
    | none => .sc
  (Dec.oneSlotBundle sl ws).flatMap Dec.wordBytes
/-- The launch header that stands for the load of one bundle at SRAM address 0. -/
def fetchBank : Bank :=
  { Bank.zero with tree := [⟨1, .lane, .killParent, 0⟩], wids := [(0, 0)], nbun := 1, foot := 1536, rows := 512, codeLen := 128 }
/-- The launch of that header, started at the present cycle. -/
def fetchLaunch (g : Nat) : Launch := ⟨0, 0, 0, 0, 0, fetchBank, some g, 1, [], [], 0, true, 0, 0, [], [], some g⟩
/-- A partition of one pen at the north-west corner of the wafer that runs it. -/
def fetchPart (g : Nat) (gen : Byte) : Part :=
  { newPart 0 0 1 1 false gen 0 with power := .active, lbase := g, bank := fetchBank, run := some (fetchLaunch g) }
/-- Tile (0, 0), running at the bundle. -/
def fetchTile (t : Tile) (gen : Byte) (nbits w : Nat) : Tile :=
  { t.idled with
    part := some 0, mapped := true, st := .running, task := { t.task with pc := 0, next := 0, hold := none, todo := [], latches := [], gen := gen }
    sram := Memory.write t.sram 0 (fetchBundle nbits w) }

end Sys2Proof.Machine
end

