-- ==== Sys2Proof/Machine/Step.lean ====
section
/-! DEFINITION. One step of the machine: the next action, whole and indivisible. -/

namespace Sys2Proof.Machine

/-- The next slot of the stream whose bundle has been fetched, performed; the bundle ends with its last slot. -/
def stepSlot (s : State) (w : Who) (sl : Slot) (i : Instr) : Host.Outcome State Fault Refusal :=
  match exec i (s.takeSlot w sl) with
  | .next t => .next (t.afterSlot w)
  | .fault f => .fault f
  | .refused r => .refused r

/-- A bundle fetched, and its first slot performed; a bundle that decode stops, or that has no slot, performs none. -/
def stepFetch (s : State) (w : Who) : Host.Outcome State Fault Refusal :=
  let t := s.issueBundle w
  match (t.ctxAt w).todo with
  | [] => .next t
  | (sl, i) :: _ => stepSlot t w sl i

/-- One step: what `State.nextAct` says is next. -/
def step (s : State) : Host.Outcome State Fault Refusal :=
  match s.nextAct with
  | .event i => exec i s
  | .entry n i => exec i { s with agenda := s.agenda.eraseIdx n }
  | .slot w sl i => stepSlot s w sl i
  | .fetch w => stepFetch s w
  | .tick => .next s.tick

/-- The machine with one instruction loaded as the program of a partition that runs now, so that the next step fetches and
runs it (log 10). -/
def State.withFetchWord (s : State) (nbits w : Nat) : State :=
  { s with
    power := .on, agenda := [], cores := []
    parts := [(0, some (fetchPart s.gcyc s.wgen))]
    tiles := [(0, fetchTile (s.tile 0) s.wgen nbits w)] }

end Sys2Proof.Machine
end

