-- ==== Sys2Proof/Safety.lean ====
section
/-! DEFINITION. What counts as a safe state and a kept state, and the short names in which statements are made. -/

namespace Sys2Proof.Machine

/-! ## Operands as statements name them -/

/-- R266, R262: the slot acts: its guard is true, or poisoned. -/
def Acts (s : State) (g : Guard) : Prop :=
  (s.ctx.readP g.p.toNat).v ≠ g.n ∨ (s.ctx.readP g.p.toNat).poi = true
/-- The poison of a guard (R262). -/
def gpoi (s : State) (g : Guard) : Bool := (s.ctx.readP g.p.toNat).poi
/-- A scalar operand of the slot being performed. -/
def sreg (s : State) (a : R5) : Scalar := s.ctx.readS a.toNat
/-- A predicate operand. -/
def preg (s : State) (a : P4) : Pred := s.ctx.readP a.toNat
/-- A branch target operand. -/
def breg (s : State) (b : B3) : Btgt := s.ctx.readB b.toNat
/-- A row operand. -/
def rreg (s : State) (r : R9) : RowReg := (s.tile s.myKey).readV r.toNat
/-- R259: a scalar that an integer instruction accepts. -/
def IntReg (s : State) (a : R5) : Prop := (sreg s a).fmt = .raw ∨ (sreg s a).fmt = .i32
/-- R259, R260: the scalars an integer instruction reads: each of an accepted format or of the XTAG's, and not all read
under the XTAG alone. -/
def IntRead (s : State) (x : Option Fmt) (rs : List R5) : Prop :=
  (∃ a ∈ rs, IntReg s a) ∧ ∀ a ∈ rs, IntReg s a ∨ x = some (sreg s a).fmt
/-- R259, R260: a scalar that a float instruction reads: FP32, or of the XTAG's format. -/
def FpRead (s : State) (x : Prefix) (a : R5) : Prop := (sreg s a).fmt = .fp32 ∨ Dec.xOf x = some (sreg s a).fmt
/-- The slot belongs to the firmware context of a tile (R271). -/
def InFirmware (s : State) (x y : Nat) : Prop := s.cur.who = .fw x y
/-- The slot belongs to the task of a tile. -/
def InTask (s : State) (x y : Nat) : Prop := s.cur.who = .task x y

/-- The guard of a slot instruction. -/
def guardOf : Instr → Option Guard
  | .nop g | .add g .. | .sub g .. | .addi g .. | .addiLong g .. | .mul g .. | .mulh g .. | .div g .. | .and g ..
  | .or g .. | .xor g .. | .andn g .. | .shl g .. | .shr g .. | .sra g .. | .rot g .. | .min g .. | .max g ..
  | .bit g .. | .ext g .. | .ins g .. | .sel g .. | .mov g .. | .movi g .. | .moviLong g .. | .moviWide g ..
  | .lea g .. | .leaLong g .. | .cmp g .. | .cmpi g .. | .cmpiLong g .. | .plog g .. | .fop g .. | .fma g ..
  | .fcmp g .. | .fcvt g .. | .rdc g .. | .rdw g .. | .rds g .. | .wrs g .. | .pbr g .. | .pbrx g .. | .br g ..
  | .call g .. | .ret g .. | .brdec g .. | .waitc g .. | .waitcLong g .. | .waitn g .. | .waitnLong g .. | .bar g ..
  | .chk g .. | .chkP g .. | .chkV g .. | .chkB g .. | .drain g .. | .drainLong g .. | .endTask g .. | .trap g ..
  | .sysc g .. | .align g .. | .frz g .. | .rfz g .. | .ltf g .. | .stf g .. | .vadd g .. | .vaddLit g ..
  | .vsub g .. | .vsubLit g .. | .vmul g .. | .vmulLit g .. | .vfma g .. | .vfmaLit g .. | .vfms g .. | .vfmsLit g ..
  | .vfnm g .. | .vfnmLit g .. | .vmin g .. | .vminLit g .. | .vmax g .. | .vmaxLit g .. | .vun g .. | .vsf g ..
  | .vcmp g .. | .vcmpLit g .. | .vsel g .. | .vand g .. | .vandLit g .. | .vor g .. | .vorLit g .. | .vxor g ..
  | .vxorLit g .. | .vandn g .. | .vandnLit g .. | .vshl g .. | .vshlLit g .. | .vshr g .. | .vshrLit g ..
  | .viadd g .. | .viaddLit g .. | .vimul g .. | .vimulLit g .. | .vimm g .. | .vimmLit g .. | .vcvt g ..
  | .vqnt g .. | .vdq g .. | .vred g .. | .vscan g .. | .vperm g .. | .vshuf g .. | .vbcL g .. | .vbcI g ..
  | .vext g .. | .vins g .. | .vmov g .. | .viota g .. | .vcmul g .. | .vbfly g .. | .vcls g .. | .vtag g ..
  | .vmsk g .. | .mma g .. | .mmas g .. | .mzero g .. | .amv g .. | .amvt g .. | .ald g .. | .aadd g .. | .ld g ..
  | .lds g .. | .ldt g .. | .ldg g .. | .ldw g .. | .ldwLong g .. | .ldws g .. | .ldwsLong g .. | .ldb g ..
  | .ldbLong g .. | .recv g .. | .st g .. | .stt g .. | .sct g .. | .stw g .. | .stwLong g .. | .send g ..
  | .gst g .. | .amo g .. | .amoCas g .. | .wake g .. | .cpy g .. | .cpz g .. | .cpt g .. | .cptFollow g ..
  | .cpn g .. | .stg g .. | .stp g .. | .acp g .. | .cav g .. | .ard g .. | .scn g .. | .bcs g .. | .crdy g .. => some g
  | _ => none

/-! ## What stays -/

/-- The registers of a stream: scalars, predicates, branch targets, FSTAT and the trap registers. -/
def SameRegs (c d : Ctx) : Prop :=
  d.s = c.s ∧ d.p = c.p ∧ d.b = c.b ∧ d.fstat = c.fstat ∧ d.trapc = c.trapc ∧ d.trapb = c.trapb ∧ d.trapm = c.trapm ∧
    d.trapt = c.trapt

/-- The storage of a tile: rows, accumulators, troughs, arrival registers, SRAM with its poison, WID, the firmware's
registers and the health record. -/
def SameStore (t u : Tile) : Prop :=
  u.rows = t.rows ∧ u.acc = t.acc ∧ u.trA = t.trA ∧ u.trB = t.trB ∧ u.arrN = t.arrN ∧ u.arrE = t.arrE ∧ u.arrS = t.arrS ∧
    u.arrW = t.arrW ∧ u.sram = t.sram ∧ u.spoi = t.spoi ∧ u.wid = t.wid ∧ u.fwRegs = t.fwRegs ∧ u.health = t.health

/-- Memory outside the tiles, and the registers of the module. -/
def SameModule (s t : State) : Prop :=
  t.dev = s.dev ∧ t.devPoi = s.devPoi ∧ t.host = s.host ∧ t.seqEntries = s.seqEntries ∧ t.queues = s.queues ∧
    t.ports = s.ports ∧ t.chans = s.chans ∧ t.power = s.power ∧ t.gcyc = s.gcyc ∧ t.fields = s.fields

/-- Everything a program can read stays: of every stream the registers, of every tile the storage, memory and the
registers of the module. In flight things (latches, holds, transfers) are not named here. -/
def Kept (s t : State) : Prop :=
  (∀ w, SameRegs (s.ctxAt w) (t.ctxAt w)) ∧ (∀ k, SameStore (s.tile k) (t.tile k)) ∧ SameModule s t

/-- The stochastic states of every tile stay (R245). -/
def SeedsKept (s t : State) : Prop := ∀ k, (t.tile k).la = (s.tile k).la ∧ (t.tile k).lb = (s.tile k).lb

/-- R129, R130, R151, R171, R123: a launch of a partition has ended with a receipt status, an error code if not 0, and a charge:
its record is done and carries the status, the queue has the code and has paid, and nothing of it is left on the tiles. -/
def LaunchEnded (s t : State) (p : Nat) (q : Part) (l : Launch) (status code charge : Nat) : Prop :=
  ((s.queue l.q).epoch = l.epoch → ∀ r ∈ (t.queue l.q).recs, r.idx = l.idx →
    r.done = true ∧ (r.rcpt.extractLsb' 8 8).toNat = status) ∧
  (code ≠ 0 → (t.queue l.q).err = BitVec.ofNat 8 code) ∧
  (t.queue l.q).def_ = (s.queue l.q).def_ - charge ∧
  (∃ u, t.part p = some u ∧ u.run = none ∧ (s.trip = false → u.freeze = none) ∧ u.links = [] ∧ u.arrivals = []) ∧
  ∀ k ∈ q.tileKeys, t.tile k = { (s.tile k).idled with st := q.restState true k }

/-! ## The host's commands (R89, R93) -/

/-- R93: a command port that answers and has no command under way. -/
def CmdReady (s : State) (port : Nat) : Prop :=
  port < 2 ∧ s.answers port = true ∧ ((s.port port).cmdstat.extractLsb' 0 2).toNat ≠ 1
/-- R93: what CMDSTAT of a port says: state 1 busy, 2 done, 3 refused, with a reason; LATE stays. -/
def CmdStat (s t : State) (port state reason : Nat) : Prop :=
  (t.port port).cmdstat = ((s.port port).cmdstat &&& 0x10000) ||| BitVec.ofNat 64 (state + 256 * reason)
/-- R93: the first row of conditions that holds, counted from 1, is row r. -/
def FirstBad (bad : List Prop) (r : Nat) : Prop :=
  ∃ n P, r = n + 1 ∧ bad[n]? = some P ∧ P ∧ ∀ m Q, m < n → bad[m]? = some Q → ¬ Q

/-! ## Safe states -/

/-- The memories keep their one canonical form: addresses strictly rising, no entry that equals what an unlisted address
reads as. -/
def Canonical (s : State) : Prop := Memory.wf s.dev = true ∧ Memory.wf s.host = true ∧ Memory.wf s.image = true

/-- The SRAM of every tile keeps its one canonical form, and so does that of the tiles of a stabled launch. -/
def SramCanonical (s : State) : Prop :=
  (∀ k, Memory.wf (s.tile k).sram = true) ∧
    ∀ p q z, s.part p = some q → q.stab = some z → ∀ e ∈ z.tiles, Memory.wf e.2.sram = true

end Sys2Proof.Machine
end

