-- ==== Sys2Proof/Certificates/Slice0/Obligations.lean ====
section
/-! DEFINITION. The statements for the provers. -/

open Sys2Proof Sys2Proof.Machine

/-- R278 to R295, R365, R373, R385, R388: words that the spec writes out, and what they are: one family after another, then the
bundles of its worked program, the second of which stops with 0x05, subcode 1. -/
def Obligations.DecodeSamples : Prop :=
  let g : Guard := ⟨0, false⟩
  let full : VCtl := ⟨⟨.w1024, 0⟩, .none⟩
  let half (p : BitVec 2) : VCtl := ⟨⟨.w512, p⟩, .none⟩
  let rz : Mod := ⟨false, .fmt, .rtz⟩
  (∀ e ∈ ([(.sc, none, 0x01008430, 0, 0, .add g none 2 2 3), (.sc, none, 0x0300C601, 0, 0, .addi g none 3 3 1),
      (.sc, none, 0x43024000, 0x1000, 0, .addiLong g none 9 0 4096), (.sc, none, 0x1600C004, 0, 0, .movi g 3 4),
      (.sc, some 0xC000000A, 0x1B01CA50, 0, 0, .fop g (.mod ⟨false, .fmt, .rup⟩) .fadd 7 5 5),
      (.sy, none, 0x01010002, 0, 0, .pbr g 1 2), (.sy, none, 0x0600C200, 0, 0, .brdec g 3 1),
      (.sy, none, 0x47000000, 12, 0, .waitcLong g 0 12), (.sy, none, 0x0C000000, 0, 0, .endTask g)] :
      List (Slot × Option W32 × W32 × W32 × W32 × Instr)),
    Dec.slotInstr .task e.1 e.2.1 e.2.2.1 e.2.2.2.1 e.2.2.2.2.1 = .ok e.2.2.2.2.2) ∧
  (∀ e ∈ ([(.va, none, 0x9D040800, 0x04000004, 0x3FC00000, .vbcI g full .fp32 8 0x3FC00000),
      (.vb, none, 0x60028000, 0x06820000, 0, .vmov g (half 1) 13 8),
      (.va, some 0xC0000009, 0x44020000, 0x04040300, 0, .vfma g (.mod rz) (half 0) 8 16 24),
      (.va, none, 0x57020000, 0x0A040007, 0, .vqnt g .none (half 0) .e4m3 0 0 20 16),
      (.mx, some 0xC0000009, 0x44000050, 0x0A000030, 0, .amv g (some rz) 0 .bf16 20 0 3),
      (.ld, none, 0x41042100, 0x14000080, 0, .ld g ⟨.w1024, 0⟩ .fp32 4 40 0x80),
      (.ld, none, 0x0800C8C1, 0, 0, .ldb g 3 4 .d 1), (.ld, none, 0x05018A83, 0, 0, .ldw g 6 5 .w 3),
      (.ld, none, 0x47005700, 0, 0, .recv g 21 .w)] : List (Slot × Option W32 × W32 × W32 × W32 × Instr)),
    Dec.slotInstr .task e.1 e.2.1 e.2.2.1 e.2.2.2.1 e.2.2.2.2.1 = .ok e.2.2.2.2.2) ∧
  (∀ e ∈ ([(.st, none, 0x440140C0, 0x8000, 0, .stwLong g 5 0 .d 0x8000),
      (.st, none, 0x45005000, 0x00800000, 0, .send g 20 1 0 false),
      (.st, none, 0x4600C800, 0x01900503, 0, .gst g 3 4 0 400 ⟨1, false, true⟩ .d),
      (.st, none, 0x8701D09A, 0x02580002, 0, .amoCas g 7 8 9 600 ⟨0, false, false⟩ false 0),
      (.cp, none, 0x47003000, 0x0440000A, 0, .cav g .maxi 12 10 1),
      (.cp, none, 0x42008A00, 0x003F0001, 0, .cpt g true 2 5 63 false .lin),
      (.cp, none, 0x82010A60, 0x003F0000, 0x4200017A,
        .cptFollow g false 4 5 63 false .lin 6 ⟨g, true, 0, 1, .e4m3, .d2⟩)] :
      List (Slot × Option W32 × W32 × W32 × W32 × Instr)),
    Dec.slotInstr .task e.1 e.2.1 e.2.2.1 e.2.2.2.1 e.2.2.2.2.1 = .ok e.2.2.2.2.2) ∧
  Dec.bundle .task ([0xA00004A3, 0xC000000A, 0x1B01CA50, 0x9D040800, 0x04000004, 0x3FC00000, 0x440140C0, 0x8000, 0x01010002] ++
      List.replicate 7 0) = ⟨false, false, false, [(.sc, .fop g (.mod ⟨false, .fmt, .rup⟩) .fadd 7 5 5),
    (.va, .vbcI g full .fp32 8 0x3FC00000), (.st, .stwLong g 5 0 .d 0x8000), (.sy, .pbr g 1 2)], none, []⟩ ∧
  Dec.bundle .task [0xA00000FF, 0x43024000, 0x1000, 0x60020000, 0x06020000, 0x60028000, 0x06820000, 0xC0000009, 0x44000050,
      0x0A000030, 0x450180C0, 0x8000, 0x4401C0C0, 0x8008, 0, 0xC4000004] =
    ⟨false, false, false, [], some ⟨5, 1, 0xFF⟩, []⟩

/-- R278 to R295: an instruction alone in its slot, encoded with its prefix, decodes to itself, with every operand. A
vector instruction does so in VA and in VB, and NOP in every slot. -/
def Obligations.EncodeDecode : Prop :=
  ∀ (i : Instr) (sl : Slot), i.wf = true →
    (i.slot = some sl ∨ (i.slot = some .va ∧ sl = .vb) ∨ ∃ g, i = .nop g) →
    let p : W32 := 1#32 <<< Dec.slotNum sl
    let m : W32 := if i.words.length = 3 then 1#32 <<< (Dec.slotNum sl + 9) else 0#32
    let w : List W32 := (0xA0000000#32 ||| p ||| m) :: encode i
    Dec.bundle .task (w ++ List.replicate (16 - w.length) 0#32) = ⟨false, false, false, [(sl, i)], none, []⟩

/-- R4, R263, R272, R273, R278, R284: a step fetches the bundle at the program counter of the stream whose turn it is, and
performs the first slot it decodes, or performs the next slot of the bundle being issued, or an event; after the last
slot the stream goes on at its branch target, else at the next 64 bytes, in the next cycle or where its hold ends. What one
step is (a row of the table, the first slot with the fetch, an entry of the agenda, a turn of the cycle) is the model's
choice (DESIGN CHOICE, notes 1 and 2); where a firmware context or a core fetches from is PRESUMED (note 9). -/
def Obligations.StepRunsDecoded : Prop :=
  ∀ (s : State) (w : Who) (sl : Slot) (i : Instr) (rest : List (Slot × Instr)) (n : Nat),
    let c := s.ctxAt w
    let beyond (t : State) : State :=
      let d := t.ctxAt w
      if d.todo = [] then t.setCtxAt w { d with
        pc := d.target.getD (d.bundle + 64), target := none, mask := 0
        next := match d.hold with
          | some h => h.until_
          | none => t.nowAt w + 1 }
      else t
    let runs (u : State) : Prop := step s = match exec i u with
      | .next t => .next (beyond t)
      | .fault f => .fault f
      | .refused r => .refused r
    (s.nextAct = .fetch w → (∀ x y, w = .task x y → (s.bankOf (tileKey x y)).inCode c.pc = true) →
      (∃ y b t, Dec.bundle (streamOf w) (Dec.bundleWords (s.bundleBytes w c.pc)) = ⟨y, b, t, (sl, i) :: rest, none, []⟩) →
      ∃ u, runs u ∧ u.cur = ⟨w, Dec.slotNum sl⟩ ∧
        u.ctxAt w = { c with bundle := c.pc, mask := 0, target := none, todo := rest, faulted := false } ∧ u.parts = s.parts ∧
        u.agenda = s.agenda ∧ SameModule s u ∧ ∀ k, SameStore (s.tile k) (u.tile k)) ∧
    (s.nextAct = .slot w sl i → runs { s.setCtxAt w { c with todo := c.todo.tail } with cur := ⟨w, Dec.slotNum sl⟩ }) ∧
    (s.nextAct = .event i → step s = exec i s) ∧
    (s.nextAct = .entry n i → step s = exec i { s with agenda := s.agenda.eraseIdx n }) ∧
    (s.nextAct = .tick → ∃ t, step s = .next t ∧ t.gcyc = s.gcyc + 1 ∧ t.parts = s.parts ∧ t.dev = s.dev ∧
      ((∀ k, (s.tile k).errs = 0) → s.sliceErrs = [] → t.tiles = s.tiles ∧ t.host = s.host))

/-- R266: where the guard stands in the first word of a slot. -/
def Stated.GuardBits : Prop := ∀ w : W32, Dec.guardOf w = ⟨w.extractLsb' 20 4, w.getLsbD 19⟩

/-- R266, R304: a slot under a false, clean guard does nothing at all, whatever its operands; only SEL reads its guard as an
operand. -/
def Stated.FalseGuardsSkip : Prop :=
  ∀ (i : Instr) (s : State) (g : Guard), guardOf i = some g → (∀ g d a b, i ≠ .sel g d a b) →
    (preg s g.p).v = g.n → (preg s g.p).poi = false → exec i s = .next s

/-- R304: SEL reads its guard as a selector, whatever its value, and is never skipped. -/
def Stated.SelectNeverSkipped : Prop :=
  ∀ (s : State) (g : Guard) (d a b : R5),
    let p := preg s g.p
    let v := sreg s (if p.v ≠ g.n then a else b)
    exec (.sel g d a b) s = .next (s.pushS d v.fmt (v.poi || p.poi) 1 v.v 0).performed

/-- R161, R277, R278, R283, R284: a bundle that decode stops, or whose address lies outside the code region, performs nothing:
the task takes its trap, its fault is listed (DEDUCED, note 30), and the following bundle is due a cycle later (DEDUCED,
note 27). -/
def Stated.BadBundlesTrap : Prop :=
  ∀ (s : State) (x y p : Nat) (q : Part) (f : Dec.DecFault),
    let k := tileKey x y
    let w := Who.task x y
    let c := s.ctxAt w
    let l := s.gcyc - q.lbase
    let b := Dec.bundle .task (Dec.bundleWords (s.bundleBytes w c.pc))
    s.nextAct = .fetch w → (s.tile k).part = some p → s.part p = some q → q.freeze = none → (s.tile k).voided = false →
    (s.tile k).raise = none → (s.tile k).deferred = [] →
    (((s.bankOf k).inCode c.pc = false ∧ f = ⟨7, 1, 0xFF⟩) ∨ ((s.bankOf k).inCode c.pc = true ∧ b.trap = some f)) →
    ∃ t u, step s = .next t ∧ t.part p = some u ∧ u.freeze = some { Freeze.announce l (l + q.dist) f.cause f.sub false with by_ := some k } ∧
      (t.tile k).raise = some ⟨f.cause, f.sub, f.slot, c.pc, 0, false⟩ ∧
      ((t.tile k).deferred.head? = some ⟨f.cause, f.sub, f.slot, c.pc, l⟩) ∧ (t.ctxAt w).todo = [] ∧
      (t.ctxAt w).pc = c.pc + 64 ∧ (c.hold = none → (t.ctxAt w).next = l + 1) ∧ SameStore (s.tile k) (t.tile k)

/-- (1) R266: where the guard stands in the first word of a slot. (2) R266, R304: a slot under a false, clean guard
does nothing at all, whatever its operands; only SEL reads its guard as an operand. (3) R304: SEL reads its guard as a
selector, whatever its value, and is never skipped. (4) R161, R277, R278, R283, R284: a bundle that decode stops, or
whose address lies outside the code region, performs nothing: the task takes its trap, its fault is listed (DEDUCED,
note 30), and the following bundle is due a cycle later (DEDUCED, note 27). Where the spec leaves a reading open this
takes the model's own: notes/assumptions 9, 26, 27, 31, 32, 38. -/
def Obligations.GuardRule : Prop :=
  Stated.GuardBits ∧ Stated.FalseGuardsSkip ∧ Stated.SelectNeverSkipped ∧ Stated.BadBundlesTrap

/-- R42, R107, R257, R258, R300: the machine after reset is OFF and supplied with nothing; every stream reads 0, clean, in every
register, p0 true, and no memory holds anything. The value of a register or of memory for which no rule states one is
the model's choice (notes 3 and 4).
Where the spec leaves a reading open this takes the model's own: notes/assumptions 2. -/
def Obligations.ResetState : Prop :=
  let s := State.reset
  s.power = .off ∧ s.vin = false ∧ s.parts = [] ∧ s.queues = [] ∧ s.ownsem = 0 ∧ s.gcyc = 0 ∧ s.agenda = [] ∧
  (∀ w r, (s.ctxAt w).readS r = Scalar.zero ∧ (s.ctxAt w).readP r = ⟨r = 0, false⟩ ∧ (s.ctxAt w).readB r = Btgt.zero) ∧
  (∀ k r, (s.tile k).readV r = RowReg.zero ∧ (s.tile k).st = .idle ∧ (s.tile k).accAt r = AccTile.zero) ∧
  (∀ k, (s.tile k).la = 1 ∧ (s.tile k).lb = 2) ∧
  (∀ a, Memory.read s.dev a = 0 ∧ Memory.read s.host a = 0 ∧ ∀ k, Memory.read (s.tile k).sram a = 0)

/-- The device, host and image memories are in their canonical form, the model's own representation, at reset. -/
def Obligations.ResetCanonical : Prop := Canonical State.reset ∧ SramCanonical State.reset

/-- R10, R202: every step keeps the device, host and image memories in their canonical form, so that equal memories are equal
data. The form is the model's own representation of a memory. -/
def Obligations.StepsKeepCanonical : Prop :=
  ∀ s t : State, Canonical s → step s = .next t → Canonical t

/-- R36, R225: every instruction and every event has a next state in every state, but for the four events that reach device
memory: each has one too, unless the place it reaches is one that holds no memory, where it stops (DEDUCED, note 22). -/
def Obligations.OnlyAbsentMemoryStops : Prop :=
  ∀ (i : Instr) (s : State),
    let absent : Prop := match i with
      | .bar4Read port a n => ∃ r pa, s.bar4At port a.toNat n = some (r, pa) ∧ present pa n = false
      | .bar4Write port _ a bs => ∃ r pa, s.bar4At port a.toNat bs.length = some (r, pa) ∧ present pa bs.length = false
      | .sliceAccess x y id | .stagingComplete x y id =>
        ∃ o, s.openOp (tileKey x y) id = some o ∧ present o.pa o.len = false
      | _ => False
    (∃ t, exec i s = .next t) ∨ (absent ∧ exec i s = .fault .physicalAddressAbsent)

/-- R268, R270: the frame of a slot of a task at its issue: no register of any stream, no row, accumulator row, trough,
byte of SRAM or of memory and no register of the module changes: results are only put in flight. The format of an
accumulator tile changes with the MX commands and ACP, and RECV empties an arrival register.
Where the spec leaves a reading open this takes the model's own: notes/assumptions 41. -/
def Obligations.IssueChangesNoRegister : Prop :=
  ∀ (i : Instr) (s t : State) (x y : Nat), i.slot.isSome → InTask s x y → exec i s = .next t →
    let hide (u : Tile) : Tile := { u with acc := [], arrN := none, arrE := none, arrS := none, arrW := none }
    (∀ w, SameRegs (s.ctxAt w) (t.ctxAt w)) ∧ SameModule s t ∧
    (∀ k, SameStore (hide (s.tile k)) (hide (t.tile k)) ∧
      ∀ a r, ((t.tile k).accAt a).row r = ((s.tile k).accAt a).row r ∧ ((t.tile k).accAt a).wm = ((s.tile k).accAt a).wm) ∧
    (i.slot ≠ some .mx → (∀ g inn i32 acc sa row0 nr, i ≠ .acp g inn i32 acc sa row0 nr) →
      ∀ k, (t.tile k).acc = (s.tile k).acc) ∧
    ((∀ g v port, i ≠ .recv g v port) → ∀ k, (t.tile k).arrN = (s.tile k).arrN ∧ (t.tile k).arrE = (s.tile k).arrE ∧
      (t.tile k).arrS = (s.tile k).arrS ∧ (t.tile k).arrW = (s.tile k).arrW) ∧
    ∀ k, k ≠ tileKey x y → t.tile k = s.tile k

/-- R302, R304: two-operand and immediate arithmetic of scalars: RAW and I32 in, an I32 result, wrapping, in place after
1 or 3 cycles. -/
def Stated.ScalarArithmetic : Prop :=
  ∀ (s : State) (g : Guard) (x : Option Fmt) (d a b : R5) (i9 : BitVec 9) (i32 : W32),
    Acts s g →
    let va := (sreg s a).v
    let vb := (sreg s b).v
    let p1 := gpoi s g || (sreg s a).poi
    let p2 := p1 || (sreg s b).poi
    let k := vb.toNat % 64
    (IntRead s x [a, b] → ∀ e ∈ ([(.add g x d a b, 1, BitVec.ofNat 64 (va.toNat + vb.toNat)),
        (.sub g x d a b, 1, BitVec.ofInt 64 (va.toInt - vb.toInt)),
        (.mul g x d a b, 3, BitVec.ofNat 64 (va.toNat * vb.toNat)),
        (.mulh g x true d a b, 3, BitVec.ofNat 64 (va.toNat * vb.toNat / 2 ^ 64)),
        (.mulh g x false d a b, 3, BitVec.ofInt 64 (va.toInt * vb.toInt / 2 ^ 64)),
        (.shl g x d a b, 1, BitVec.ofNat 64 (va.toNat * 2 ^ k)),
        (.shr g x d a b, 1, BitVec.ofNat 64 (va.toNat / 2 ^ k)),
        (.sra g x d a b, 1, BitVec.ofInt 64 (va.toInt / 2 ^ k)),
        (.rot g x false d a b, 1, BitVec.ofNat 64 (va.toNat * 2 ^ k + va.toNat / 2 ^ (64 - k))),
        (.rot g x true d a b, 1, BitVec.ofNat 64 (va.toNat / 2 ^ k + va.toNat * 2 ^ (64 - k))),
        (.min g x false d a b, 1, BitVec.ofInt 64 (Min.min va.toInt vb.toInt)),
        (.min g x true d a b, 1, BitVec.ofNat 64 (Min.min va.toNat vb.toNat)),
        (.max g x false d a b, 1, BitVec.ofInt 64 (Max.max va.toInt vb.toInt)),
        (.max g x true d a b, 1, BitVec.ofNat 64 (Max.max va.toNat vb.toNat))] : List (Instr × Nat × W64)),
      exec e.1 s = .next (s.pushS d .i32 p2 e.2.1 e.2.2 0).performed) ∧
    (IntRead s x [a] → ∀ e ∈ ([(.addi g x d a i9, BitVec.ofInt 64 (va.toInt + i9.toInt)),
        (.addiLong g x d a i32, BitVec.ofInt 64 (va.toInt + i32.toInt))] : List (Instr × W64)),
      exec e.1 s = .next (s.pushS d .i32 p1 1 e.2 0).performed)

/-- R303: DIV on every pair of values; division by zero gives all ones and the dividend, and the one overflow wraps. -/
def Stated.ScalarDivision : Prop :=
  ∀ (s : State) (g : Guard) (x : Option Fmt) (d a b : R5), Acts s g → IntRead s x [a, b] →
    let va := (sreg s a).v
    let vb := (sreg s b).v
    let p := gpoi s g || (sreg s a).poi || (sreg s b).poi
    ∀ e ∈ ([(.div g x .q d a b, if vb = 0 then BitVec.allOnes 64 else BitVec.ofInt 64 (va.toInt.tdiv vb.toInt)),
        (.div g x .qu d a b, if vb = 0 then BitVec.allOnes 64 else BitVec.ofNat 64 (va.toNat / vb.toNat)),
        (.div g x .r d a b, if vb = 0 then va else BitVec.ofInt 64 (va.toInt.tmod vb.toInt)),
        (.div g x .ru d a b, if vb = 0 then va else BitVec.ofNat 64 (va.toNat % vb.toNat))] : List (Instr × W64)),
      exec e.1 s = .next (s.pushS d .i32 p 18 e.2 0).performed

/-- (1) R302, R304: two-operand and immediate arithmetic of scalars: RAW and I32 in, an I32 result, wrapping, in place
after 1 or 3 cycles. (2) R303: DIV on every pair of values; division by zero gives all ones and the dividend, and the
one overflow wraps. Where the spec leaves a reading open this takes the model's own: notes/assumptions 38. -/
def Obligations.ScalarIntegers : Prop :=
  Stated.ScalarArithmetic ∧ Stated.ScalarDivision

/-- R302, R305: bit counts, reversal, and fields extracted and inserted. -/
def Stated.ScalarBitsAndFields : Prop :=
  ∀ (s : State) (g : Guard) (x : Option Fmt) (d a : R5) (len pos : BitVec 6),
    Acts s g → fieldLegal len pos = true →
    let va := (sreg s a).v
    let vd := (sreg s d).v
    let p := gpoi s g || (sreg s a).poi
    let w := len.toNat + 1
    let f := va.toNat / 2 ^ pos.toNat % 2 ^ w
    let ones (i : Nat) : Bool := va.getLsbD i
    (IntRead s x [a] → ∀ e ∈ ([(.bit g x .popc d a, ((List.range 64).filter ones).length),
        (.bit g x .ctz d a, ((List.range 64).takeWhile fun i => !ones i).length),
        (.bit g x .clz d a, ((List.range 64).takeWhile fun i => !ones (63 - i)).length),
        (.ext g x d a false len pos, f),
        (.ext g x d a true len pos, (if f < 2 ^ len.toNat then f else 2 ^ 64 + f - 2 ^ w))] : List (Instr × Nat)),
      exec e.1 s = .next (s.pushS d .i32 p 1 (BitVec.ofNat 64 e.2) 0).performed) ∧
    (IntRead s x [a] → ∃ v, exec (.bit g x .brev d a) s = .next (s.pushS d .i32 p 1 v 0).performed ∧
      ∀ i < 64, v.getLsbD i = ones (63 - i)) ∧
    (IntRead s x [a, d] → ∃ v, exec (.ins g x d a len pos) s = .next (s.pushS d .i32 (p || (sreg s d).poi) 1 v 0).performed ∧
      ∀ i < 64, v.getLsbD i =
        if pos.toNat ≤ i ∧ i < pos.toNat + w then ones (i - pos.toNat) else vd.getLsbD i)

/-- R302, R259: the bitwise instructions of scalars: equal formats keep their format, RAW takes the other's. -/
def Stated.ScalarBitwise : Prop :=
  ∀ (s : State) (g : Guard) (x : Option Fmt) (d a b : R5) (f : Fmt), Acts s g →
    let va := sreg s a
    let vb := sreg s b
    let p := gpoi s g || va.poi || vb.poi
    let fa := if x = some va.fmt ∧ x ≠ some vb.fmt then vb.fmt else va.fmt
    let fb := if x = some vb.fmt then va.fmt else vb.fmt
    ((fa = f ∧ (fb = f ∨ fb = .raw)) ∨ (fa = .raw ∧ fb = f)) →
    ∃ v : Fin 4 → W64,
      exec (.and g x d a b) s = .next (s.pushS d f p 1 (v 0) 0).performed ∧
      exec (.or g x d a b) s = .next (s.pushS d f p 1 (v 1) 0).performed ∧
      exec (.xor g x d a b) s = .next (s.pushS d f p 1 (v 2) 0).performed ∧
      exec (.andn g x d a b) s = .next (s.pushS d f p 1 (v 3) 0).performed ∧
      ∀ i < 64, (v 0).getLsbD i = (va.v.getLsbD i && vb.v.getLsbD i) ∧
        (v 1).getLsbD i = (va.v.getLsbD i || vb.v.getLsbD i) ∧
        (v 2).getLsbD i = (va.v.getLsbD i != vb.v.getLsbD i) ∧
        (v 3).getLsbD i = (va.v.getLsbD i && !vb.v.getLsbD i)

/-- (1) R302, R305: bit counts, reversal, and fields extracted and inserted. (2) R302, R259: the bitwise instructions
of scalars: equal formats keep their format, RAW takes the other's. Where the spec leaves a reading open this takes
the model's own: notes/assumptions 38. -/
def Obligations.ScalarBits : Prop :=
  Stated.ScalarBitsAndFields ∧ Stated.ScalarBitwise

/-- R291, R304: NOP, and the moves with their tags. -/
def Stated.ScalarMoves : Prop :=
  ∀ (s : State) (g : Guard) (x : Option Fmt) (d a : R5) (i9 : BitVec 9) (i32 : W32) (i64 : W64), Acts s g →
    let gp := gpoi s g
    let at_ : Int := s.ctx.bundle
    exec (.nop g) s = .next s.performed ∧
    exec (.mov g d a) s = .next (s.pushS d (sreg s a).fmt (gp || (sreg s a).poi) 1 (sreg s a).v 0).performed ∧
    ∀ e ∈ ([(.movi g d i9, .i32, BitVec.ofInt 64 i9.toInt),
        (.moviLong g .i32 d i32, .i32, BitVec.ofInt 64 i32.toInt),
        (.moviLong g .raw d i32, .raw, BitVec.ofInt 64 i32.toInt),
        (.moviLong g .fp32 d i32, .fp32, BitVec.ofNat 64 i32.toNat),
        (.moviWide g false d i64, .i32, i64), (.moviWide g true d i64, .raw, i64),
        (.lea g x d i9, .i32, BitVec.ofInt 64 (at_ + 64 * i9.toInt)),
        (.leaLong g x d a i32, .i32, BitVec.ofInt 64 (at_ + 64 * i32.toInt))] : List (Instr × Fmt × W64)),
      exec e.1 s = .next (s.pushS d e.2.1 gp 1 e.2.2 0).performed

/-- R311, R275, R276: RDC, RDW and RDS of a task give an I32, clean result at c + 1: of every number that a task may read,
the value that the table gives it; RDS of a number of the firmware's traps 0x0F, subcode 1. WRS writes FSTAT, SEEDA and SEEDB,
from a poisoned source or under a poisoned guard nothing, and traps 0x0F, subcode 1, for every other listed number and for
0x100 to 0x1FF; decode gives the words of an unlisted number 0x06, subcode 2. -/
def Stated.SpecialRegisters : Prop :=
  ∀ (s : State) (g : Guard) (x y : Nat) (d a : R5) (level : BitVec 6) (num : W32), Acts s g → InTask s x y →
    let k := tileKey x y
    let t := s.tile k
    let gives (i : Instr) (v : W64) : Prop := exec i s = .next (s.pushS d .i32 false 1 v 0).performed
    let n (v : Nat) : W64 := BitVec.ofNat 64 v
    let listed : List Nat := [0x000, 0x001, 0x002, 0x010, 0x011, 0x020, 0x021, 0x030, 0x031, 0x032, 0x040, 0x041, 0x042,
      0x050, 0x051, 0x052, 0x053, 0x054, 0x055, 0x056, 0x057, 0x060, 0x070, 0x071, 0x072, 0x073, 0x080, 0x100, 0x101, 0x102]
    gives (.rdc g false d) (n s.gcyc) ∧ gives (.rdc g true d) (n (s.lcycSeen k)) ∧
    (s.lbaseShift k = 0 → s.lcycSeen k = s.lcycOf k) ∧
    gives (.rdw g d level) (n (coordAt (s.bankOf k).tree t.wid level.toNat)) ∧
    (∀ e ∈ ([(0x000, n s.gcyc), (0x001, n (s.lcycSeen k)), (0x002, n (s.lbaseOf k) + s.lbaseShift k), (0x010, t.wid),
        (0x011, n (s.bankOf k).tree.length), (0x020, n (x % 256 + 2 ^ 8 * (y % 256) + 2 ^ 16 * s.wgen.toNat)),
        (0x030, t.task.fstat.setWidth 64), (0x031, t.la.setWidth 64), (0x032, t.lb.setWidth 64), (0x040, n (t.pend (s.lcycOf k))),
        (0x041, (t.tsm (s.lcycOf k)).setWidth 64), (0x042, (t.tsm (s.lcycOf k) >>> 64).setWidth 64),
        (0x060, n (s.bankOf k).rows), (0x070, t.task.trapc), (0x071, t.task.trapb &&& 0x1FFFFF), (0x072, t.task.trapm &&& 0xFF),
        (0x073, t.task.trapt)] : List (Nat × W64)), gives (.rds g d (BitVec.ofNat 32 e.1)) e.2) ∧
    (∀ i < 8, gives (.rds g d (BitVec.ofNat 32 (0x050 + i))) (n (t.accAt i).wm)) ∧
    (∀ p q, t.part = some p → s.part p = some q →
      gives (.rds g d 0x021) (n (p + 2 ^ 16 * q.px0 + 2 ^ 24 * q.py0 + 2 ^ 32 * q.w + 2 ^ 40 * q.h))) ∧
    ((∀ e ∈ t.fwRegs, e.1 ≠ 0x080) → gives (.rds g d 0x080) (n (s.bankOf k).yshare)) ∧
    (0x100 ≤ num.toNat → num.toNat < 0x200 →
      exec (.rds g d num) s = .next ((s.raise 0x0F 1 s.cur.slot).poisonDests [⟨.scalar, d.toNat, .i32, 1⟩])) ∧
    (IntReg s a →
      (∀ m ∈ ([0x030, 0x031, 0x032] : List W32),
        exec (.wrs g m a) s = .next (if gpoi s g || (sreg s a).poi then s else s.pushSpecial m.toNat (sreg s a).v).performed) ∧
      (num.toNat ∈ listed ∨ (0x100 ≤ num.toNat ∧ num.toNat < 0x200) →
        num.toNat ≠ 0x030 → num.toNat ≠ 0x031 → num.toNat ≠ 0x032 →
        exec (.wrs g num a) s = .next (s.raise 0x0F 1 s.cur.slot))) ∧
    (num.toNat ∉ listed → ∀ i ∈ ([.rds g d num, .wrs g num a] : List Instr),
      Dec.slotInstr .task .sc none (i.words.getD 0 0) (i.words.getD 1 0) 0 = .error 2)

/-- (1) R291, R304: NOP, and the moves with their tags. (2) R311, R275, R276: RDC, RDW and RDS of a task give an I32,
clean result at c + 1: of every number that a task may read, the value that the table gives it; RDS of a number of the
firmware's traps 0x0F, subcode 1. WRS writes FSTAT, SEEDA and SEEDB, from a poisoned source or under a poisoned guard
nothing, and traps 0x0F, subcode 1, for every other listed number and for 0x100 to 0x1FF; decode gives the words of an
unlisted number 0x06, subcode 2. Where the spec leaves a reading open this takes the model's own: notes/assumptions
31, 32, 33, 38, 41, 57. -/
def Obligations.ScalarMovesAndSpecials : Prop :=
  Stated.ScalarMoves ∧ Stated.SpecialRegisters

/-- R306, R307: compares and predicate logic. -/
def Stated.ScalarCompares : Prop :=
  ∀ (s : State) (g : Guard) (x : Option Fmt) (pd pa pb : P4) (a b : R5) (i9 : BitVec 9) (i32 : W32) (na nb : Bool),
    Acts s g →
    let va := (sreg s a).v
    let holds (r : Rel) (v w : W64) : Bool := match r with
      | .eq => decide (v.toNat = w.toNat)
      | .ne => decide (v.toNat ≠ w.toNat)
      | .lt => decide (v.toInt < w.toInt)
      | .ge => decide (w.toInt ≤ v.toInt)
      | .le => decide (v.toInt ≤ w.toInt)
      | .gt => decide (w.toInt < v.toInt)
      | .ltu => decide (v.toNat < w.toNat)
      | .geu => decide (w.toNat ≤ v.toNat)
      | .leu => decide (v.toNat ≤ w.toNat)
      | .gtu => decide (w.toNat < v.toNat)
      | .tst => (List.range 64).any fun i => v.getLsbD i && w.getLsbD i
      | .tstz => (List.range 64).all fun i => !(v.getLsbD i && w.getLsbD i)
    let p1 := gpoi s g || (sreg s a).poi
    let ca := (preg s pa).v != na
    let cb := (preg s pb).v != nb
    (∀ r, (IntRead s x [a, b] → exec (.cmp g x r pd a b) s =
        .next (s.pushP pd (p1 || (sreg s b).poi) 1 (holds r va (sreg s b).v) 0).performed) ∧
      (IntRead s x [a] → exec (.cmpiLong g x r pd a i32) s = .next (s.pushP pd p1 1 (holds r va (BitVec.ofInt 64 i32.toInt)) 0).performed)) ∧
    (∀ lt : Bool, IntRead s x [a] → exec (.cmpi g x lt pd a i9) s =
      .next (s.pushP pd p1 1 (holds (if lt then .lt else .eq) va (BitVec.ofInt 64 i9.toInt)) 0).performed) ∧
    (∀ e ∈ ([(.and, ca && cb), (.or, ca || cb), (.xor, decide (ca ≠ cb))] : List (PlogOp × Bool)),
      exec (.plog g e.1 pd na pa nb pb) s =
        .next (s.pushP pd (gpoi s g || (preg s pa).poi || (preg s pb).poi) 1 e.2 0).performed)

/-- R308 to R310: scalar floating point: operands flushed under FTZ, one rounding of the exact result, its flags on the
result; FCVT between 64-bit integers and FP32, an integer result without the flush (R248). -/
def Stated.ScalarFloat : Prop :=
  ∀ (s : State) (g : Guard) (x : Prefix) (d a b : R5) (pd : P4), Acts s g →
    let va := (sreg s a).v
    let vb := (sreg s b).v
    let m := modOf x
    let plain (v : W64) : FNum := Fmt.fp32.value (v.toNat % 2 ^ 32)
    let n (v : W64) : FNum := flushOperand m.ftz .fp32 (plain v)
    let out (r : FNum × FFlags) : W64 × FFlags :=
      (BitVec.ofNat 64 (Fmt.fp32.write m 0 (exactly r.1)).1, r.2 ||| (Fmt.fp32.write m 0 (exactly r.1)).2)
    let p1 := gpoi s g || (sreg s a).poi
    let p2 := p1 || (sreg s b).poi
    let p3 := p2 || (sreg s d).poi
    (FpRead s x a → FpRead s x b →
      (∀ e ∈ ([(.fadd, (n va).add m.rnd (n vb)), (.fsub, (n va).add m.rnd (n vb).negate), (.fmul, (n va).mul (n vb)),
          (.fmin, (n va).pick false (n vb)), (.fmax, (n va).pick true (n vb))] : List (FopForm × FNum × FFlags)),
        exec (.fop g x e.1 d a b) s = .next (s.pushS d .fp32 p2 4 (out e.2).1 (out e.2).2).performed) ∧
      (∀ e ∈ ([(.eq, .eq), (.ne, .ne), (.lt, .lt), (.le, .le), (.gt, .gt), (.ge, .ge), (.un, .un), (.ord, .ord)] :
          List (FRel × VRel)),
        exec (.fcmp g x e.1 pd a b) s =
          .next (s.pushP pd p2 2 (floatRel e.2 (n va) (n vb)) (flagIf ((n va).isSNaN || (n vb).isSNaN) fNV)).performed) ∧
      (FpRead s x d → ∀ e ∈ ([(.fma, FNum.fma m.rnd (n va) (n vb) (n (sreg s d).v)),
          (.fms, FNum.fma m.rnd (n va) (n vb) (n (sreg s d).v).negate),
          (.fnma, FNum.fma m.rnd (n va).negate (n vb) (n (sreg s d).v))] : List (FmaForm × FNum × FFlags)),
        exec (.fma g x e.1 d a b) s = .next (s.pushS d .fp32 p3 4 (out e.2).1 (out e.2).2).performed)) ∧
    (FpRead s x a → ∀ e ∈ ([(.ftoi, true), (.ftou, false)] : List (CvtForm × Bool)),
      let r := roundInt 64 e.2 m.rnd 0 (plain va)
      exec (.fcvt g x e.1 d a) s = .next (s.pushS d .i32 p1 4 (BitVec.ofNat 64 r.1) r.2).performed) ∧
    (IntRead s (Dec.xOf x) [a] → ∀ e ∈ ([(.itof, FNum.ofInt va.toInt), (.utof, FNum.ofInt va.toNat)] : List (CvtForm × FNum)),
      exec (.fcvt g x e.1 d a) s = .next (s.pushS d .fp32 p1 4 (out (e.2, 0)).1 (out (e.2, 0)).2).performed)

/-- (1) R306, R307: compares and predicate logic. (2) R308 to R310: scalar floating point: operands flushed under FTZ,
one rounding of the exact result, its flags on the result; FCVT between 64-bit integers and FP32, an integer result
without the flush (R248). Where the spec leaves a reading open this takes the model's own: notes/assumptions 38, 50.
-/
def Obligations.ScalarComparesAndFloat : Prop :=
  Stated.ScalarCompares ∧ Stated.ScalarFloat

/-- R312, R313: PBR and PBRX write an address that is not prepared at c + 1, and set the flag at c + 3; of a PBRX the
address must be that of a bundle, and a poisoned one only poisons the target. -/
def Stated.BranchTargetsPrepared : Prop :=
  ∀ (s : State) (g : Guard) (b : B3) (imm : BitVec 16) (a : R5), Acts s g →
    exec (.pbr g b imm) s = .next ((s.pushB b.toNat (gpoi s g) 1
      (BitVec.ofInt 64 ((s.ctx.bundle : Int) + 64 * imm.toInt)).toNat false).pushPrep b.toNat).performed ∧
    (IntReg s a →
      ((sreg s a).poi = true ∨ (64 ∣ (sreg s a).v.toNat ∧ (sreg s a).v.toNat < 2 ^ 21) →
        exec (.pbrx g b a) s = .next ((s.pushB b.toNat (gpoi s g || (sreg s a).poi) 1 (sreg s a).v.toNat false).pushPrep
          b.toNat).performed) ∧
      ((sreg s a).poi = false → ¬ 64 ∣ (sreg s a).v.toNat →
        exec (.pbrx g b a) s = .next ((s.raise 7 2 s.cur.slot).poisonDests [⟨.btgt, b.toNat, .raw, 1⟩])) ∧
      ((sreg s a).poi = false → 64 ∣ (sreg s a).v.toNat → 2 ^ 21 ≤ (sreg s a).v.toNat →
        exec (.pbrx g b a) s = .next ((s.raise 7 1 s.cur.slot).poisonDests [⟨.btgt, b.toNat, .raw, 1⟩])))

/-- R314, R315: a branch through a prepared, clean target is taken at c + 1; CALL leaves the next bundle's address in b0,
prepared; BRDEC counts down and branches unless the count is 0. -/
def Stated.BranchesTaken : Prop :=
  ∀ (s : State) (g : Guard) (b : B3) (d : R5), Acts s g → gpoi s g = false →
    let t := 64 * (breg s b).a.toNat
    let n := (sreg s d).v - 1
    ((breg s b).poi = false → (breg s b).prep = true →
      exec (.br g b) s = .next (s.modCtx fun c => { c with target := some t }).performed ∧
      exec (.ret g b) s = .next (s.modCtx fun c => { c with target := some t }).performed ∧
      exec (.call g b) s =
        .next ((s.pushB 0 false 1 (s.ctx.bundle + 64) true).modCtx fun c => { c with target := some t }).performed) ∧
    (IntReg s d → (sreg s d).poi = false →
      (n = 0 → exec (.brdec g d b) s = .next (s.pushS d .i32 false 1 n 0).performed) ∧
      (n ≠ 0 → (breg s b).poi = false → (breg s b).prep = true →
        exec (.brdec g d b) s =
          .next ((s.pushS d .i32 false 1 n 0).modCtx fun c => { c with target := some t }).performed))

/-- R262, R314, R315: a branch whose guard or target is poisoned traps 0x03, subcode 3, BRDEC under a poisoned guard too,
whatever its counter; one whose target is not prepared traps 0x01, subcode 9; neither is taken. -/
def Stated.BranchTraps : Prop :=
  ∀ (s : State) (g : Guard) (b : B3) (d : R5), Acts s g →
    (gpoi s g = true → IntReg s d →
      exec (.brdec g d b) s = .next ((s.raise 3 3 s.cur.slot).poisonDests [⟨.scalar, d.toNat, .i32, 1⟩])) ∧
    ((gpoi s g = true ∨ (breg s b).poi = true) →
      exec (.br g b) s = .next (s.raise 3 3 s.cur.slot) ∧ exec (.ret g b) s = .next (s.raise 3 3 s.cur.slot) ∧
      exec (.call g b) s = .next ((s.raise 3 3 s.cur.slot).poisonDests [⟨.btgt, 0, .raw, 1⟩])) ∧
    (gpoi s g = false → (breg s b).poi = false → (breg s b).prep = false →
      exec (.br g b) s = .next (s.raise 1 9 s.cur.slot) ∧ exec (.ret g b) s = .next (s.raise 1 9 s.cur.slot) ∧
      exec (.call g b) s = .next ((s.raise 1 9 s.cur.slot).poisonDests [⟨.btgt, 0, .raw, 1⟩]))

/-- (1) R312, R313: PBR and PBRX write an address that is not prepared at c + 1, and set the flag at c + 3; of a PBRX
the address must be that of a bundle, and a poisoned one only poisons the target. (2) R314, R315: a branch through a
prepared, clean target is taken at c + 1; CALL leaves the next bundle's address in b0, prepared; BRDEC counts down and
branches unless the count is 0. (3) R262, R314, R315: a branch whose guard or target is poisoned traps 0x03, subcode
3, BRDEC under a poisoned guard too, whatever its counter; one whose target is not prepared traps 0x01, subcode 9;
neither is taken. Where the spec leaves a reading open this takes the model's own: notes/assumptions 31, 32, 34, 38,
41. -/
def Obligations.Branches : Prop :=
  Stated.BranchTargetsPrepared ∧ Stated.BranchesTaken ∧ Stated.BranchTraps

/-- R315, R262, R259, R161: BRDEC: its word; nothing under a false guard; 0x02, subcode 1, for a counter of another format; 0x03, subcode
3, for a poisoned guard or counter, and for a poisoned target that it would take; 0x01, subcode 9, for one that is not
prepared; else the counter less 1 at c + 1, and the branch unless it is 0.
Where the spec leaves a reading open this takes the model's own: notes/assumptions 31, 32, 38, 41. -/
def Obligations.BranchOnCount : Prop :=
  ∀ (s : State) (g : Guard) (d : R5) (b : B3),
    let i := Instr.brdec g d b
    let e := i.words.getD 0 0
    let n := (sreg s d).v - 1
    let dest : List Dest := [⟨.scalar, d.toNat, .i32, 1⟩]
    (i.words.length = 1 ∧ e.extractLsb' 30 2 = 0 ∧ e.extractLsb' 14 5 = d ∧ e.extractLsb' 12 2 = 0 ∧ e.extractLsb' 9 3 = b ∧
      e.extractLsb' 4 5 = 0 ∧ e.extractLsb' 0 4 = 0 ∧ Dec.slotInstr .task .sy none e 0 0 = .ok i) ∧
    ((preg s g.p).v = g.n → (preg s g.p).poi = false → exec i s = .next s) ∧
    (Acts s g → ¬ IntReg s d → exec i s = .next ((s.raise 2 1 s.cur.slot).poisonDests dest)) ∧
    (Acts s g → IntReg s d → gpoi s g = true ∨ (sreg s d).poi = true → exec i s = .next ((s.raise 3 3 s.cur.slot).poisonDests dest)) ∧
    (Acts s g → gpoi s g = false → IntReg s d → (sreg s d).poi = false →
      (n = 0 → exec i s = .next (s.pushS d .i32 false 1 n 0).performed) ∧
      (n ≠ 0 → (breg s b).poi = true → exec i s = .next ((s.raise 3 3 s.cur.slot).poisonDests dest)) ∧
      (n ≠ 0 → (breg s b).poi = false → (breg s b).prep = false →
        exec i s = .next ((s.raise 1 9 s.cur.slot).poisonDests dest)) ∧
      (n ≠ 0 → (breg s b).poi = false → (breg s b).prep = true → exec i s = .next
        ((s.pushS d .i32 false 1 n 0).modCtx fun c => { c with target := some (64 * (breg s b).a.toNat) }).performed) ∧
      ((sreg s d).v = 0 → n = BitVec.allOnes 64))

/-- R316, R319, R275: WAITN, WAITC and DRAIN hold issue until their cycle, by the LCYC that the tile reads: that of its
partition unless its firmware context has moved LBASE; a wait of no cycles holds nothing; the poison of a
base is not looked at. The hold keeps the cycle of its issue, which a DRAIN judges by. -/
def Stated.WaitsHoldIssue : Prop :=
  ∀ (s : State) (g : Guard) (a : R5) (i32 : W32) (n : BitVec 9) (off : BitVec 26) (l5 : BitVec 5) (l6 : BitVec 6) (x y : Nat),
    Acts s g → InTask s x y →
    let l := s.lcycOf (tileKey x y)
    let seen := s.lcycSeen (tileKey x y)
    let own (d : Nat) : Nat := s.ownCycle (tileKey x y) d
    let held (kind : HoldKind) (c : Nat) : State := s.modCtx fun z => { z with hold := some ⟨kind, c, z.bundle, own seen⟩ }
    let t0 := (sreg s a).v.toNat
    let t1 := (BitVec.ofNat 64 ((sreg s a).v.toNat + i32.toNat)).toNat
    let td := (BitVec.ofNat 64 ((sreg s a).v.toNat + off.toNat)).toNat
    exec (.waitn g n) s = .next (if n.toNat = 0 then s else held .wait (l + 1 + n.toNat)).performed ∧
    exec (.waitnLong g i32) s = .next (if i32.toNat = 0 then s else held .wait (l + 1 + i32.toNat)).performed ∧
    exec (.drain g l5 n) s = .next (held (.drain l5.toNat (own (seen + 1 + n.toNat))) (l + 1 + n.toNat)).performed ∧
    (IntReg s a →
      (seen < t0 → exec (.waitc g a) s = .next (if t0 = seen + 1 then s else held .wait (l + (t0 - seen))).performed) ∧
      (seen < t1 → exec (.waitcLong g a i32) s = .next (if t1 = seen + 1 then s else held .wait (l + (t1 - seen))).performed) ∧
      (seen < td → exec (.drainLong g a l6 off) s = .next (held (.drain l6.toNat (own td)) (l + (td - seen))).performed) ∧
      (t0 ≤ seen → exec (.waitc g a) s = .next (s.raise 1 4 s.cur.slot)) ∧
      (t1 ≤ seen → exec (.waitcLong g a i32) s = .next (s.raise 1 4 s.cur.slot)) ∧
      (td ≤ seen → exec (.drainLong g a l6 off) s = .next (s.raise 1 4 s.cur.slot) ∧
        exec (.bar g a l6 off) s = .next (s.raise 1 4 s.cur.slot))) ∧
    (s.lbaseShift (tileKey x y) = 0 → seen = l ∧ ∀ d, own d = d)

/-- R317, R319, R316, R208: at its deadline a hold ends; a BAR whose group has not met in time with its level and
deadline, or a BAR or DRAIN that finds work outstanding, traps 0x01, subcode 5, with the address of the BAR or DRAIN. -/
def Stated.HoldsEnd : Prop :=
  ∀ (s : State) (x y : Nat) (lv d u b c : Nat),
    let k := tileKey x y
    let freed : State := s.modTile k fun t =>
      { t.markChecked (s.lcycOf k) with task := { t.task with hold := none } }
    ((s.tile k).task.hold = some ⟨.bar lv d, u, b, c⟩ →
      (s.barFails k lv d = false → exec (.barDeadline x y) s = .next freed) ∧
      (s.barFails k lv d = true → exec (.barDeadline x y) s = .next (freed.raisePost k 1 5 7 b))) ∧
    ((s.tile k).task.hold = some ⟨.drain lv d, u, b, c⟩ →
      (s.drainFails k lv d c = false → exec (.drainDeadline x y) s = .next freed) ∧
      (s.drainFails k lv d c = true → exec (.drainDeadline x y) s = .next (freed.raisePost k 1 5 7 b))) ∧
    (∀ w, (∀ fx fy, w ≠ .fw fx fy) ∨ (∃ h, (s.ctxAt w).hold = some h ∧ h.kind = .wait) →
      exec (.waitResume w) s = .next (s.setCtxAt w { s.ctxAt w with hold := none })) ∧
    (let going := s.setCtxAt (.fw x y) { (s.tile k).fw with hold := none };
      ((s.tile k).fw.hold = some ⟨.bar lv d, u, b, c⟩ → exec (.waitResume (.fw x y)) s =
        .next (if s.barFails k lv d then going.stopCtx (.fw x y) 1 5 else going)) ∧
      ((s.tile k).fw.hold = some ⟨.drain lv d, u, b, c⟩ → exec (.waitResume (.fw x y)) s =
        .next (if s.drainFails k lv d c then going.stopCtx (.fw x y) 1 5 else going)))

/-- R199, R204, R319: what makes a DRAIN fail: a deadline that has passed with its operation incomplete; a copy command of G,
TA or TB issued up to the DRAIN that still accesses SRAM, its last access as its entry gives it; within the module, also PEND
or TSM that are not 0, or a reply of an earlier operation still due; across modules, also an earlier CRDY entry not yet
finished. -/
def Stated.DrainMeetsWork : Prop :=
  ∀ (s : State) (k lv d issued : Nat),
    let t := s.tile k
    let kind := scopeKind (s.bankOf k).tree lv
    let late : Prop := ∃ o ∈ t.ops, o.isChecked = true ∧ o.checked = false ∧ o.deadline ≤ d ∧ o.mute = false ∧ o.done = false
    let last (c : ChCmd) : Option Nat := match c.what with
      | .cpy .. | .acpOut .. => some (c.c + c.lag + c.m + 1)
      | .cpz _ | .cpt .. | .acpIn .. => some (c.c + c.lag + c.m)
      | .cpn dir _ _ => some (c.c + c.lag + c.m + 3 + stitchTo (k % 256) (k / 256) dir)
      | .sweep _ => none
    let copies : Prop := (∃ c, (t.ta = some c ∨ t.tb = some c ∨ t.g = some c) ∧ c.c ≤ issued ∧ ∃ e, last c = some e ∧ d ≤ e) ∨
      ∃ e ∈ t.gTails, e.1 ≤ issued ∧ d ≤ e.2
    let replies : Prop := ∃ o ∈ t.ops, o.issued ≤ issued ∧ (o.kind = .ldg ∨ o.isAmo = true) ∧ d < o.deadline
    let entries : Prop := ∃ o ∈ t.ops, o.issued ≤ issued ∧ o.kind = .crdy ∧ (o.done = false ∨ entryFinished (sget 0 s.seqEntries o.pa) = false)
    s.drainFails k lv d issued = true ↔ late ∨ copies ∨ (kind ≠ .alone ∧ (t.pend d ≠ 0 ∨ t.tsm d ≠ 0 ∨ replies)) ∨
      (kind = .spanning ∧ entries)

/-- (1) R316, R319, R275: WAITN, WAITC and DRAIN hold issue until their cycle, by the LCYC that the tile reads: that
of its partition unless its firmware context has moved LBASE; a wait of no cycles holds nothing; the poison of a base
is not looked at. The hold keeps the cycle of its issue, which a DRAIN judges by. (2) R317, R319, R316, R208: at its
deadline a hold ends; a BAR whose group has not met in time with its level and deadline, or a BAR or DRAIN that finds
work outstanding, traps 0x01, subcode 5, with the address of the BAR or DRAIN. (3) R199, R204, R319: what makes a
DRAIN fail: a deadline that has passed with its operation incomplete; a copy command of G, TA or TB issued up to the
DRAIN that still accesses SRAM, its last access as its entry gives it; within the module, also PEND or TSM that are
not 0, or a reply of an earlier operation still due; across modules, also an earlier CRDY entry not yet finished.
Where the spec leaves a reading open this takes the model's own: notes/assumptions 31, 32, 33, 35, 38, 46, 56. -/
def Obligations.WaitsAndHolds : Prop :=
  Stated.WaitsHoldIssue ∧ Stated.HoldsEnd ∧ Stated.DrainMeetsWork

/-- R317, R232: a BAR whose deadline lies ahead holds issue until it and tells its group: the arrival, with its level, its
deadline and the cycle, is what the group's members judge by. At a level that spans modules there is a ring for it, and the
last arrival of this module sends the module's own frame an arrival distance later. -/
def Stated.BarArrives : Prop :=
  ∀ (s : State) (g : Guard) (a : R5) (lv : BitVec 6) (off : BitVec 26) (x y p : Nat) (q : Part),
    Acts s g → InTask s x y → x < 256 → IntReg s a →
    let k := tileKey x y
    let l := s.lcycOf k
    let seen := s.lcycSeen k
    let d := (BitVec.ofNat 64 ((sreg s a).v.toNat + off.toNat)).toNat
    let own := s.ownCycle k d
    let bars := (q.bars.filter fun b => l ≤ b.d) ++ [⟨x, y, lv.toNat, own, l⟩]
    let last : Prop := ∀ m ∈ s.groupOf k lv.toNat, ∃ b ∈ bars, tileKey b.x b.y = m ∧ b.level = lv.toNat ∧ b.d = own
    (s.tile k).part = some p → s.part p = some q → seen < d →
    ∃ t r, exec (.bar g a lv off) s = .next t ∧
      (t.tile k).task.hold = some ⟨.bar lv.toNat own, l + (d - seen), (s.tile k).task.bundle, s.ownCycle k seen⟩ ∧
      t.part p = some r ∧ r.bars = bars ∧ r.freeze = q.freeze ∧ Kept s t ∧
      (scopeKind q.bank.tree lv.toNat ≠ .spanning → r.ring = q.ring ∧ r.barFire = q.barFire) ∧
      (scopeKind q.bank.tree lv.toNat = .spanning → r.ring = some (q.ringFor l lv.toNat own) ∧
        (last → r.barFire = some (l + arrivalDistance (s.groupOf k lv.toNat))) ∧ (¬ last → r.barFire = q.barFire))

/-- R232, R317, R318: what makes a BAR fail: a member of its group that has not arrived, arrived with another level or
deadline, or arrived less than the arrival distance before the deadline; a ring that has not closed; PEND or TSM that are not
0; a deadline that has passed with its operation incomplete. -/
def Stated.BarMeetsGroup : Prop :=
  ∀ (s : State) (k lv d : Nat) (q : Part), s.partOf k = some q →
    let t := s.tile k
    let met : Prop := ∀ m ∈ s.groupOf k lv, ∃ b ∈ q.bars,
      tileKey b.x b.y = m ∧ b.level = lv ∧ b.d = d ∧ b.at_ + arrivalDistance (s.groupOf k lv) ≤ d
    let closed : Prop := scopeKind (s.bankOf k).tree lv = .spanning → ∃ r, q.ring = some r ∧ r.level = lv ∧ r.d = d ∧
      r.inside = true ∧ r.rings = []
    let late : Prop := ∃ o ∈ t.ops, o.isChecked = true ∧ o.checked = false ∧ o.deadline ≤ d ∧ o.mute = false ∧ o.done = false
    (s.allArrived k lv d = true ↔ met) ∧
    (s.barFails k lv d = true ↔ ¬ met ∨ ¬ closed ∨ t.pend d ≠ 0 ∨ t.tsm d ≠ 0 ∨ late)

/-- (1) R317, R232: a BAR whose deadline lies ahead holds issue until it and tells its group: the arrival, with its
level, its deadline and the cycle, is what the group's members judge by. At a level that spans modules there is a ring
for it, and the last arrival of this module sends the module's own frame an arrival distance later. (2) R232, R317,
R318: what makes a BAR fail: a member of its group that has not arrived, arrived with another level or deadline, or
arrived less than the arrival distance before the deadline; a ring that has not closed; PEND or TSM that are not 0; a
deadline that has passed with its operation incomplete. Where the spec leaves a reading open this takes the model's
own: notes/assumptions 33. -/
def Obligations.Barriers : Prop :=
  Stated.BarArrives ∧ Stated.BarMeetsGroup

/-- R320: the words of CHK, its forms that do not exist, and the registers that are never poisoned. -/
def Stated.CheckWords : Prop :=
  ∀ (s : State) (g : Guard) (a b : R5) (pa pb : P4) (v : R9) (ba bb : B3) (body : BitVec 19),
    (Instr.chk g a b).words = [Dec.head 0#2 0x0A#6 g (0#5 ++ a ++ b ++ 0#4)] ∧
    (Instr.chkP g pa pb).words = [Dec.head 0#2 0x0A#6 g (0#5 ++ 0#1 ++ pa ++ 0#1 ++ pb ++ 1#4)] ∧
    (Instr.chkV g v).words = [Dec.head 0#2 0x0A#6 g (v.extractLsb' 4 5 ++ 0#1 ++ v.extractLsb' 0 4 ++ 0#5 ++ 2#4)] ∧
    (Instr.chkB g ba bb).words = [Dec.head 0#2 0x0A#6 g (0#5 ++ 0#2 ++ ba ++ 0#2 ++ bb ++ 3#4)] ∧
    (3 < (body.extractLsb' 0 4).toNat → Dec.slotInstr .task .sy none (Dec.head 0#2 0x0A#6 g body) 0 0 = .error 2) ∧
    (sreg s 0).poi = false ∧ (preg s 0).poi = false

/-- R320, R183: CHK of registers that are all clean does nothing; of a poisoned one it traps 0x03, subcode 1; of a row
that is not granted 0x07, subcode 5. -/
def Stated.ChecksOfPoison : Prop :=
  ∀ (s : State) (g : Guard) (a b : R5) (pa pb : P4) (v : R9) (ba bb : B3), Acts s g →
    let ok : Host.Outcome State Fault Refusal := .next s.performed
    let bad : Host.Outcome State Fault Refusal := .next (s.raise 3 1 s.cur.slot)
    (exec (.chk g a b) s = if (sreg s a).poi || (sreg s b).poi then bad else ok) ∧
    (exec (.chkP g pa pb) s = if (preg s pa).poi || (preg s pb).poi then bad else ok) ∧
    (exec (.chkB g ba bb) s = if (breg s ba).poi || (breg s bb).poi then bad else ok) ∧
    (exec (.chkV g v) s =
      if s.rowOk v.toNat = false then .next (s.raise 7 5 s.cur.slot) else if (rreg s v).poi then bad else ok)

/-- (1) R320: the words of CHK, its forms that do not exist, and the registers that are never poisoned. (2) R320,
R183: CHK of registers that are all clean does nothing; of a poisoned one it traps 0x03, subcode 1; of a row that is
not granted 0x07, subcode 5. -/
def Obligations.Checks : Prop :=
  Stated.CheckWords ∧ Stated.ChecksOfPoison

/-- R199, R321: END of a running task enters ENDED and checks every deadline that has passed: with all of them met nothing is
announced, and one that is missed takes a trap 0x01, subcode 5; of a firmware context or a core END stops the stream.
Where the spec leaves a reading open this takes the model's own: notes/assumptions 31, 32. -/
def Obligations.EndStops : Prop :=
  ∀ (s : State) (g : Guard) (x y p m n : Nat) (q : Part), Acts s g →
    let k := tileKey x y
    let l := s.lcycOf k
    let due (o : RemOp) : Prop := o ∈ (s.tile k).ops ∧ o.isChecked = true ∧ o.checked = false ∧ o.deadline ≤ l
    let met (o : RemOp) : Prop := o.mute = true ∨ o.done = true
    (InTask s x y → (s.tile k).st = .running →
      ∃ t, exec (.endTask g) s = .next t ∧ (t.tile k).st = .ended ∧ (t.tile k).task.latches = (s.tile k).task.latches ∧
        (∀ o ∈ (t.tile k).ops, o.isChecked = true → o.deadline ≤ l → o.checked = true) ∧ Kept s t ∧
        ((∀ o, due o → met o) → t.parts = s.parts) ∧
        ((∃ o, due o ∧ ¬ met o) → (s.tile k).part = some p → s.part p = some q → q.freeze = none →
          (s.tile k).voided = false → (s.tile k).raise = none →
          ∃ r z, t.part p = some r ∧ r.freeze = some z ∧ z.t = l ∧ z.f = l + q.dist ∧ z.cause = 1 ∧ z.sub = 5)) ∧
    (s.cur.who = .core m n → ∃ t, exec (.endTask g) s = .next t ∧ (t.ctxAt (.core m n)).on = false ∧ t.tiles = s.tiles ∧
      Kept s t) ∧
    (InFirmware s x y → ∃ t, exec (.endTask g) s = .next t ∧ (t.tile k).fw.on = false ∧
      (t.tile k).st = (s.tile k).st ∧ (t.tile k).task = (s.tile k).task ∧ Kept s t)

/-- R322, R170, R274: the words of TRAP and SYSC; on a voided tile they announce nothing; in a firmware context they stop it. -/
def Stated.TrapWords : Prop :=
  ∀ (s : State) (g : Guard) (n : Byte) (body : BitVec 19) (x y : Nat), 
    (Instr.trap g n).words = [Dec.head 0#2 0x0D#6 g (0#5 ++ 0#5 ++ 0#1 ++ n)] ∧
    (Instr.sysc g n).words = [Dec.head 0#2 0x0E#6 g (0#5 ++ 0#5 ++ 0#1 ++ n)] ∧
    (body.extractLsb' 8 11 ≠ 0 → Dec.slotInstr .task .sy none (Dec.head 0#2 0x0D#6 g body) 0 0 = .error 2 ∧
      Dec.slotInstr .task .sy none (Dec.head 0#2 0x0E#6 g body) 0 0 = .error 2) ∧
    (Acts s g → ∀ e ∈ ([(.trap g n, 0x0B), (.sysc g n, 0x0C)] : List (Instr × Nat)),
      (InTask s x y → (s.tile (tileKey x y)).voided = true → ∃ t, exec e.1 s = .next t ∧ t.parts = s.parts ∧ Kept s t) ∧
      (InFirmware s x y → (s.tile (tileKey x y)).fw.on = true → ∃ t, exec e.1 s = .next t ∧ t.parts = s.parts ∧
        (t.tile (tileKey x y)).fw.on = false ∧
        (t.tile (tileKey x y)).fw.trapc = BitVec.ofNat 64 (e.2 + 256 * n.toNat)))

/-- R322, R158, R160, R161: TRAP and SYSC of a task take the trap of cause 0x0B and 0x0C with their number as subcode:
a freeze is announced at c that stops at c + D, the tile is a raising tile with this bundle and the slots performed so
far, the fault is listed (that of a raising tile too: DEDUCED, note 30), and nothing a program can read changes. -/
def Stated.TrapsTaken : Prop :=
  ∀ (s : State) (g : Guard) (n : Byte) (x y p : Nat) (q : Part), Acts s g → InTask s x y →
    let k := tileKey x y
    let l := s.lcycOf k
    (s.tile k).part = some p → s.part p = some q → q.freeze = none → (s.tile k).voided = false → (s.tile k).raise = none →
    (s.tile k).deferred.length < 16 →
    ∀ e ∈ ([(.trap g n, 0x0B), (.sysc g n, 0x0C)] : List (Instr × Nat)), ∃ t, exec e.1 s = .next t ∧
      (∃ r z, t.part p = some r ∧ r.freeze = some z ∧ z.t = l ∧ z.f = l + q.dist ∧ z.cause = e.2 ∧ z.sub = n.toNat) ∧
      (t.tile k).raise = some ⟨e.2, n.toNat, s.cur.slot, (s.tile k).task.bundle, (s.tile k).task.mask, false⟩ ∧
      (t.tile k).deferred = (s.tile k).deferred ++ [⟨e.2, n.toNat, s.cur.slot, (s.tile k).task.bundle, l⟩] ∧
      (t.tile k).st = (s.tile k).st ∧ Kept s t

/-- (1) R322, R170, R274: the words of TRAP and SYSC; on a voided tile they announce nothing; in a firmware context
they stop it. (2) R322, R158, R160, R161: TRAP and SYSC of a task take the trap of cause 0x0B and 0x0C with their
number as subcode: a freeze is announced at c that stops at c + D, the tile is a raising tile with this bundle and the
slots performed so far, the fault is listed (that of a raising tile too: DEDUCED, note 30), and nothing a program can
read changes. Where the spec leaves a reading open this takes the model's own: notes/assumptions 31, 32. -/
def Obligations.Traps : Prop :=
  Stated.TrapWords ∧ Stated.TrapsTaken

/-- R274, R275: a fault of a firmware context or a core stops it and writes its own trap registers, and the front end receives
a firmware-fault event; no freeze is announced. The slots of the bundle that still perform join its TRAPM. -/
def Stated.FirmwareFaultStops : Prop :=
  ∀ (s : State) (cause sub slot : Nat) (w : Who), s.cur.who = w → (∀ x y, w ≠ .task x y) → (s.ctxAt w).on = true →
    let c := (s.raise cause sub slot).ctxAt w
    c.on = false ∧ c.trapc = BitVec.ofNat 64 (cause + 256 * sub) ∧ c.trapb = BitVec.ofNat 64 (s.ctxAt w).bundle ∧
      c.trapm = (s.ctxAt w).mask.setWidth 64 ∧ c.trapt = BitVec.ofNat 64 s.gcyc ∧ (s.raise cause sub slot).parts = s.parts ∧
      (s.raise cause sub slot).fwFaults = s.fwFaults ++ [⟨w, cause, sub, s.gcyc⟩] ∧
      ∀ n, (({ s.raise cause sub slot with cur := ⟨w, n⟩ } : State).performed.ctxAt w).trapm =
        c.trapm ||| (1#8 <<< n).setWidth 64

/-- R323, R324: in a task with a true guard every privileged instruction traps 0x0F, subcode 2. -/
def Stated.PrivilegedInTask : Prop :=
  ∀ (s : State) (g : Guard) (x y : Nat) (d a : R5) (kill : Bool) (sp : Space) (off : W32), Acts s g → InTask s x y →
    let r := s.raise 0x0F 2 s.cur.slot
    (∀ i ∈ ([.align g d, .frz g d, .rfz g kill d] : List Instr),
      exec i s = .next (r.poisonDests [⟨.scalar, d.toNat, .i32, 1⟩])) ∧
    exec (.ltf g sp d a off) s = .next (r.poisonDests [⟨.scalar, d.toNat, .i32, 5⟩]) ∧
    exec (.stf g sp d a off) s = .next r

/-- (1) R274, R275: a fault of a firmware context or a core stops it and writes its own trap registers, and the front
end receives a firmware-fault event; no freeze is announced. The slots of the bundle that still perform join its
TRAPM. (2) R323, R324: in a task with a true guard every privileged instruction traps 0x0F, subcode 2. Where the spec
leaves a reading open this takes the model's own: notes/assumptions 18, 31, 32, 38, 41. -/
def Obligations.FirmwareTraps : Prop :=
  Stated.FirmwareFaultStops ∧ Stated.PrivilegedInTask

/-- R13, R323, R87: ALIGN, FRZ and RFZ in a firmware context: the status each gives, and its effect; ALIGN takes the count from
the aligned neighbour of lowest number, and one of the same cycle is not yet seen (log 18, DEDUCED); FRZ joins a freeze announced in its own cycle, and finds one announced before. -/
def Stated.FirmwareServices : Prop :=
  ∀ (s : State) (g : Guard) (x y p : Nat) (q : Part) (d : R5) (kill : Bool), Acts s g → InFirmware s x y →
    let k := tileKey x y
    let f := 8 * (y / 24) + x / 32
    let z := sget FieldSt.zero s.fields f
    let frozen (cause sub : Nat) : Freeze := Freeze.announce (s.lcycOf k) (s.lcycOf k + q.dist) cause sub true
    let given (w : Freeze) : Freeze := { w with given := k :: w.given.filter (· != k), killed := w.killed || kill }
    let status (u : State) (v : Nat) : Host.Outcome State Fault Refusal :=
      .next (u.pushS d .i32 (gpoi s g) 1 (BitVec.ofNat 64 v) 0).performed
    (z.outOfService = true → exec (.align g d) s = status s 3) ∧
    (z.outOfService = false → z.realigning = true → z.since ≠ s.gcyc → exec (.align g d) s = status s 2) ∧
    (z.outOfService = false → z.realigning = false ∨ z.since = s.gcyc → z.lost = false → exec (.align g d) s = status s 1) ∧
    (z.outOfService = false → z.realigning = false ∨ z.since = s.gcyc → z.lost = true →
      (let new : FieldSt := { z with realigning := true, matched := [], src := s.countFrom f, since := s.gcyc };
        exec (.align g d) s = status { s with fields := sset FieldSt.zero s.fields f new } 0) ∧
      ∀ n ∈ neighbours f, (s.field n).inStep = true → s.countFrom f ≤ n ∧ (s.field (s.countFrom f)).inStep = true ∧
        s.countFrom f ∈ neighbours f) ∧
    ((s.tile k).part = some p → s.part p = some q →
      ((s.tile k).st = .running ∨ (s.tile k).st = .ended → q.freeze = none →
        exec (.frz g d) s = status (s.setPart p { q with freeze := some (frozen 0x0D 2) }) 0) ∧
      (∀ w, q.freeze = some w → (s.tile k).st = .running ∨ (s.tile k).st = .ended →
        (w.t = s.lcycOf k → exec (.frz g d) s = status (s.setPart p { q with freeze := some { w with serviceReq := true } }) 0) ∧
        (w.t ≠ s.lcycOf k → exec (.frz g d) s = status s 1)) ∧
      ((s.tile k).st ≠ .running → (s.tile k).st ≠ .ended → exec (.frz g d) s = status s 1) ∧
      ((s.tile k).st = .frozen → ∀ w, q.freeze = some w →
        exec (.rfz g kill d) s = status (s.setPart p { q with freeze := some (given w) }) 0)) ∧
    ((s.tile k).part = none → exec (.frz g d) s = status s 1) ∧
    ((s.tile k).st ≠ .frozen → exec (.rfz g kill d) s = status s 1)

/-- R324, R183, R268: LTF reads a space at c + 1 for a scalar in place at c + 5; STF writes a space at the end of c + 1, into a
task that is frozen, idle or stabled; from and to a borrowed bank 4 cycles later (R79); an index out of range traps 0x07,
subcode 1, one in a lent bank subcode 4. -/
def Stated.FirmwareReachesTask : Prop :=
  ∀ (s : State) (g : Guard) (x y : Nat) (sp : Space) (d a : R5) (off : W32), Acts s g → InFirmware s x y → IntReg s a →
    (sreg s a).poi = false →
    let i := (BitVec.ofInt 64 ((sreg s a).v.toInt + off.toInt)).toNat
    let limit := match sp with
      | .s => 32 | .p => 16 | .b => 8 | .row => 8192 | .tag => 544 | .sram => 0x180000 | .frec => 0x8000
    let unit := match sp with
      | .sram => 8 | .frec => 8 | .s => 1 | .p => 1 | .b => 1 | .row => 1 | .tag => 1
    let num := match sp with
      | .s => 0 | .p => 1 | .b => 2 | .row => 3 | .tag => 4 | .sram => 5 | .frec => 6
    let h := (s.tile (tileKey x y)).health
    let mine : Prop := sp = .sram → i + 8 ≤ h.top ∧ h.gave (i / 16 % 64) = false
    let lag := s.spaceLag sp i
    ((h.nlost = 0 ∨ sp ≠ .sram) → lag = 0) ∧
    (i < limit → unit ∣ i → mine →
      exec (.ltf g sp d a off) s = .next (s.push { Latch.result .scalar s.cur.slot d.toNat .i32 (gpoi s g) s.now (s.now + 5 + lag) 0
        allBits 0 with rdAt := s.now + 1 + lag, reads := [⟨num, i, 8⟩] }).performed) ∧
    (i < limit → unit ∣ i → ¬ mine →
      exec (.ltf g sp d a off) s = .next ((s.raise 7 4 s.cur.slot).poisonDests [⟨.scalar, d.toNat, .i32, 5⟩])) ∧
    (limit ≤ i → exec (.ltf g sp d a off) s =
      .next ((s.raise 7 1 s.cur.slot).poisonDests [⟨.scalar, d.toNat, .i32, 5⟩])) ∧
    (i < limit → unit ∣ i → mine → sp ≠ .frec → (sp = .tag → (sreg s d).v.toNat % 16 < 14) →
      (s.tile (tileKey x y)).st = .frozen ∨ (s.tile (tileKey x y)).st = .idle ∨ (s.tile (tileKey x y)).st = .stabled →
      exec (.stf g sp d a off) s = .next (s.push { Latch.result .special s.cur.slot (0x1000 + num) (sreg s d).fmt
        ((sreg s d).poi || gpoi s g) s.now (s.now + 1 + lag) ((sreg s d).v.setWidth 1024) allBits 0 with
          atEnd := true, addr := i }).performed) ∧
    ((s.tile (tileKey x y)).st = .running ∨ (s.tile (tileKey x y)).st = .ended ∨ (s.tile (tileKey x y)).st = .loaded →
      exec (.stf g sp d a off) s = .next (s.raise 0x0F 2 s.cur.slot))

/-- R274, R325: firmware starts a firmware context, or a front-end core, at an address. -/
def Stated.FirmwareStarts : Prop :=
  ∀ (s : State) (w : Who) (pc : Nat), (∀ x y, w ≠ .task x y) →
    ∃ t, exec (.firmwareContextRestart w pc) s = .next t ∧
      (let c := t.ctxAt w
       c.on = true ∧ c.pc = pc ∧ c.next = s.gcyc ∧ c.hold = none ∧ c.todo = [] ∧ SameRegs (s.ctxAt w) c) ∧
      ∀ k, SameStore (s.tile k) (t.tile k) ∧ (t.tile k).task = (s.tile k).task

/-- (1) R13, R323, R87: ALIGN, FRZ and RFZ in a firmware context: the status each gives, and its effect; ALIGN takes
the count from the aligned neighbour of lowest number, and one of the same cycle is not yet seen (log 18, DEDUCED);
FRZ joins a freeze announced in its own cycle, and finds one announced before. (2) R324, R183, R268: LTF reads a space
at c + 1 for a scalar in place at c + 5; STF writes a space at the end of c + 1, into a task that is frozen, idle or
stabled; from and to a borrowed bank 4 cycles later (R79); an index out of range traps 0x07, subcode 1, one in a lent
bank subcode 4. (3) R274, R325: firmware starts a firmware context, or a front-end core, at an address. Where the spec
leaves a reading open this takes the model's own: notes/assumptions 9, 18, 31, 32, 33, 38, 41. -/
def Obligations.FirmwareServices : Prop :=
  Stated.FirmwareServices ∧ Stated.FirmwareReachesTask ∧ Stated.FirmwareStarts

/-- R331, R326, R245: the lane-wise float instructions, with a row or a literal as second source: each lane is the exact
result of the operation on the flushed operands, rounded once, in place after 3 or 4 cycles. The hypotheses say that the
sources, the mask and the old destination can be read. -/
def Stated.FloatLaneResults : Prop :=
  ∀ (s : State) (g : Guard) (x : Prefix) (v : VCtl) (vd va vb : R9) (lit : W32) (r : VB), Acts s g →
    (r = .row vb ∨ r = .lit lit) →
    let i (row literal : Instr) : Instr := if r = .row vb then row else literal
    let m := modOf x
    ∀ e ∈ ([(i (.vadd g x v vd va vb) (.vaddLit g x v vd va lit), 3, false, fun a b _ => a.add m.rnd b),
        (i (.vsub g x v vd va vb) (.vsubLit g x v vd va lit), 3, false, fun a b _ => a.add m.rnd b.negate),
        (i (.vmul g x v vd va vb) (.vmulLit g x v vd va lit), 4, false, fun a b _ => a.mul b),
        (i (.vfma g x v vd va vb) (.vfmaLit g x v vd va lit), 4, true, fun a b d => FNum.fma m.rnd a b d),
        (i (.vfms g x v vd va vb) (.vfmsLit g x v vd va lit), 4, true, fun a b d => FNum.fma m.rnd a b d.negate),
        (i (.vfnm g x v vd va vb) (.vfnmLit g x v vd va lit), 4, true, fun a b d => FNum.fma m.rnd a.negate b d)] :
        List (Instr × Nat × Bool × (FNum → FNum → FNum → FNum × FFlags))),
      let old := if e.2.2.1 || Mask.merges v.m then some vd else none
      let f0 := opFmt fl3 (Dec.xOf x) (s.vecTags va r old)
      let ds := s.draw (drawCount m (VRange.bits v.r / f0.width))
      ∀ (n : VIn) (mk : MaskVal) (po : Bool), ds.2.vecIn (Dec.xOf x) fl3 va r old e.2.2.1 = .ok n →
        ds.2.maskIn (Dec.xOf x) v.m = .ok mk → ds.2.oldIn (Dec.xOf x) v.m vd.toNat n.f = .ok po →
        let l := lanesOf v.r n.f.width
        let num (w : Row) (k : Nat) : FNum := flushOperand m.ftz n.f (n.f.value (l.lane w k))
        let out (k : Nat) : Nat × FFlags :=
          let q := e.2.2.2 (num n.a k) (num n.b k) (num n.d k)
          ((n.f.write m (ds.1.getD k 0) (exactly q.1)).1, q.2 ||| (n.f.write m (ds.1.getD k 0) (exactly q.1)).2)
        exec e.1 s = .next (ds.2.pushLanes vd.toNat n.f (gpoi s g || n.poi || po) e.2.1 l mk
          ((List.range l.n).map out)).performed

/-- R331, R335, R336: the lane-wise selections, sign operations and special functions. -/
def Stated.FloatLaneSelections : Prop :=
  ∀ (s : State) (g : Guard) (x : Prefix) (v : VCtl) (vd va vb : R9) (lit : W32) (r : VB) (n : VIn) (mk : MaskVal) (po : Bool),
    Acts s g →
    let m := modOf x
    let old := if Mask.merges v.m then some vd else none
    let l := lanesOf v.r n.f.width
    let num (w : Row) (k : Nat) : FNum := flushOperand m.ftz n.f (n.f.value (l.lane w k))
    let done (u : State) (lat : Nat) (out : Nat → Nat × FFlags) : Host.Outcome State Fault Refusal :=
      .next (u.pushLanes vd.toNat n.f (gpoi s g || n.poi || po) lat l mk ((List.range l.n).map out)).performed
    let reads (u : State) (acc : List Fmt) (b : VB) : Prop := u.vecIn (Dec.xOf x) acc va b old false = .ok n ∧
      u.maskIn (Dec.xOf x) v.m = .ok mk ∧ u.oldIn (Dec.xOf x) v.m vd.toNat n.f = .ok po
    let drawn (acc : List Fmt) (b : VB) : List Nat × State :=
      s.draw (drawCount m (VRange.bits v.r / (opFmt acc (Dec.xOf x) (s.vecTags va b old)).width))
    ((r = .row vb ∨ r = .lit lit) → reads (drawn fl3 r).2 fl3 r →
      ∀ e ∈ ([(if r = .row vb then Instr.vmin g x v vd va vb else .vminLit g x v vd va lit, false),
          (if r = .row vb then Instr.vmax g x v vd va vb else .vmaxLit g x v vd va lit, true)] : List (Instr × Bool)),
        exec e.1 s = done (drawn fl3 r).2 3 fun k =>
          let q := (num n.a k).pick e.2 (num n.b k)
          ((n.f.write Mod.plain 0 (exactly q.1)).1, q.2)) ∧
    (∀ f, reads (drawn fl3 .none).2 fl3 .none → exec (.vsf g x v f vd va) s = done (drawn fl3 .none).2 12 fun k =>
      let q := specialFn f (match n.f.layout with | some y => y.f | none => 0) (num n.a k)
      let o := n.f.write m ((drawn fl3 .none).1.getD k 0) q.1
      (o.1, q.2 ||| o.2)) ∧
    (∀ f xt, x = Dec.ofX xt →
      reads (drawn num6 (if f = .cpysgn then .row vb else .none)).2 num6 (if f = .cpysgn then .row vb else .none) →
      exec (.vun g xt v f vd va vb) s = done (drawn num6 (if f = .cpysgn then .row vb else .none)).2 3 fun k =>
        (if n.f.isFloat3 then vunFloat f n.f (l.lane n.a k) (l.lane n.b k) else vunInt f l.e (l.lane n.a k) (l.lane n.b k), 0))

/-- (1) R331, R326, R245: the lane-wise float instructions, with a row or a literal as second source: each lane is the
exact result of the operation on the flushed operands, rounded once, in place after 3 or 4 cycles. The hypotheses say
that the sources, the mask and the old destination can be read. (2) R331, R335, R336: the lane-wise selections, sign
operations and special functions. Where the spec leaves a reading open this takes the model's own: notes/assumptions
36, 37, 38, 58. -/
def Obligations.FloatLanes : Prop :=
  Stated.FloatLaneResults ∧ Stated.FloatLaneSelections

/-- R332, R333, R246: the lane-wise integer instructions: the exact result, clamped under SAT INT, else wrapped. -/
def Stated.IntegerLaneResults : Prop :=
  ∀ (s : State) (g : Guard) (x : Prefix) (v : VCtl) (vd va vb : R9) (lit : W32) (r : VB) (n : VIn) (mk : MaskVal) (po : Bool),
    Acts s g → (r = .row vb ∨ r = .lit lit) →
    let m := modOf x
    let old := if Mask.merges v.m then some vd else none
    let ds := s.draw (drawCount m (VRange.bits v.r / (opFmt int3 (Dec.xOf x) (s.vecTags va r old)).width))
    ds.2.vecIn (Dec.xOf x) int3 va r old false = .ok n → ds.2.maskIn (Dec.xOf x) v.m = .ok mk →
    ds.2.oldIn (Dec.xOf x) v.m vd.toNat n.f = .ok po →
    let l := lanesOf v.r n.f.width
    let e := n.f.width
    let i (row literal : Instr) : Instr := if r = .row vb then row else literal
    let done (lat : Nat) (out : Nat → Nat → Nat → Nat) : Host.Outcome State Fault Refusal :=
      .next (ds.2.pushLanes vd.toNat n.f (gpoi s g || n.poi || po) lat l mk
        ((List.range l.n).map fun k => (out k (l.lane n.a k) (l.lane n.b k), 0))).performed
    let sg := toSigned e
    (∀ sub, exec (i (.viadd g x v sub vd va vb) (.viaddLit g x v sub vd va lit)) s =
      done 3 fun _ a b => intOut e m.sat (if sub then sg a - sg b else sg a + sg b)) ∧
    (∀ f, exec (i (.vimul g x v f vd va vb) (.vimulLit g x v f vd va lit)) s = done 4 fun k a b => match f with
      | .lo => intOut e m.sat (sg a * sg b)
      | .his => ofSigned e (sg a * sg b / 2 ^ e)
      | .hiu => a * b / 2 ^ e
      | .q => intOut e m.sat (roundShift m (ds.1.getD k 0) (sg a * sg b) (e - 1))) ∧
    (exec (i (.vshl g x v vd va vb) (.vshlLit g x v vd va lit)) s = done 3 fun _ a b => intOut e m.sat (sg a * 2 ^ Min.min b e)) ∧
    (∀ f, exec (i (.vshr g x v f vd va vb) (.vshrLit g x v f vd va lit)) s = done 3 fun k a b => match f with
      | .l => a / 2 ^ Min.min b e
      | .a => ofSigned e (sg a / 2 ^ Min.min b e)
      | .ar => ofSigned e (roundShift m (ds.1.getD k 0) (sg a) (Min.min b (e + 17)))) ∧
    (∀ f xt, x = Dec.ofX xt → exec (i (.vimm g xt v f vd va vb) (.vimmLit g xt v f vd va lit)) s = done 3 fun _ a b => match f with
      | .min => if sg b < sg a then b else a
      | .max => if sg a < sg b then b else a
      | .minu => Min.min a b
      | .maxu => Max.max a b)

/-- R334, R338: the bitwise vector instructions and the select by mask row. -/
def Stated.BitwiseLaneResults : Prop :=
  ∀ (s : State) (g : Guard) (x : Option Fmt) (v : VCtl) (vd va vb vn : R9) (lit : W32), Acts s g →
    s.rowOk va.toNat = true → s.rowOk vd.toNat = true →
    let a := rreg s va
    let old := if Mask.merges v.m then some vd else none
    let done (f : Fmt) (p : Bool) (r : VRange) (mk : MaskVal) (w : Nat → Row) : Host.Outcome State Fault Refusal :=
      .next (s.pushLanes vd.toNat f p 3 (lanesOf r f.width) mk
        ((List.range (lanesOf r f.width).n).map fun k => ((lanesOf r f.width).lane (w k) k, 0))).performed
    (∀ f mk po, s.maskIn x v.m = .ok mk → s.oldIn x v.m vd.toNat f = .ok po →
      (let ops := (s.vecTags va (.row vb) old).map (·.1);
        s.rowOk vb.toNat = true → bitwiseFmt (readAs x ops a.fmt) (readAs x ops (rreg s vb).fmt) = .ok f →
        let b := rreg s vb
        let p := gpoi s g || a.poi || b.poi || po
        exec (.vand g x v vd va vb) s = done f p v.r mk (fun _ => a.bits &&& b.bits) ∧
        exec (.vor g x v vd va vb) s = done f p v.r mk (fun _ => a.bits ||| b.bits) ∧
        exec (.vxor g x v vd va vb) s = done f p v.r mk (fun _ => a.bits ^^^ b.bits) ∧
        exec (.vandn g x v vd va vb) s = done f p v.r mk (fun _ => a.bits &&& ~~~b.bits)) ∧
      (readAs x ((s.vecTags va (.lit lit) old).map (·.1)) a.fmt = f →
        let b := litRow f.width lit
        let p := gpoi s g || a.poi || po
        exec (.vandLit g x v vd va lit) s = done f p v.r mk (fun _ => a.bits &&& b) ∧
        exec (.vorLit g x v vd va lit) s = done f p v.r mk (fun _ => a.bits ||| b) ∧
        exec (.vxorLit g x v vd va lit) s = done f p v.r mk (fun _ => a.bits ^^^ b) ∧
        exec (.vandnLit g x v vd va lit) s = done f p v.r mk (fun _ => a.bits &&& ~~~b))) ∧
    (∀ r, s.rowOk vb.toNat = true → s.rowOk vn.toNat = true →
      let f := if x = some a.fmt then (rreg s vb).fmt else a.fmt
      let p := gpoi s g || a.poi || (rreg s vb).poi || (rreg s vn).poi
      (rreg s vb).fmt = f ∨ x = some (rreg s vb).fmt → (rreg s vn).fmt = .msk ∨ x = some (rreg s vn).fmt →
      exec (.vsel g x r vd va vb vn) s = done f p r ⟨none, false, false⟩ fun k =>
        if (rreg s vn).bits.getLsbD (VRange.low r / f.width + k) then a.bits else (rreg s vb).bits)

/-- R337: VCMP writes one bit a lane at the lane's element index, tagged MSK, after 2 cycles. -/
def Stated.LaneCompares : Prop :=
  ∀ (s : State) (g : Guard) (x : Prefix) (v : VCtl) (r : VRel) (vd va vb : R9) (lit : W32) (b : VB) (n : VIn) (mk : MaskVal)
    (po : Bool), Acts s g → (b = .row vb ∨ b = .lit lit) →
    let m := modOf x
    let u := (s.draw (drawCount m (VRange.bits v.r / Fmt.msk.width))).2
    let old := if Mask.merges v.m then some vd else none
    u.vecIn (Dec.xOf x) num6 va b old false = .ok n → u.maskIn (Dec.xOf x) v.m = .ok mk →
    u.oldIn (Dec.xOf x) v.m vd.toNat .msk = .ok po →
    ((r = .un ∨ r = .ord) → n.f.isFloat3 = true) →
    ((r = .ltu ∨ r = .leu ∨ r = .gtu ∨ r = .geu) → n.f.isFloat3 = false) →
    let l := lanesOf v.r n.f.width
    let num (w : Row) (k : Nat) : FNum := flushOperand m.ftz n.f (n.f.value (l.lane w k))
    exec (if b = .row vb then .vcmp g x v r vd va vb else .vcmpLit g x v r vd va lit) s =
      .next (u.pushLanes vd.toNat .msk (gpoi s g || n.poi || po) 2 ⟨l.m0, 1, l.n, l.m0⟩ mk ((List.range l.n).map fun k =>
        if n.f.isFloat3 then ((floatRel r (num n.a k) (num n.b k)).toNat,
          flagIf ((num n.a k).isSNaN || (num n.b k).isSNaN) fNV)
        else ((intRel r l.e (l.lane n.a k) (l.lane n.b k)).toNat, 0))).performed

/-- (1) R332, R333, R246: the lane-wise integer instructions: the exact result, clamped under SAT INT, else wrapped.
(2) R334, R338: the bitwise vector instructions and the select by mask row. (3) R337: VCMP writes one bit a lane at
the lane's element index, tagged MSK, after 2 cycles. Where the spec leaves a reading open this takes the model's own:
notes/assumptions 36, 37, 38, 58. -/
def Obligations.IntegerLanes : Prop :=
  Stated.IntegerLaneResults ∧ Stated.BitwiseLaneResults ∧ Stated.LaneCompares

/-- R264, R267, R268: a lane-wise result in its row: an enabled lane of the range takes its value, a masked one keeps its
old value under MERGE and becomes zero under ZERO, and every bit outside the range stays; the row takes the result's tag
and poison, and the flags of enabled lanes alone are ORed into FSTAT. -/
def Stated.LaneWritesLand : Prop :=
  ∀ (s : State) (x y : Nat) (vd lat : Nat) (f : Fmt) (p : Bool) (r : VRange) (mk : MaskVal) (vs : List (Nat × FFlags)),
    InTask s x y → VRange.legal r = true →
    let l := lanesOf r f.width
    vs.length = l.n → (∀ e ∈ vs, e.1 < 2 ^ f.width) →
    let u := s.pushLanes vd f p lat l mk vs
    ∃ z, u.ctx.latches = s.ctx.latches ++ [z] ∧ z.due = s.lcycOf (tileKey x y) + lat ∧
      let row := ((u.landAt (.task x y) z).tile (tileKey x y)).readV vd
      let old := (s.tile (tileKey x y)).readV vd
      row.fmt = f ∧ row.poi = (p || mk.poi) ∧
      (∀ k < l.n, elem f.width row.bits (l.m0 + k) =
        if mk.on (l.m0 + k) then (vs.getD k (0, 0)).1 else if mk.zero then 0 else elem f.width old.bits (l.m0 + k)) ∧
      (∀ b < 1024, (b < l.lo ∨ l.lo + f.width * l.n ≤ b) → row.bits.getLsbD b = old.bits.getLsbD b) ∧
      ((u.landAt (.task x y) z).ctxAt (.task x y)).fstat = (s.ctxAt (.task x y)).fstat |||
        ((List.range vs.length).foldl (fun a k => if mk.on (l.m0 + k) then a ||| (vs.getD k (0, 0)).2 else a) 0)

/-- R326, R260, R330: when a vector instruction's sources can be read, without an XTAG: the rows are granted, the first
carries an accepted format, and the others carry the same one. -/
def Stated.VectorSourcesRead : Prop :=
  ∀ (s : State) (acc : List Fmt) (va vb vd : R9) (lit : W32) (accu : Bool), s.rowOk va.toNat = true →
    (rreg s va).fmt ∈ acc → (accu = true → s.rowOk vd.toNat = true ∧ (rreg s vd).fmt = (rreg s va).fmt) →
    let f := (rreg s va).fmt
    let d := if accu then (rreg s vd).bits else 0
    let pd := accu && (rreg s vd).poi
    (s.rowOk vb.toNat = true → (rreg s vb).fmt = f →
      s.vecIn none acc va (.row vb) (some vd) accu =
        .ok ⟨f, (rreg s va).bits, (rreg s vb).bits, d, (rreg s va).poi || (rreg s vb).poi || pd⟩) ∧
    s.vecIn none acc va (.lit lit) (some vd) accu =
      .ok ⟨f, (rreg s va).bits, litRow f.width lit, d, (rreg s va).poi || false || pd⟩ ∧
    s.vecIn none acc va .none (some vd) accu = .ok ⟨f, (rreg s va).bits, 0, d, (rreg s va).poi || false || pd⟩

/-- (1) R264, R267, R268: a lane-wise result in its row: an enabled lane of the range takes its value, a masked one
keeps its old value under MERGE and becomes zero under ZERO, and every bit outside the range stays; the row takes the
result's tag and poison, and the flags of enabled lanes alone are ORed into FSTAT. (2) R326, R260, R330: when a vector
instruction's sources can be read, without an XTAG: the rows are granted, the first carries an accepted format, and
the others carry the same one. Where the spec leaves a reading open this takes the model's own: notes/assumptions 58.
-/
def Obligations.LaneWrites : Prop :=
  Stated.LaneWritesLand ∧ Stated.VectorSourcesRead

/-- R339 to R341, R248, R249: the conversions, block quantisation and its inverse; the scales are formed from what is not
flushed; an infinite element of VQNT raises NV alone, and a signalling one of VDQ raises NV whatever its scale. -/
def Stated.Conversions : Prop :=
  ∀ (s : State) (g : Guard) (x : Prefix) (v : VCtl) (t : Fmt) (p : B3) (soff vd va : R9) (n : VIn) (mk : MaskVal) (po : Bool),
    Acts s g →
    let m := modOf x
    let xt := Dec.xOf x
    let ew := Max.max n.f.width t.width
    let nw := Min.min n.f.width t.width
    let cl := cvtLanes v.r n.f.width t.width p.toNat
    let ds := s.draw (drawCount m (VRange.bits v.r / t.width))
    let old := if Mask.merges v.m then some vd else none
    let poi := gpoi s g || n.poi || po
    let reads (u : State) (acc : List Fmt) : Prop := u.vecIn xt acc va .none old false = .ok n ∧ u.maskIn xt v.m = .ok mk ∧
      u.oldIn xt v.m vd.toNat t = .ok po
    (reads ds.2 cvtSources → (t = .scl → n.f.isFloat = true) → p.toNat < ew / nw →
      exec (.vcvt g x v t p vd va) s = .next (ds.2.pushLanes vd.toNat t poi 4 cl.2 mk
        ((List.range cl.2.n).map fun k => convElem m (ds.1.getD k 0) n.f t (cl.1.lane n.a k))).performed) ∧
    (reads ds.2 fl3 → 16 ∣ cl.1.n → p.toNat < n.f.width / t.width → ds.2.rowOk (vd.toNat + 1) = true →
      let rd : Mod := { m with ftz := m.ftz && t != .d2 }
      let lane (k : Nat) : FNum := flushOperand rd.ftz n.f (n.f.value (cl.1.lane n.a k))
      let kept (k : Nat) : FNum := flushOperand false n.f (n.f.value (cl.1.lane n.a k))
      let scales := (List.range (cl.1.n / 16)).map fun b => blockScale t ((List.range 16).map fun j => kept (16 * b + j))
      let sc (b : Nat) : Nat × FFlags := scales.getD b (0, 0)
      let on (b : Nat) : Bool := (List.range 16).any fun j => mk.on (cl.2.m0 + 16 * b + j)
      let q : Lanes := ⟨8 * soff.toNat, 8, scales.length, soff.toNat⟩
      let elems := (List.range cl.2.n).map fun k =>
        let e := unscale (sc (k / 16)).1 (lane k)
        let w := t.write m (ds.1.getD k 0) (exactly e)
        if e.isInf then (w.1, fNV) else w
      exec (.vqnt g x v t p soff vd va) s = .next ((ds.2.pushLanes vd.toNat t poi 4 cl.2 mk elems).pushV (vd.toNat + 1) .scl
        (poi || mk.poi) 4 (q.pack (scales.map (·.1))) (q.ones ((List.range scales.length).map on))
        ((List.range scales.length).foldl (fun f b => if on b then f ||| (sc b).2 else f) 0)).performed) ∧
    (reads ds.2 [.e4m3, .e5m2, .e2m1, .d2] → ds.2.rowOk (va.toNat + 1) = true → p.toNat < t.width / n.f.width →
      let rs := (ds.2.tile ds.2.myKey).readV (va.toNat + 1)
      rs.fmt = .scl ∨ xt = some rs.fmt →
      exec (.vdq g x v t p soff vd va) s = .next (ds.2.pushLanes vd.toNat t (gpoi s g || n.poi || rs.poi || po) 4 cl.2 mk
        ((List.range cl.2.n).map fun k =>
          let sc := elem 8 rs.bits (soff.toNat + k / 16)
          let w := flushOperand m.ftz n.f (n.f.value (cl.1.lane n.a k))
          t.write m (ds.1.getD k 0) (exactly (if sc = 255 then .nan w.isSNaN else w.scale ((sc : Int) - 127))))).performed)

/-- R339 to R341, R248, R249: the conversions, block quantisation and its inverse; the scales are formed from what is
not flushed; an infinite element of VQNT raises NV alone, and a signalling one of VDQ raises NV whatever its scale.
Where the spec leaves a reading open this takes the model's own: notes/assumptions 37, 38, 58. -/
def Obligations.LaneConversions : Prop :=
  Stated.Conversions

/-- R342, R248, R249, R254 to R256: reductions and scans over the enabled lanes, the identity standing in a masked one's place;
of two VIX pairs the winner, flushed under FTZ, with NV for a signalling one. -/
def Stated.Reductions : Prop :=
  ∀ (s : State) (g : Guard) (x : Prefix) (v : VCtl) (op : RedOp) (vd va : R9) (n : VIn) (mk : MaskVal) (po : Bool), Acts s g →
    let m := modOf x
    let xt := Dec.xOf x
    let old := if Mask.merges v.m then some vd else none
    let lanes := VRange.bits v.r / (opFmt (redFmts op) xt (s.vecTags va .none old)).width
    let ds := s.draw (if op = .sum ∧ m.rnd = .rsr then lanes - 1 else 0)
    ds.2.vecIn xt (redFmts op) va .none old false = .ok n → ds.2.maskIn xt v.m = .ok mk →
    ds.2.oldIn xt v.m vd.toNat n.f = .ok po →
    let l := lanesOf v.r n.f.width
    let term (k : Nat) : Nat := if mk.on (l.m0 + k) then l.lane n.a k else redIdentity op n.f
    let terms := (List.range l.n).map term
    let node := redNode op n.f m
    let first := if n.f.isFloat3 then
        (wrPick n.f (flushOperand m.ftz n.f (n.f.value (terms.headD 0)), 0)).1
      else match op with
        | .maxi => pickVix true (flushVix m.ftz (terms.headD 0)) (flushVix m.ftz (terms.headD 0))
        | .mini => pickVix false (flushVix m.ftz (terms.headD 0)) (flushVix m.ftz (terms.headD 0))
        | .sum | .max | .min => terms.headD 0
    let fold := (first, 0) :: scanFold node (terms.headD 0) terms.tail ds.1
    let poi := gpoi s g || n.poi || po
    let signals (b : Nat) : Bool := (Fmt.fp32.value (b % 2 ^ 32)).isSNaN
    (op = .maxi ∨ op = .mini → ∀ d b c, node d b c =
      (pickVix (op == .maxi) (flushVix m.ftz b) (flushVix m.ftz c), flagIf (signals b || signals c) fNV)) ∧
    (∀ b, flushVix true b = if (Fmt.fp32.value (b % 2 ^ 32)).isZero ∨ b / 2 ^ 23 % 256 ≠ 0 then b
      else b / 2 ^ 31 % 2 * 2 ^ 31 + b / 2 ^ 32 * 2 ^ 32) ∧
    exec (.vred g x v op vd va) s = .next (ds.2.pushLanes vd.toNat n.f (poi || mk.poi) 6 ⟨l.lo, l.e, 1, l.m0⟩
      ⟨none, false, false⟩ [redTree node 11 terms ds.1 0]).performed ∧
    exec (.vscan g x v op false vd va) s = .next (ds.2.pushLanes vd.toNat n.f poi 6 l mk fold).performed ∧
    exec (.vscan g x v op true vd va) s =
      .next (ds.2.pushLanes vd.toNat n.f poi 6 l mk ((redIdentity op n.f, 0) :: fold.dropLast)).performed

/-- R342, R248, R249, R254 to R256: reductions and scans over the enabled lanes, the identity standing in a masked
one's place; of two VIX pairs the winner, flushed under FTZ, with NV for a signalling one. Where the spec leaves a
reading open this takes the model's own: notes/assumptions 36, 37, 38, 58. -/
def Obligations.LaneReductions : Prop :=
  Stated.Reductions

/-- R343 to R347, R350: permutes, shuffles, broadcasts, moves and classes, lane by lane. -/
def Stated.LaneMoves : Prop :=
  ∀ (s : State) (g : Guard) (x : Option Fmt) (v : VCtl) (vd va vb : R9) (mk : MaskVal) (po : Bool) (f : Fmt), Acts s g →
    s.rowOk va.toNat = true →
    let a := rreg s va
    let l := lanesOf v.r f.width
    let old := if Mask.merges v.m then some vd else none
    let p := gpoi s g || a.poi || po
    let done (lat : Nat) (q : Bool) (w : Nat → Nat) : Host.Outcome State Fault Refusal :=
      .next (s.pushLanes vd.toNat f q lat l mk ((List.range l.n).map fun k => (w k, 0))).performed
    let ready (y : Option Fmt) : Prop := s.maskIn y v.m = .ok mk ∧ s.oldIn y v.m vd.toNat f = .ok po
    (ready x → opFmtOk permFmts x (s.vecTags va (.row vb) old) = .ok f → s.rowOk vb.toNat = true →
      (rreg s vb).fmt = .i8 ∨ x = some (rreg s vb).fmt → ∀ wrap,
      exec (.vperm g x v wrap vd va vb) s = done 3 (gpoi s g || a.poi || (rreg s vb).poi || po) fun k =>
        let j := elem 8 (rreg s vb).bits (l.m0 + k)
        if j < l.n then l.lane a.bits j else if wrap then l.lane a.bits (j % l.n) else 0) ∧
    (ready x → opFmtOk shufFmts x (s.vecTags va .none old) = .ok f →
      exec (.vshuf g x v .bitrev vd va vb) s = done 3 p (fun k => l.lane a.bits (brev (Nat.log2 l.n) k)) ∧
      exec (.vshuf g x v .dilv vd va vb) s = done 3 p (fun k =>
        if k < l.n / 2 then l.lane a.bits (2 * k) else l.lane a.bits (2 * (k - l.n / 2) + 1)) ∧
      ∀ r, exec (.vshuf g x v (.rotl r) vd va vb) s = done 3 p (fun k => l.lane a.bits ((k + l.n - r.toNat % l.n) % l.n))) ∧
    (ready x → opFmtOk shufFmts x (s.vecTags va (.row vb) old) = .ok f → s.rowOk vb.toNat = true →
      (rreg s vb).fmt = f ∨ x = some (rreg s vb).fmt → ∀ hi,
      exec (.vshuf g x v (.ilv hi) vd va vb) s = done 3 (gpoi s g || (a.poi || (rreg s vb).poi) || po) fun k =>
        let j := (if hi then l.n / 2 else 0) + k / 2
        if k % 2 = 0 then l.lane a.bits j else l.lane (rreg s vb).bits j) ∧
    (ready none → a.fmt = f →
      (∀ k, exec (.vbcL g v vd va k) s = done 3 p fun _ => l.lane a.bits (k.toNat % l.n)) ∧
      exec (.vmov g v vd va) s = done 3 p fun k => l.lane a.bits k) ∧
    (ready none → exec (.vtag g v f vd va) s = done 3 p fun k => l.lane a.bits k) ∧
    (ready none → ∀ lit, exec (.vbcI g v f vd lit) s = done 3 (gpoi s g || po) fun _ => lit.toNat % 2 ^ f.width) ∧
    (ready none → ∀ b : R9, exec (.viota g v f vd b) s = done 3 (gpoi s g || po) fun k =>
      if f.isInt then (l.m0 + k + b.toNat) % 2 ^ f.width
      else (f.write Mod.plain 0 (exactly (.fin false (l.m0 + k + b.toNat) 0))).1) ∧
    (∀ cls w, opFmtOk (if cls then int3 else fl3) x (s.vecTags va .none old) = .ok w → ready x →
      f = (if cls then w else if w = .fp32 then .i32 else .i16) →
      exec (.vcls g x v cls vd va) s = done 3 p fun k => if cls then signBits w.width (l.lane a.bits k) else classBit w (l.lane a.bits k))

/-- R346, R351: moves between a scalar and one lane of a row, and what VMSK counts. -/
def Stated.LaneToScalar : Prop :=
  ∀ (s : State) (g : Guard) (x : Option Fmt) (r : VRange) (d a : R5) (va vd : R9) (k : Byte), Acts s g →
    (s.rowOk va.toNat = true →
      let w := rreg s va
      let l := lanesOf r w.fmt.width
      let e := l.lane w.bits (k.toNat % l.n)
      let out (f : Fmt) (z : W64) : Host.Outcome State Fault Refusal := .next (s.pushS d f (gpoi s g || w.poi) 3 z 0).performed
      (w.fmt.isInt = true → exec (.vext g x r d va k) s = out .i32 (BitVec.ofInt 64 (toSigned l.e e))) ∧
      (w.fmt = .fp32 → exec (.vext g x r d va k) s = out .fp32 (BitVec.ofNat 64 e)) ∧
      (w.fmt.isInt = false → w.fmt ≠ .fp32 → exec (.vext g x r d va k) s = out .raw (BitVec.ofNat 64 e)) ∧
      (w.fmt = .msk ∨ x = some w.fmt →
        let bs := (List.range (VRange.bits r)).map fun i => w.bits.getLsbD (VRange.low r + i)
        exec (.vmsk g x r .count d va) s = out .i32 (BitVec.ofNat 64 (bs.takeWhile fun b => b).length) ∧
        exec (.vmsk g x r .first d va) s = out .i32 (BitVec.ofNat 64 (bs.takeWhile fun b => !b).length) ∧
        exec (.vmsk g x r .popc d va) s = out .i32 (BitVec.ofNat 64 (bs.filter fun b => b).length))) ∧
    (s.rowOk vd.toNat = true →
      let o := rreg s vd
      let f := (sreg s a).fmt
      let fits : Prop := f = .raw ∨ (f = .i32 ∧ o.fmt.isInt = true) ∨ (f = .fp32 ∧ o.fmt = .fp32) ∨ x = some f
      ∀ e, (fits ∧ e = o.fmt.width) ∨ (¬ fits ∧ x = some o.fmt ∧ e = f.width) →
      let l := lanesOf r e
      let j := k.toNat % l.n
      exec (.vins g x r vd a k) s = .next (s.pushLanes vd.toNat o.fmt (gpoi s g || (sreg s a).poi || o.poi) 3
        ⟨l.lo + j * l.e, l.e, 1, l.m0 + j⟩ ⟨none, false, false⟩ [((sreg s a).v.toNat % 2 ^ l.e, 0)]).performed)

/-- R348, R349: complex products and butterflies: each part exact, rounded once. -/
def Stated.ComplexLanes : Prop :=
  ∀ (s : State) (g : Guard) (x : Prefix) (v : VCtl) (vd va vb : R9) (n : VIn) (mk : MaskVal) (po pn : Bool) (b : Bool), Acts s g →
    let m := modOf x
    let xt := Dec.xOf x
    let drawn (old : Option R9) : List Nat × State :=
      s.draw (drawCount m (VRange.bits v.r / (opFmt fl3 xt (s.vecTags va (.row vb) old)).width))
    let l := lanesOf v.r n.f.width
    let c (w : Row) (j : Nat) : Cplx := cplxAt m n.f l w j
    let out (ds : List Nat) (k : Nat) (q : FNum × FFlags) : Nat × FFlags :=
      ((n.f.write m (ds.getD k 0) (exactly q.1)).1, q.2 ||| (n.f.write m (ds.getD k 0) (exactly q.1)).2)
    let reads (u : State) (old : Option R9) (accu : Bool) : Prop := u.vecIn xt fl3 va (.row vb) old accu = .ok n ∧
      u.maskIn xt v.m = .ok mk ∧ u.oldIn xt v.m vd.toNat n.f = .ok po
    (let old := if Mask.merges v.m then some vd else none;
      reads (drawn old).2 old false →
      exec (.vcmul g x v b vd va vb) s = .next ((drawn old).2.pushLanes vd.toNat n.f (gpoi s g || n.poi || po) 4 l mk
        ((List.range l.n).map fun k =>
          let q := c n.b (k / 2)
          out (drawn old).1 k (cplxMulPart m.rnd (c n.a (k / 2)) (if b then ⟨q.re, q.im.negate⟩ else q) (k % 2 == 1)))).performed) ∧
    (reads (drawn (some vd)).2 (some vd) true → (drawn (some vd)).2.oldIn xt v.m (vd.toNat + 1) n.f = .ok pn →
      let part (k : Nat) : (FNum × FFlags) × (FNum × FFlags) := bflyPart b m.rnd (c n.d (k / 2)) (c n.a (k / 2)) (c n.b (k / 2)) (k % 2 == 1)
      let poi := gpoi s g || n.poi || po || pn
      let ds := (drawn (some vd)).1
      exec (.vbfly g x v b vd va vb) s = .next (((drawn (some vd)).2.pushLanes vd.toNat n.f poi 5 l mk
        ((List.range l.n).map fun k => out ds k (part k).1)).pushLanes (vd.toNat + 1) n.f poi 5 l mk
        ((List.range l.n).map fun k => out ds k (part k).2)).performed)

/-- (1) R343 to R347, R350: permutes, shuffles, broadcasts, moves and classes, lane by lane. (2) R346, R351: moves
between a scalar and one lane of a row, and what VMSK counts. (3) R348, R349: complex products and butterflies: each
part exact, rounded once. Where the spec leaves a reading open this takes the model's own: notes/assumptions 36, 37,
38, 58. -/
def Obligations.LanePermutes : Prop :=
  Stated.LaneMoves ∧ Stated.LaneToScalar ∧ Stated.ComplexLanes

/-- R374, R183, R78: what an access of the LD or ST slot finds wrong, in the order of the checks: alignment 0x07/2, the
task window and the SRAM 0x07/1, a store into the code region 0x07/3, what the tile has lent, the top 24 KiB for each bank and
the banks themselves, 0x07/4.
Where the spec leaves a reading open this takes the model's own: notes/assumptions 39. -/
def Obligations.LocalAccessChecks : Prop :=
  ∀ (s : State) (w al : Bool) (a n : Nat), 0 < n →
    let b := s.bankOf s.myKey
    let h := (s.tile s.myKey).health
    let inside := a + n ≤ 1024 * b.foot ∧ a + n ≤ 0x180000
    let code := w = true ∧ a < b.ioff + 64 * b.nbun ∧ b.ioff < a + n
    let lent := 0x180000 - 24576 * h.lent.toNat < a + n ∨ ∃ i ∈ wordsOf a n, h.gave (i % 64) = true
    (al = false → s.localAccess w al [(a, n)] = .error (7, 2)) ∧
    (al = true → ¬ inside → s.localAccess w al [(a, n)] = .error (7, 1)) ∧
    (al = true → inside → code → s.localAccess w al [(a, n)] = .error (7, 3)) ∧
    (al = true → inside → ¬ code → lent → s.localAccess w al [(a, n)] = .error (7, 4)) ∧
    (∀ lag, s.localAccess w al [(a, n)] = .ok lag → al = true ∧ inside ∧ ¬ code ∧ ¬ lent) ∧
    (al = true → inside → ¬ code → ¬ lent → n ≤ 128 → h.nlost = 0 → (s.tile s.myKey).task.latches = [] →
      (s.tile s.myKey).commands = [] → (s.tile s.myKey).ops = [] → (s.tile s.myKey).wroteAt ≤ s.now →
      s.localAccess w al [(a, n)] = .ok 0)

/-- R375, R377, R378, R380, R381: the loads: a pending read of the bytes at base + offset, in place after 6 cycles in a
row and 5 in a scalar, tagged as the instruction says; LDB also moves its base; a speculative load is marked. -/
def Stated.LoadsIssued : Prop :=
  ∀ (s : State) (g : Guard) (r : VRange) (t : Fmt) (b d : R5) (v : R9) (o23 : BitVec 23) (o6 : BitVec 6) (o32 : W32) (sz : Size)
    (lag : Nat), Acts s g → IntReg s b → (sreg s b).poi = false →
    let base := (sreg s b).v
    let gp := gpoi s g
    let n := match sz with
      | .b => 1 | .h => 2 | .w => 4 | .d => 8
    let row (i : Instr) (rs : List PendRead) (spec : Bool) : Prop := exec i s =
      .next (s.pushLoad .row v.toNat t gp 6 lag (byteMask (VRange.low r / 8) (VRange.bits r / 8)) rs spec).performed
    let one (a : Nat) (spec : Bool) : State := s.pushLoad .scalar d.toNat .raw gp 5 lag allBits [⟨0, a, n⟩] spec
    let at_ (off : Int) : Nat := (BitVec.ofInt 64 (base.toInt + off)).toNat
    let k6 : Int := (o6.toNat * n : Nat)
    let can (a m k : Nat) : Prop := s.localAccess false (a % k == 0) [(a, m)] = .ok lag
    (s.rowOk v.toNat = true →
      (can (at_ o23.toInt) (VRange.bits r / 8) 16 →
        row (.ld g r t b v o23) [⟨VRange.low r / 8, at_ o23.toInt, VRange.bits r / 8⟩] false ∧
        row (.lds g r t b v o23) [⟨VRange.low r / 8, at_ o23.toInt, VRange.bits r / 8⟩] true) ∧
      (let e := gatherBytes t;
        let rs := (List.range (VRange.bits r / 8 / e)).map fun i =>
          (⟨VRange.low r / 8 + e * i, at_ (i * o23.toInt), e⟩ : PendRead)
        s.localAccess false (base.toNat % e == 0 && (BitVec.signExtend 64 o23).toNat % e == 0)
          (rs.map fun z => (z.addr, z.n)) = .ok lag → row (.ldt g r t b v o23) rs false)) ∧
    (can (at_ k6) n n → exec (.ldw g d b sz o6) s = .next (one (at_ k6) false).performed ∧
      exec (.ldws g d b sz o6) s = .next (one (at_ k6) true).performed) ∧
    (can (at_ o32.toInt) n n → exec (.ldwLong g d b sz o32) s = .next (one (at_ o32.toInt) false).performed ∧
      exec (.ldwsLong g d b sz o32) s = .next (one (at_ o32.toInt) true).performed) ∧
    (can base.toNat n n →
      exec (.ldb g d b sz o6) s =
        .next ((one base.toNat false).pushS b .i32 gp 1 (BitVec.ofInt 64 (base.toInt + k6)) 0).performed ∧
      exec (.ldbLong g d b sz o32) s =
        .next ((one base.toNat false).pushS b .i32 gp 1 (BitVec.ofInt 64 (base.toInt + o32.toInt)) 0).performed)

/-- R374, R377, R380, R381: a load from a poisoned base makes no access and poisons its destination, LDB its moved base too; a
speculative load that finds its address out of the window, misaligned or clashing does the same, at the cycle of a result
(R79), and does not trap. -/
def Stated.LoadsPoison : Prop :=
  ∀ (s : State) (g : Guard) (r : VRange) (t : Fmt) (b d : R5) (v : R9) (o23 : BitVec 23) (o6 : BitVec 6) (o32 : W32) (sz : Size),
    Acts s g → IntReg s b → s.rowOk v.toNat = true →
    let slot := s.cur.slot
    let n := match sz with
      | .b => 1 | .h => 2 | .w => 4 | .d => 8
    let one (lag : Nat) (u : State) : State := u.push (.poisoning .scalar slot d.toNat .raw s.now (s.now + 5 + lag))
    let off (k : Int) : BitVec 64 := BitVec.ofInt 64 ((sreg s b).v.toInt + k)
    let k6 : Int := (o6.toNat * n : Nat)
    let row (lag : Nat) (u : State) : State := u.push (.poisoning .row slot v.toNat t s.now (s.now + 6 + lag))
    let a := (BitVec.ofInt 64 ((sreg s b).v.toInt + o23.toInt)).toNat
    ((sreg s b).poi = true →
      (∀ i ∈ ([.ld g r t b v o23, .lds g r t b v o23, .ldt g r t b v o23] : List Instr), exec i s = .next (row 0 s).performed) ∧
      (∀ i ∈ ([.ldw g d b sz o6, .ldws g d b sz o6, .ldwLong g d b sz o32, .ldwsLong g d b sz o32] : List Instr),
        exec i s = .next (one 0 s).performed) ∧
      exec (.ldb g d b sz o6) s = .next (one 0 (s.pushS b .i32 true 1 (off k6) 0)).performed ∧
      exec (.ldbLong g d b sz o32) s = .next (one 0 (s.pushS b .i32 true 1 (off o32.toInt) 0)).performed) ∧
    ((sreg s b).poi = false → ∀ (e : Instr × Instr × Nat), e ∈ ([(.ldws g d b sz o6, .ldw g d b sz o6, (off k6).toNat),
        (.ldwsLong g d b sz o32, .ldwLong g d b sz o32, (off o32.toInt).toNat)] : List (Instr × Instr × Nat)) →
      ∀ f ∈ [(7, 1), (7, 2), (7, 4), (1, 2)], s.localAccess false (e.2.2 % n == 0) [(e.2.2, n)] = .error f →
      let lag := s.loadLag [(e.2.2, n)]
      exec e.1 s = .next (one lag (s.noteSpec f slot)).performed ∧
      exec e.2.1 s = .next ((s.raise f.1 f.2 slot).poisonDests [⟨.scalar, d.toNat, .raw, 5 + lag⟩])) ∧
    ((sreg s b).poi = false → ∀ f ∈ [(7, 1), (7, 2), (7, 4), (1, 2)],
      s.localAccess false (a % 16 == 0) [(a, VRange.bits r / 8)] = .error f →
      let lag := s.loadLag [(a, VRange.bits r / 8)]
      exec (.lds g r t b v o23) s = .next (row lag (s.noteSpec f slot)).performed ∧
      exec (.ld g r t b v o23) s = .next ((s.raise f.1 f.2 slot).poisonDests [⟨.row, v.toNat, t, 6 + lag⟩]))

/-- R384, R211: RECV takes the word of an arrival register, with its tag and poison, and empties it; an empty one traps
0x01, subcode 7. -/
def Stated.ReceiveTakesWord : Prop :=
  ∀ (s : State) (g : Guard) (v : R9) (p : Side), Acts s g → s.rowOk v.toNat = true →
    (∀ w, (s.tile s.myKey).arr p = some w → exec (.recv g v p) s =
      .next ((s.modTile s.myKey fun t => t.setArr p none).pushV v.toNat w.fmt (w.poi || gpoi s g) 1 w.bits allBits 0).performed) ∧
    ((s.tile s.myKey).arr p = none → exec (.recv g v p) s =
      .next ((s.raise 1 7 s.cur.slot).poisonDests [⟨.row, v.toNat, s.rowFmt v.toNat, 1⟩]))

/-- R375, R376, R379, R380: the stores: the bytes of the source pending at base + offset, written at the end of c + 1. -/
def Stated.StoresIssued : Prop :=
  ∀ (s : State) (g : Guard) (r : VRange) (b d : R5) (v : R9) (o23 : BitVec 23) (o6 : BitVec 6) (o32 : W32) (sz : Size)
    (lag : Nat), Acts s g → IntReg s b → (sreg s b).poi = false →
    let gp := gpoi s g
    let w := rreg s v
    let x := sreg s d
    let n := match sz with
      | .b => 1 | .h => 2 | .w => 4 | .d => 8
    let at_ (off : Int) : Nat := (BitVec.ofInt 64 ((sreg s b).v.toInt + off)).toNat
    let a := at_ o23.toInt
    let m := VRange.bits r / 8
    let can (a m k : Nat) : Prop := s.localAccess true (a % k == 0) [(a, m)] = .ok lag
    (s.rowOk v.toNat = true → can a m 16 →
      exec (.st g r b v o23) s = .next (s.pushStore (w.poi || gp) lag w.bits [⟨VRange.low r / 8, a, m⟩]).performed ∧
      exec (.stt g r w.fmt b v o23) s = .next (s.pushStore (w.poi || gp) lag w.bits [⟨VRange.low r / 8, a, m⟩]).performed) ∧
    (s.rowOk v.toNat = true → ∀ t, t ≠ w.fmt → exec (.stt g r t b v o23) s = .next (s.raise 2 3 s.cur.slot)) ∧
    (s.rowOk v.toNat = true → w.fmt = .vix → 128 ∣ a → s.window s.myKey true [(a, 128)] = .ok () →
      let z := scatter (lanesOf r 64) w.bits (VRange.bits r / 64)
      s.localAccess true true ((scatterPieces a z).map fun e => (e.addr, e.n)) = .ok lag →
      exec (.sct g r b v o23) s = .next (s.pushStore (w.poi || gp) lag
        (BitVec.ofNat 1024 (packNat 32 (z.map (·.getD 0)))) (scatterPieces a z)).performed) ∧
    (let k := at_ (o6.toNat * n : Nat); can k n n →
      exec (.stw g d b sz o6) s = .next (s.pushStore (x.poi || gp) lag (x.v.setWidth 1024) [⟨0, k, n⟩]).performed) ∧
    (let k := at_ o32.toInt; can k n n →
      exec (.stwLong g d b sz o32) s = .next (s.pushStore (x.poi || gp) lag (x.v.setWidth 1024) [⟨0, k, n⟩]).performed)

/-- R374: a store whose address is poisoned traps 0x03, subcode 2, and stores nothing. -/
def Stated.StoreToPoisonTraps : Prop :=
  ∀ (s : State) (g : Guard) (r : VRange) (b d : R5) (v : R9) (o23 : BitVec 23) (o6 : BitVec 6) (o32 : W32) (sz : Size),
    Acts s g → IntReg s b → (sreg s b).poi = true → s.rowOk v.toNat = true →
    (∀ i ∈ ([.st g r b v o23, .stt g r (rreg s v).fmt b v o23, .stw g d b sz o6, .stwLong g d b sz o32] : List Instr),
      exec i s = .next (s.raise 3 2 s.cur.slot)) ∧
    ((rreg s v).fmt = .vix → exec (.sct g r b v o23) s = .next (s.raise 3 2 s.cur.slot))

/-- R375, R376, R380, R202: a store's pieces reach the tile's SRAM when its latch falls due: each byte of a piece takes
its byte of the value, and every other byte of every tile, of device memory and of host memory reads as before. -/
def Stated.StoreWritesItsBytes : Prop :=
  ∀ (s : State) (x y : Nat) (l : Latch) (pos a n : Nat), l.kind = .sram → l.reads = [⟨pos, a, n⟩] → pos + n ≤ 128 →
    let k := tileKey x y
    let t := s.landAt (.task x y) l
    (∀ i < n, Memory.read (t.tile k).sram (a + i) = l.val.extractLsb' (8 * (pos + i)) 8) ∧
    (∀ b, (b < a ∨ a + n ≤ b) → Memory.read (t.tile k).sram b = Memory.read (s.tile k).sram b) ∧
    (∀ j, j ≠ k → (t.tile j).sram = (s.tile j).sram) ∧ t.dev = s.dev ∧ t.host = s.host ∧
    (∀ w, SameRegs (s.ctxAt w) (t.ctxAt w)) ∧ (t.tile k).rows = (s.tile k).rows ∧ (t.tile k).acc = (s.tile k).acc

/-- R376, R379, R202: the pieces of one store, which lie in its block as they lie in its value, reach the tile's SRAM together:
each byte of a piece takes its byte of the value, and every other byte of every tile, of device memory and of host memory
reads as before. -/
def Stated.ScatterWritesItsBytes : Prop :=
  ∀ (s : State) (x y a : Nat) (l : Latch), l.kind = .sram → (∀ r ∈ l.reads, r.addr = a + r.pos ∧ r.pos + r.n ≤ 128) →
    let k := tileKey x y
    let t := s.landAt (.task x y) l
    (∀ i < 128, Memory.read (t.tile k).sram (a + i) =
      if ∃ r ∈ l.reads, r.pos ≤ i ∧ i < r.pos + r.n then l.val.extractLsb' (8 * i) 8 else Memory.read (s.tile k).sram (a + i)) ∧
    (∀ b, (b < a ∨ a + 128 ≤ b) → Memory.read (t.tile k).sram b = Memory.read (s.tile k).sram b) ∧
    (∀ j, j ≠ k → (t.tile j).sram = (s.tile j).sram) ∧ t.dev = s.dev ∧ t.host = s.host ∧
    (∀ (v : Row) (r : VRange), ∀ e ∈ scatterPieces a (scatter (lanesOf r 64) v (VRange.bits r / 64)),
      e.addr = a + e.pos ∧ e.pos + e.n ≤ 128 ∧ 0 < e.n)

/-- (1) R375, R377, R378, R380, R381: the loads: a pending read of the bytes at base + offset, in place after 6 cycles
in a row and 5 in a scalar, tagged as the instruction says; LDB also moves its base; a speculative load is marked. (2)
R374, R377, R380, R381: a load from a poisoned base makes no access and poisons its destination, LDB its moved base
too; a speculative load that finds its address out of the window, misaligned or clashing does the same, at the cycle
of a result (R79), and does not trap. (3) R384, R211: RECV takes the word of an arrival register, with its tag and
poison, and empties it; an empty one traps 0x01, subcode 7. (4) R375, R376, R379, R380: the stores: the bytes of the
source pending at base + offset, written at the end of c + 1. (5) R374: a store whose address is poisoned traps 0x03,
subcode 2, and stores nothing. (6) R375, R376, R380, R202: a store's pieces reach the tile's SRAM when its latch falls
due: each byte of a piece takes its byte of the value, and every other byte of every tile, of device memory and of
host memory reads as before. (7) R376, R379, R202: the pieces of one store, which lie in its block as they lie in its
value, reach the tile's SRAM together: each byte of a piece takes its byte of the value, and every other byte of every
tile, of device memory and of host memory reads as before. Where the spec leaves a reading open this takes the model's
own: notes/assumptions 31, 32, 38, 39, 41. -/
def Obligations.LoadsAndStores : Prop :=
  Stated.LoadsIssued ∧ Stated.LoadsPoison ∧ Stated.ReceiveTakesWord ∧ Stated.StoresIssued ∧
    Stated.StoreToPoisonTraps ∧ Stated.StoreWritesItsBytes ∧ Stated.ScatterWritesItsBytes

/-- R181, R178: every step keeps the canonical form of every tile's SRAM, that of the tiles of a stabled launch among
them: addresses strictly rising, no entry that equals what an unlisted address reads as. -/
def Obligations.StepsKeepSramCanonical : Prop :=
  ∀ s t : State, SramCanonical s → step s = .next t → SramCanonical t

/-- R376: a store of the ST slot carries the poison of the stored register, and each 16-byte word that it touches takes it: a
word covered whole that poison, another the old poison or that poison; so a poisoned word becomes clean only through a
whole write of clean data. -/
def Obligations.StoresSetPoison : Prop :=
  (∀ (s t : State) (g : Guard) (r : VRange) (f : Fmt) (b d : R5) (v : R9) (o23 : BitVec 23) (o6 : BitVec 6) (o32 : W32) (sz : Size)
    (i : Instr) (p : Bool), gpoi s g = false →
    (i, p) ∈ ([(.st g r b v o23, (rreg s v).poi), (.stt g r f b v o23, (rreg s v).poi), (.sct g r b v o23, (rreg s v).poi),
      (.stw g d b sz o6, (sreg s d).poi), (.stwLong g d b sz o32, (sreg s d).poi)] : List (Instr × Bool)) →
    exec i s = .next t → ∀ l ∈ (t.ctxAt s.cur.who).latches, l ∉ (s.ctxAt s.cur.who).latches → l.kind = .sram ∧ l.poi = p) ∧
  ∀ (s : State) (x y w : Nat) (l : Latch), l.kind = .sram → (∀ r ∈ l.reads, 0 < r.n ∧ r.pos + r.n ≤ 128) →
    let old := sget false (s.tile (tileKey x y)).spoi w
    let new := sget false ((s.landAt (.task x y) l).tile (tileKey x y)).spoi w
    let whole : Prop := ∃ r ∈ l.reads, r.addr ≤ 16 * w ∧ 16 * w + 16 ≤ r.addr + r.n
    let touched : Prop := ∃ r ∈ l.reads, r.addr < 16 * w + 16 ∧ 16 * w < r.addr + r.n
    (whole → new = l.poi) ∧ (¬ whole → touched → new = (old || l.poi)) ∧ (¬ touched → new = old) ∧
      (old = true → new = false → whole ∧ l.poi = false)

/-- R268 to R270, R13, R327: of the results due in a cycle the earliest issued lands first, of one bundle that of the lowest
slot, but for a scalar of VEXT or VMSK, before which one of the SC slot in the same register lands; a load that is due reads its
bytes before the writes at the end of the cycle. -/
def Stated.ResultsLandInOrder : Prop :=
  ∀ (s : State) (w : Who) (l : Latch),
    let c := s.ctxAt w
    let n := s.nowAt w
    let early := c.latches.filter fun z => !z.atEnd && z.due ≤ n
    let late := c.latches.filter fun z => z.atEnd && z.due ≤ n
    let landed := (s.setCtxAt w { c with latches := c.latches.erase l }).landAt w l
    let first (zs : List Latch) (m : Latch) : Prop := m ∈ zs ∧
      ∀ z ∈ zs, z ≠ m → m.issued < z.issued ∨ (m.issued = z.issued ∧ m.slot < z.slot)
    let ahead (m z : Latch) : Prop := z ∈ early ∧ m.kind = .scalar ∧ (m.slot = 1 ∨ m.slot = 2) ∧ z.kind = .scalar ∧
      z.slot = 0 ∧ z.dest = m.dest
    ((∀ z ∈ early, z.kind ≠ .special) → first early l → (∀ z, ¬ ahead l z) → exec (.resultLanding w) s = .next landed) ∧
    ((∀ z ∈ early, z.kind ≠ .special) → ∀ m, first early m → ahead m l → (∀ z, ahead m z → z = l) →
      exec (.resultLanding w) s = .next landed) ∧
    (first (early.filter fun z => z.kind == .special) l → exec (.resultLanding w) s = .next landed) ∧
    (early = [] → (∀ z ∈ c.latches, z.readDue n = false) → first late l → exec (.resultLanding w) s = .next landed) ∧
    (early = [] → ∀ pre post, c.latches = pre ++ l :: post → l.readDue n = true → (∀ z ∈ pre, z.readDue n = false) →
      exec (.resultLanding w) s =
        .next ((s.setCtxAt w { c with latches := c.latches.map fun z => if z = l then s.readLatch w l else z }).detectAt w))

/-- R257, R268, R250: where a result lands: a scalar or a predicate takes it, but for s0 and p0, which discard it, and the
flags are ORed into FSTAT; every other register of the stream stays. -/
def Stated.ResultWritesItsRegister : Prop :=
  ∀ (s : State) (w : Who) (r : Nat) (f : Fmt) (p : Bool) (i u sl : Nat) (v : W64) (b : Bool) (fl : BitVec 5),
    let c := s.ctxAt w
    let sc := ((s.landAt w (.result .scalar sl r f p i u (v.setWidth 1024) allBits fl)).ctxAt w)
    let pr := ((s.landAt w (.result .pred sl r f p i u (BitVec.ofNat 1024 b.toNat) allBits fl)).ctxAt w)
    (r ≠ 0 → sc.readS r = ⟨v, f, p⟩ ∧ pr.readP r = ⟨b, p⟩) ∧
    sc.readS 0 = ⟨0, .i32, false⟩ ∧ pr.readP 0 = ⟨true, false⟩ ∧
    (∀ q, q ≠ r → sc.readS q = c.readS q ∧ pr.readP q = c.readP q) ∧
    sc.fstat = c.fstat ||| fl ∧ pr.fstat = c.fstat ||| fl ∧ sc.p = c.p ∧ pr.s = c.s ∧ sc.b = c.b ∧ pr.b = c.b

/-- R312, R313: a branch target takes the address, the prepared flag and the poison of its result, which drops what earlier
writes of it have still to prepare; the preparation of a PBR then sets its flag alone; every other register stays. -/
def Stated.TargetTakesPreparation : Prop :=
  ∀ (s : State) (w : Who) (r i u sl : Nat) (a : BitVec 15) (v p : Bool),
    let c := s.ctxAt w
    let t := (s.landAt w { Latch.result .btgt sl r .raw p i u (a.setWidth 1024) allBits 0 with prep := some v }).ctxAt w
    let z := (s.landAt w { Latch.poisoning .btgt sl r .raw i u with poi := false, prep := some true }).ctxAt w
    let preparing (m : Latch) : Prop := m.kind = .btgt ∧ m.dest = r ∧ m.en = 0 ∧ m.prep = some true ∧ m.issued ≤ i ∧
      ¬ (m.issued = i ∧ m.slot = sl)
    t.readB r = ⟨a, v, p⟩ ∧ z.readB r = { c.readB r with prep := true } ∧ (∀ m, m ∈ t.latches ↔ m ∈ c.latches ∧ ¬ preparing m) ∧
    z.latches = c.latches ∧ (∀ d ∈ [t, z], d.s = c.s ∧ d.p = c.p ∧ d.fstat = c.fstat ∧ ∀ q, q ≠ r → d.readB q = c.readB q)

/-- R161: a fault's latch leaves the old value of its register and sets its poison, with the tag of the would-be result. -/
def Stated.FaultPoisonsItsRegister : Prop :=
  ∀ (s : State) (w : Who) (r sl i u : Nat) (f : Fmt),
    let at_ (k : LatchKind) : State := s.landAt w (.poisoning k sl r f i u)
    (r ≠ 0 → ((at_ .scalar).ctxAt w).readS r = ⟨((s.ctxAt w).readS r).v, f, true⟩ ∧
      ((at_ .pred).ctxAt w).readP r = ⟨((s.ctxAt w).readP r).v, true⟩) ∧
    ((at_ .btgt).ctxAt w).readB r = { (s.ctxAt w).readB r with poi := true } ∧
    (∀ x y, w = .task x y → ((at_ .row).tile (tileKey x y)).readV r = ⟨((s.tile (tileKey x y)).readV r).bits, f, true⟩)

/-- (1) R268 to R270, R13, R327: of the results due in a cycle the earliest issued lands first, of one bundle that of
the lowest slot, but for a scalar of VEXT or VMSK, before which one of the SC slot in the same register lands; a load
that is due reads its bytes before the writes at the end of the cycle. (2) R257, R268, R250: where a result lands: a
scalar or a predicate takes it, but for s0 and p0, which discard it, and the flags are ORed into FSTAT; every other
register of the stream stays. (3) R312, R313: a branch target takes the address, the prepared flag and the poison of
its result, which drops what earlier writes of it have still to prepare; the preparation of a PBR then sets its flag
alone; every other register stays. (4) R161: a fault's latch leaves the old value of its register and sets its poison,
with the tag of the would-be result. Where the spec leaves a reading open this takes the model's own:
notes/assumptions 33. -/
def Obligations.ResultsLand : Prop :=
  Stated.ResultsLandInOrder ∧ Stated.ResultWritesItsRegister ∧ Stated.TargetTakesPreparation ∧
    Stated.FaultPoisonsItsRegister

/-- R354, R355, R353: MMA and MMAS enter the matrix engine at c: the accumulator tile takes the format of the products,
the command becomes its latest writer at c + 1 with the watermark at 0, and the operands are fixed as the instruction
says. -/
def Stated.MatrixCommandsIssue : Prop :=
  ∀ (s : State) (g : Guard) (z : Bool) (acc : B3) (nk : BitVec 8) (fa fb : Fmt) (va vb : R9), Acts s g →
    let k := s.myKey
    let t := s.tile k
    let l := s.lcycOf k
    let a := t.accAt acc.toNat
    let fp := fa != .i8
    let id := t.nextId + 1
    let cmd (scaled : Bool) (x y : Nat) : MxCmd :=
      ⟨id, l, nk.toNat + 1, acc.toNat, z, scaled, fa, fb, x, y, s.ctx.bundle, s.cur.slot, gpoi s g, [], 0, 0, 0⟩
    let taken (c : MxCmd) : State := s.setTile k { (t.setAcc acc.toNat { a with fp := fp }) with
      nextId := id, finals := t.finals ++ [⟨l + 1, acc.toNat, 32, none, 0, id⟩], mx := t.mx ++ [c] }
    (∀ c ∈ t.mx, c.c + 32 * c.n ≤ l) → (z = true ∨ a.fp = fp) →
    exec (.mma g z acc nk fa fb) s = .next (taken (cmd false 0 0)).performed ∧
    ((∀ v ∈ [va, vb], v.toNat + scaleRows fa * (nk.toNat + 1) ≤ Min.min 512 (s.bankOf k).rows) →
      exec (.mmas g z acc nk fa fb va vb) s = .next (taken (cmd true va.toNat vb.toNat)).performed)

/-- R358: MZERO, ALD and AADD write rows r0 on of an accumulator tile whose watermark is 32, final after 1, 2 and 3
cycles: zeros, the source rows, and the sum. -/
def Stated.PortWritesRows : Prop :=
  ∀ (s : State) (g : Guard) (acc : B3) (fp : Bool) (vs : R9) (r0 nr : R5), Acts s g →
    let k := s.myKey
    let a := (s.tile k).accAt acc.toNat
    let n := nr.toNat + 1
    let src (u : Nat) : RowReg := (s.tile k).readV (vs.toNat + u)
    let fits := vs.toNat + n ≤ Min.min 512 (s.bankOf k).rows ∧
      ∀ u < n, (src u).fmt = (if fp then .fp32 else .i32)
    let typed : State := s.setTile k ((s.tile k).setAcc acc.toNat { a with fp := fp })
    a.wm = 32 →
    ((a.fp = fp ∨ (r0 = 0 ∧ nr = 31)) →
      exec (.mzero g acc fp r0 nr) s =
        .next (typed.putRows acc.toNat r0.toNat 1 (List.replicate n ⟨0, gpoi s g⟩)).performed ∧
      (fits → exec (.ald g acc fp vs r0 nr) s = .next (typed.putRows acc.toNat r0.toNat 2
        ((List.range n).map fun u => ⟨(src u).bits, (src u).poi || gpoi s g⟩)).performed)) ∧
    (a.fp = fp → fits → exec (.aadd g acc fp vs r0 nr) s = .next (s.putRows acc.toNat r0.toNat 3
      ((List.range n).map fun u => ⟨accAdd fp (a.row (r0.toNat + u)).bits (src u).bits,
        (a.row (r0.toNat + u)).poi || (src u).poi || gpoi s g⟩)).performed)

/-- R359, R190: AMV reads rows of an accumulator tile below its watermark, AMVT columns of a whole tile; each result row
packs q of them converted to the target, in place after 4 cycles. A row that is not final traps 0x01, subcode 1. -/
def Stated.PortReadsRows : Prop :=
  ∀ (s : State) (g : Guard) (m : Option Mod) (acc : B3) (t : Fmt) (vd : R9) (r0 nr : R5), Acts s g →
    amvLegal t r0 nr = true →
    let k := s.myKey
    let a := (s.tile k).accAt acc.toNat
    let q := 32 / t.width
    let d := (nr.toNat + 1) / q
    let from_ : Fmt := if a.fp then .fp32 else .i32
    let conv (v : Nat) : Nat × FFlags := convElem (m.getD Mod.plain) 0 from_ t v
    let put (at_ : Nat → Nat → Nat) (poi : Nat → Bool) : State := (List.range d).foldl (fun s u =>
      let vs := (List.range (32 * q)).map fun i => conv (at_ (q * u + i / 32) (i % 32))
      s.pushV (vd.toNat + u) t (gpoi s g || (List.range q).any fun h => poi (q * u + h)) 4
        (BitVec.ofNat 1024 (packNat t.width (vs.map (·.1)))) allBits (vs.foldl (fun f v => f ||| v.2) 0)) s
    vd.toNat + d ≤ Min.min 512 (s.bankOf k).rows → (amvTargets a.fp).contains t = true →
    (r0.toNat + nr.toNat + 1 ≤ a.wm → exec (.amv g m acc t vd r0 nr) s =
      .next (put (fun u e => (a.row (r0.toNat + u)).elem e) fun u => (a.row (r0.toNat + u)).poi).performed) ∧
    (a.wm = 32 → exec (.amvt g m acc t vd r0 nr) s =
      .next (put (fun u e => (a.row e).elem (r0.toNat + u)) fun _ => (List.range 32).any fun r => (a.row r).poi).performed) ∧
    (a.wm < r0.toNat + nr.toNat + 1 → exec (.amv g m acc t vd r0 nr) s = .next ((s.raise 1 1 s.cur.slot).poisonDests
      ((List.range d).map fun u => ⟨.row, vd.toNat + u, t, 4⟩)))

/-- (1) R354, R355, R353: MMA and MMAS enter the matrix engine at c: the accumulator tile takes the format of the
products, the command becomes its latest writer at c + 1 with the watermark at 0, and the operands are fixed as the
instruction says. (2) R358: MZERO, ALD and AADD write rows r0 on of an accumulator tile whose watermark is 32, final
after 1, 2 and 3 cycles: zeros, the source rows, and the sum. (3) R359, R190: AMV reads rows of an accumulator tile
below its watermark, AMVT columns of a whole tile; each result row packs q of them converted to the target, in place
after 4 cycles. A row that is not final traps 0x01, subcode 1. Where the spec leaves a reading open this takes the
model's own: notes/assumptions 31, 32, 38, 41. -/
def Obligations.MatrixCommandsIssue : Prop :=
  Stated.MatrixCommandsIssue ∧ Stated.PortWritesRows ∧ Stated.PortReadsRows

/-- R355, R191, R356: a pop takes the heads of both troughs into the step; an empty trough gives a poisoned row of zeros
and traps 0x01, subcode 3. -/
def Stated.TroughsPopped : Prop :=
  ∀ (s : State) (x y : Nat) (m : MxCmd), let k := tileKey x y; let t := s.tile k
    t.mx.find? (·.popDue (s.lcycOf k)) = some m →
    let a := t.trA.headD ⟨0, true⟩
    let b := t.trB.headD ⟨0, true⟩
    let u := s.setTile k ({ t with trA := t.trA.tail, trB := t.trB.tail }.setMx
      { m.setStep (m.pops / 32) fun st => { st with a := st.a ++ [a], b := st.b ++ [b] } with pops := m.pops + 1 })
    (t.trA ≠ [] → t.trB ≠ [] → exec (.troughPop x y) s = .next u) ∧
    ((t.trA = [] ∨ t.trB = []) → exec (.troughPop x y) s = .next (u.raisePost k 1 3 m.slot m.bundle))

/-- R356: the scale rows of a step are read as they stand; rows not tagged SCL trap 0x02 and poison the step. -/
def Stated.ScalesRead : Prop :=
  ∀ (s : State) (x y : Nat) (m : MxCmd), let k := tileKey x y; let t := s.tile k
    t.mx.find? (·.scaleDue (s.lcycOf k)) = some m →
    let h := scaleRows m.fa
    let lo (v : Nat) : RowReg := t.readV (v + h * m.scalesRead)
    let hi (v : Nat) : RowReg := t.readV (v + h * m.scalesRead + h - 1)
    let rows := [lo m.vsa, hi m.vsa, lo m.vsb, hi m.vsb]
    let poi := rows.any fun r => r.fmt != .scl || r.poi
    let u := (s.setTile k (t.setMx { m.setStep m.scalesRead fun st =>
      { st with sa := (hi m.vsa).bits ++ (lo m.vsa).bits, sb := (hi m.vsb).bits ++ (lo m.vsb).bits, spoi := poi } with
        scalesRead := m.scalesRead + 1 })).detect k
    exec (.scaleRead x y) s = .next (
      if (lo m.vsa).fmt ≠ .scl ∨ (hi m.vsa).fmt ≠ .scl then u.raisePost k 2 1 m.slot m.bundle
      else if (lo m.vsb).fmt ≠ .scl ∨ (hi m.vsb).fmt ≠ .scl then u.raisePost k 2 2 m.slot m.bundle else u)

/-- R353, R355, R358: an accumulator row becomes final: it takes its value, and the watermark moves on if its command is
still the latest writer of the tile; the rows of a matrix command come out one a cycle from its last step on. -/
def Stated.AccumulatorRowsFinal : Prop :=
  ∀ (s : State) (x y : Nat), let k := tileKey x y; let t := s.tile k; let l := s.lcycOf k
    (∀ e v, (t.finals.find? fun e => e.due ≤ l) = some e → e.row < 32 → e.val = some v →
      ∃ u, exec (.accRowFinal x y) s = .next u ∧ ((u.tile k).accAt e.acc).row e.row = v ∧
        (∀ r, r ≠ e.row → ((u.tile k).accAt e.acc).row r = (t.accAt e.acc).row r) ∧
        ((u.tile k).accAt e.acc).wm = (if (t.accAt e.acc).writer = e.writer then e.wmark else (t.accAt e.acc).wm) ∧
        (∀ j, j ≠ e.acc → (u.tile k).accAt j = t.accAt j) ∧ (u.tile k).finals = t.finals.erase e) ∧
    (∀ m, (∀ e ∈ t.finals, l < e.due) → t.mx.find? (·.rowDue l) = some m →
      ∃ u, exec (.accRowFinal x y) s = .next u ∧
        let old := (t.accAt m.acc).row m.rows
        ((u.tile k).accAt m.acc).row m.rows = ⟨BitVec.ofNat 1024 (packNat 32 ((List.range 32).map fun j =>
          m.steps.foldl (fun z st => kStep m.fa m.fb st m.rows j z) (if m.z then 0 else old.elem j))), m.rowPoi old m.rows⟩ ∧
        ((u.tile k).accAt m.acc).wm = (if (t.accAt m.acc).writer = m.id then m.rows + 1 else (t.accAt m.acc).wm) ∧
        (∀ j, j ≠ m.acc → (u.tile k).accAt j = t.accAt j))

/-- R252, R253: one K step of an I8 element adds the exact sum of products modulo 2^32. -/
def Stated.IntegerKStep : Prop :=
  ∀ (st : KStep) (i j x : Nat), i < st.a.length → j < st.b.length →
    let byte (r : TroughRow) (k : Nat) : Int := toSigned 8 (r.bits.toNat / 2 ^ (8 * k) % 256)
    let d : Int := (List.range 48).foldl (fun d k => d + byte (st.a.getD i ⟨0, true⟩) k * byte (st.b.getD j ⟨0, true⟩) k) 0
    kStep .i8 .i8 st i j x < 2 ^ 32 ∧ ((kStep .i8 .i8 st i j x : Int) - (x + d)) % 2 ^ 32 = 0

/-- R241, R242, R252, R253: one K step of an element of floats: D is the exact sum of the products under their scales, +0 where it
is zero, a NaN where a term is one or the terms hold both infinities, else their infinity; the accumulator element takes its sum
with D, rounded once to FP32 by RNE. -/
def Stated.FloatKStep : Prop :=
  ∀ (fa fb : Fmt) (st : KStep) (i j x : Nat) (a b : TroughRow), fa ≠ .i8 → st.a[i]? = some a → st.b[j]? = some b →
    let n := 384 / fa.width
    let el (f : Fmt) (r : TroughRow) (k : Nat) : FNum := f.value (r.bits.toNat / 2 ^ (f.width * k) % 2 ^ f.width)
    let scale (im : BitVec 2048) (q k : Nat) : Nat := (im >>> (8 * (n / 16 * q + k / 16))).toNat % 256
    let term (k : Nat) : FNum :=
      if scale st.sa i k = 255 ∨ scale st.sb j k = 255 then .nan false
      else ((el fa a k).mul (el fb b k)).1.scale ((scale st.sa i k : Int) + scale st.sb j k - 254)
    let units (v : FNum) (u : Int) : Int := match v with
      | .fin s m e => signedUnits s m e u
      | .inf _ | .nan _ => 0
    let below (v : FNum) (u : Int) : Prop := ∀ s m e, v = .fin s m e → u ≤ e
    let finite (v : FNum) : Prop := v.isNaN = false ∧ v.isInf = false
    let bad : Prop := (∃ k < n, (term k).isNaN = true) ∨ ((∃ k < n, term k = .inf true) ∧ ∃ k < n, term k = .inf false)
    ∃ d : FNum, kStep fa fb st i j x = plainBits .fp32 ((Fmt.fp32.value x).add .rne d).1 ∧
      (bad → d.isNaN = true) ∧
      (¬ bad → ∀ s, (∃ k < n, term k = .inf s) → d = .inf s) ∧
      ((∀ k < n, finite (term k)) → finite d ∧ (d.isZero = true → d.sign = false) ∧
        ∀ u, below d u → (∀ k < n, below (term k) u) → units d u = (List.range n).foldl (fun z k => z + units (term k) u) 0)

/-- (1) R355, R191, R356: a pop takes the heads of both troughs into the step; an empty trough gives a poisoned row of
zeros and traps 0x01, subcode 3. (2) R356: the scale rows of a step are read as they stand; rows not tagged SCL trap
0x02 and poison the step. (3) R353, R355, R358: an accumulator row becomes final: it takes its value, and the
watermark moves on if its command is still the latest writer of the tile; the rows of a matrix command come out one a
cycle from its last step on. (4) R252, R253: one K step of an I8 element adds the exact sum of products modulo 2^32.
(5) R241, R242, R252, R253: one K step of an element of floats: D is the exact sum of the products under their scales,
+0 where it is zero, a NaN where a term is one or the terms hold both infinities, else their infinity; the accumulator
element takes its sum with D, rounded once to FP32 by RNE. Where the spec leaves a reading open this takes the model's
own: notes/assumptions 31, 47. -/
def Obligations.MatrixSteps : Prop :=
  Stated.TroughsPopped ∧ Stated.ScalesRead ∧ Stated.AccumulatorRowsFinal ∧ Stated.IntegerKStep ∧ Stated.FloatKStep

/-- R360 to R367, R185: a command of a copy channel is claimed at c with its rows, its busy period, its spans and its
bundle; nothing has moved yet. The hypotheses are the checks of its issue. -/
def Stated.CopyCommandsIssue : Prop :=
  ∀ (s : State) (g : Guard) (da sa st sc : R5) (rows : Byte) (r6 : BitVec 6) (side b : Bool) (kind : Swz) (f : Follow) (dir : Side)
    (nb : Nat) (c : ChCmd), Acts s g →
    let k := s.myKey
    let t := s.tile k
    let dst := (sreg s da).v.toNat
    let src := (sreg s sa).v.toNat
    let stride := (sreg s st).v.toNat
    let m := rows.toNat + 1
    let m6 := r6.toNat + 1
    let gp := gpoi s g
    let clean (r : R5) : Prop := IntReg s r ∧ (sreg s r).poi = false
    let granted (unit : Option ChCmd) (n : ChCmd) : Prop := s.cmdWindow n = .ok () ∧ s.claim unit n = .ok c
    let follow : PendFollow := ⟨f, (sreg s sc).v.setWidth 32, s.now + m6 + 3⟩
    let filled : State := ((s.modTile k fun t => if b then { t with tb := some c } else { t with ta := some c }).undoMeeting
      c.spans 4).undoMeeting c.spans 5
    (clean da → clean sa → baseOk (if side then kind else .lin) src = true → baseOk (if side then .lin else kind) dst = true →
      granted t.g (s.newCmd (.cpy dst src side kind) m (m + 1) gp none) →
      exec (.cpy g da sa rows side kind) s = .next (s.startG c).performed) ∧
    (clean da → 16 ∣ dst → granted t.g (s.newCmd (.cpz dst) m m gp none) →
      exec (.cpz g da rows) s = .next (s.startG c).performed) ∧
    (clean da → clean sa → 16 ∣ dst → 16 ∣ src → s.neighbour k dir = some nb → s.window nb true [(dst, 128 * m)] = .ok () →
      granted t.g (s.newCmd (.cpn dir dst src) m m (gp || t.voided) none) →
      exec (.cpn g dir da sa rows) s = .next (s.startG c).performed) ∧
    (clean sa → clean st → 16 ∣ stride → baseOk kind src = true →
      (granted (if b then t.tb else t.ta) (s.newCmd (.cpt src stride kind b) m6 (m6 + 2) gp none) →
        exec (.cpt g b sa st r6 side kind) s = .next filled.performed) ∧
      (clean sc → (followOperands f.scaled ((sreg s sc).v.setWidth 32)).isSome = true →
        granted (if b then t.tb else t.ta) (s.newCmd (.cpt src stride kind b) m6 (m6 + 3) gp (some follow)) →
        exec (.cptFollow g b sa st r6 side kind sc f) s = .next filled.performed)) ∧
    (s.neighbour k dir = none → clean da → clean sa → exec (.cpn g dir da sa rows) s = .next (s.raise 8 1 s.cur.slot))

/-- R367, R358: ACP moves rows of an accumulator tile to SRAM, or from SRAM; IN becomes the tile's latest writer. -/
def Stated.AccumulatorCopies : Prop :=
  ∀ (s : State) (g : Guard) (acc : B3) (sa r0 nr : R5) (i32 : Bool) (c : ChCmd), Acts s g →
    let k := s.myKey
    let t := s.tile k
    let a := t.accAt acc.toNat
    let at_ := (sreg s sa).v.toNat
    let m := nr.toNat + 1
    let id := t.nextId + 1
    let granted (n : ChCmd) : Prop := s.cmdWindow n = .ok () ∧ s.claim t.g n = .ok c
    let taken : Tile := { t with nextId := id, finals := t.finals ++ [⟨s.now + 1, acc.toNat, 32, none, r0.toNat, id⟩] }
    IntReg s sa → (sreg s sa).poi = false → 16 ∣ at_ →
    (granted (s.newCmd (.acpOut acc.toNat r0.toNat at_) m (m + 1) (gpoi s g) none) →
      exec (.acp g false false acc sa r0 nr) s = .next (s.startG c).performed) ∧
    (a.wm = 32 → (a.fp = !i32) ∨ (r0 = 0 ∧ nr = 31) →
      granted (s.newCmd (.acpIn acc.toNat r0.toNat at_ id (!i32)) m (m + 2) (gpoi s g) none) →
      exec (.acp g true i32 acc sa r0 nr) s =
        .next ((s.setTile k (taken.setAcc acc.toNat { a with fp := !i32 })).startG c).performed)

/-- (1) R360 to R367, R185: a command of a copy channel is claimed at c with its rows, its busy period, its spans and
its bundle; nothing has moved yet. The hypotheses are the checks of its issue. (2) R367, R358: ACP moves rows of an
accumulator tile to SRAM, or from SRAM; IN becomes the tile's latest writer. Where the spec leaves a reading open this
takes the model's own: notes/assumptions 31, 32, 38, 39, 46. -/
def Obligations.CopyCommands : Prop :=
  Stated.CopyCommandsIssue ∧ Stated.AccumulatorCopies

/-- R363, R364, R367: what the rows of a channel do at their cycles: a row is read into the channel before it is
written, and a written row puts its words into SRAM. -/
def Stated.CopyRowsMove : Prop :=
  ∀ (s : State) (x y ch : Nat) (c : ChCmd), let k := tileKey x y; let t := s.tile k; let l := s.lcycOf k
    t.channel ch = some c → ch < 3 →
    (c.readDue l = true → (c.what.writes = true ∨ c.what.pushes = true) → (∀ a r d, c.what ≠ .acpOut a r d) →
      exec (.copyRow x y ch) s = .next ((s.setTile k (t.setChannel ch { c with
        read := c.read + 1, buf := c.buf ++ [t.readWordRow c.read (c.readWords c.read) c.poi] })).detect k)) ∧
    (∀ acc r0 d, c.what = .acpOut acc r0 d → c.readDue l = true →
      let o := (t.accAt acc).row (r0 + c.read)
      let early := ¬ r0 + c.read < (t.accAt acc).wm
      let u := s.setTile k (t.setChannel ch { c with
        read := c.read + 1, buf := c.buf ++ [⟨c.read, o.bits, if o.poi || early || c.poi then 0xFF else 0⟩] })
      exec (.copyRow x y ch) s = .next ((if early then u.raisePost k 1 1 6 c.bundle else u).detect k)) ∧
    (∀ acc r0 d id fp, c.what = .acpIn acc r0 d id fp → c.readDue l = true →
      let r := t.readWordRow c.read (c.readWords c.read) c.poi
      let e : AccFinal := ⟨c.c + c.lag + 3 + c.read, acc, r0 + c.read, some ⟨r.bits, r.poi != 0⟩, markOf r0 c.m c.read, id⟩
      exec (.copyRow x y ch) s =
        .next ((s.setTile k ({ t with finals := t.finals ++ [e] }.setChannel ch { c with read := c.read + 1 })).detect k)) ∧
    (∀ dir dst src p q, c.what = .cpn dir dst src → c.readDue l = true → t.part = some p → s.part p = some q →
      let r := t.readWordRow c.read (c.readWords c.read) c.poi
      let w : LinkWord := ⟨k % 256, k / 256, dir, l + 1, none, (sideStep dir).1, (sideStep dir).2, false,
        some (dst + 128 * c.read), r.poi, ⟨r.bits, .raw, c.poi || t.voided⟩, c.bundle⟩
      exec (.copyRow x y ch) s = .next (((s.setTile k (t.setChannel ch { c with read := c.read + 1 })).modPart p fun q =>
        { q with links := q.links ++ [w] }).detect k)) ∧
    (c.readDue l = false → c.writeDue l = true →
      let r := c.buf.headD ⟨c.landed, 0, if c.poi then 0xFF else 0⟩
      exec (.copyRow x y ch) s = .next (s.setTile k ((t.writeRow (c.writeWords c.landed) r.bits r.poi false).setChannel ch
        { c with landed := c.landed + 1, buf := c.buf.tail })))

/-- R364, R191: a CPT pushes its rows, 48 bytes each, into its trough; into a full one the row is lost and traps 0x01,
subcode 8. -/
def Stated.TroughsPushed : Prop :=
  ∀ (s : State) (x y : Nat) (b : Bool) (c : ChCmd) (r : ChRow) (rs : List ChRow), let k := tileKey x y; let t := s.tile k
    t.channel (if b then 1 else 0) = some c → c.pushDue (s.lcycOf k) = true → c.buf = r :: rs →
    let next := t.setChannel (if b then 1 else 0) { c with landed := c.landed + 1, buf := rs }
    let row : TroughRow := ⟨r.bits.setWidth 384, r.poi != 0⟩
    let full := 64 ≤ (if b then t.trB else t.trA).length
    exec (.troughPush x y b) s = .next (
      if full then (s.setTile k next).raisePost k 1 8 6 c.bundle
      else s.setTile k (if b then { next with trB := t.trB ++ [row] } else { next with trA := t.trA ++ [row] }))

/-- R365: the follow-on of a CPT issues into the engine with the CPT's bundle, its guard read at that cycle; its traps
are taken then. -/
def Stated.FollowOnIssues : Prop :=
  ∀ (s : State) (x y : Nat) (b : Bool) (c : ChCmd) (p : PendFollow) (va vb : Nat) (z : Bool), let k := tileKey x y; let t := s.tile k
    (if b then t.tb else t.ta) = some c → c.follow = some p → followOperands p.f.scaled p.w2 = some (va, vb, z) →
    let u := s.setTile k (if b then { t with tb := some { c with follow := none } } else { t with ta := some { c with follow := none } })
    let gv := t.task.guard p.f.g
    let e := u.engine k 6 c.bundle (gv.poi || c.poi) z p.f.scaled p.f.acc.toNat p.f.nk.toNat p.f.fa p.f.fb va vb
    (gv.on = false → exec (.followOnIssue x y b) s = .next u) ∧
    (gv.on = true → ∀ w, e = .ok w → exec (.followOnIssue x y b) s = .next w) ∧
    (gv.on = true → ∀ a d, e = .error (a, d) → exec (.followOnIssue x y b) s = .next (u.raisePost k a d 6 c.bundle))

/-- (1) R363, R364, R367: what the rows of a channel do at their cycles: a row is read into the channel before it is
written, and a written row puts its words into SRAM. (2) R364, R191: a CPT pushes its rows, 48 bytes each, into its
trough; into a full one the row is lost and traps 0x01, subcode 8. (3) R365: the follow-on of a CPT issues into the
engine with the CPT's bundle, its guard read at that cycle; its traps are taken then. Where the spec leaves a reading
open this takes the model's own: notes/assumptions 31, 46, 65. -/
def Obligations.CopyRows : Prop :=
  Stated.CopyRowsMove ∧ Stated.TroughsPushed ∧ Stated.FollowOnIssues

/-- R383, R209: SEND puts a word on the first link of its way at c + 1: along x first, or along y first for .YX; a voided
tile's word is poisoned; a target outside the partition or not mapped traps 0x08, subcode 1. -/
def Stated.SendEntersItsLink : Prop :=
  ∀ (s : State) (g : Guard) (v : R9) (dx : BitVec 9) (dy : Byte) (yx : Bool) (x y p : Nat) (q : Part), Acts s g → InTask s x y →
    x < 256 → s.rowOk v.toNat = true →
    let k := tileKey x y
    let x1 : Int := x + dx.toInt
    let y1 : Int := y + dy.toInt
    (s.tile k).part = some p → s.part p = some q →
    let goal := s.tile (tileKey x1.toNat y1.toNat)
    let side : Side :=
      if yx then (if dy.toInt = 0 then (if 0 < dx.toInt then .e else .w) else if 0 < dy.toInt then .s else .n)
      else (if dx.toInt = 0 then (if 0 < dy.toInt then .s else .n) else if 0 < dx.toInt then .e else .w)
    let w := rreg s v
    (0 ≤ x1 → 0 ≤ y1 → q.holds x1.toNat y1.toNat = true → goal.part = some p → goal.mapped = true →
      exec (.send g v dx dy yx) s = .next (s.setPart p { q with links := q.links ++ [⟨x, y, side, s.lcycOf k + 1, none, dx.toInt,
        dy.toInt, yx, none, 0, { w with poi := w.poi || gpoi s g || (s.tile k).voided }, s.ctx.bundle⟩] }).performed) ∧
    ((x1 < 0 ∨ y1 < 0 ∨ q.holds x1.toNat y1.toNat = false ∨ goal.part ≠ some p ∨ goal.mapped = false) →
      exec (.send g v dx dy yx) s = .next (s.raise 8 1 s.cur.slot))

/-- R210, R212, R366: a word alone on its link goes on to its next one, or arrives, 2 cycles later and 2 more over a
stitch boundary; of several that enter a link in one cycle one goes on, poisoned, and the tile traps 0x01, subcode 6. -/
def Stated.FabricHops : Prop :=
  ∀ (s : State) (x y p : Nat) (dir : Side) (q : Part) (l : LinkWord), let k := tileKey x y
    (s.tile k).part = some p → s.part p = some q →
    let here (w : LinkWord) : Bool := w.x = x && w.y = y && w.dir == dir && w.enter ≤ s.lcycOf k
    let ws := q.links.filter here
    let st : Int × Int := match dir with
      | .n => (0, -1) | .e => (1, 0) | .s => (0, 1) | .w => (-1, 0)
    let dx := l.dx - st.1
    let dy := l.dy - st.2
    let at_ := l.enter + 2 + stitchTo x y dir
    let nx := ((x : Int) + st.1).toNat
    let ny := ((y : Int) + st.2).toNat
    let lag := match l.burst with
      | some b => (s.tile (tileKey nx ny)).lagOf (wordsOf b 128)
      | none => 0
    let rest := q.links.filter fun w => !here w
    (ws = [l] → ∃ t r, exec (.fabricHop x y dir) s = .next t ∧ t.part p = some r ∧
      (dx = 0 → dy = 0 → r.arrivals = q.arrivals ++ [⟨nx, ny, opposite dir, at_ + lag, l.burst, l.poi8, l.w⟩] ∧ r.links = rest) ∧
      ((dx ≠ 0 ∨ dy ≠ 0) → r.arrivals = q.arrivals ∧ r.links = rest ++
        [{ l with x := nx, y := ny, dir := nextSide dx dy l.yx, enter := at_, inn := some (opposite dir), dx := dx, dy := dy }]) ∧
      Kept s t) ∧
    (2 ≤ ws.length → firstWord ws = some l →
      let own := ws.filter fun w => w.inn.isNone
      let u := s.setPart p { q with links := rest }
      let raised := match own.find? (fun w => w.burst.isNone), own with
        | some o, _ => u.raisePost k 1 6 5 o.bundle
        | none, o :: _ => u.raisePost k 1 6 6 o.bundle
        | none, [] => u.raiseBare k 1 6
      exec (.fabricHop x y dir) s = .next (raised.crossLink p { l with w := { l.w with poi := true }, poi8 := 0xFF }))

/-- R211: a word reaches an empty arrival register as it is; into a full one it collides: the register is left poisoned
and the tile traps 0x01, subcode 6. -/
def Stated.WordsArrive : Prop :=
  ∀ (s : State) (x y p : Nat) (port : Side) (q : Part) (a : Arrival), let k := tileKey x y
    (s.tile k).part = some p → s.part p = some q →
    (q.arrivals.find? fun a => a.x = x && a.y = y && a.port == port && a.burst.isNone && a.due ≤ s.lcycOf k) = some a →
    let u := (s.setPart p { q with arrivals := q.arrivals.erase a }).detect k
    ((s.tile k).arr port = none → exec (.wordArrival x y port) s = .next (u.modTile k fun t => t.setArr port (some a.w))) ∧
    (∀ o, (s.tile k).arr port = some o → exec (.wordArrival x y port) s =
      .next ((u.modTile k fun t => t.setArr port (some { a.w with poi := true })).raiseBare k 1 6))

/-- R366, R184, R361: a row of a neighbour's burst lands in this tile's SRAM; where it clashes with a reservation or a
write of the tile, the tile traps 0x01, subcode 2, and the row lands all the same. -/
def Stated.BurstRowsLand : Prop :=
  ∀ (s : State) (x y p b : Nat) (q : Part) (a : Arrival), let k := tileKey x y
    (s.tile k).part = some p → s.part p = some q → a.burst = some b →
    (q.arrivals.find? fun a => a.x = x && a.y = y && a.burst.isSome && a.due ≤ s.lcycOf k) = some a →
    let u := (s.setPart p { q with arrivals := q.arrivals.erase a }).detect k
    let ws := wordsOf b 128
    let clash := (s.tile k).spanHit ws false (s.lcycOf k) || (banksOf [(b, 128)] &&& (s.tile k).portBanks (s.lcycOf k) true) != 0
    exec (.burstRowLanding x y) s =
      .next ((if clash then u.raiseBare k 1 2 else u).modTile k fun t => t.writeRow ws a.w.bits a.poi8 a.w.poi)

/-- (1) R383, R209: SEND puts a word on the first link of its way at c + 1: along x first, or along y first for .YX; a
voided tile's word is poisoned; a target outside the partition or not mapped traps 0x08, subcode 1. (2) R210, R212,
R366: a word alone on its link goes on to its next one, or arrives, 2 cycles later and 2 more over a stitch boundary;
of several that enter a link in one cycle one goes on, poisoned, and the tile traps 0x01, subcode 6. (3) R211: a word
reaches an empty arrival register as it is; into a full one it collides: the register is left poisoned and the tile
traps 0x01, subcode 6. (4) R366, R184, R361: a row of a neighbour's burst lands in this tile's SRAM; where it clashes
with a reservation or a write of the tile, the tile traps 0x01, subcode 2, and the row lands all the same. Where the
spec leaves a reading open this takes the model's own: notes/assumptions 31, 32, 38, 39, 40, 41, 57. -/
def Obligations.FabricWords : Prop :=
  Stated.SendEntersItsLink ∧ Stated.FabricHops ∧ Stated.WordsArrive ∧ Stated.BurstRowsLand

/-- R385 to R389, R198, R200, R170: LDG, GST and AMO put an operation under way with its deadline, its physical address,
its operand and its destination; a store or an atomic of a voided tile goes nowhere. The hypotheses are the checks, the
wafer generation last (R75: 0x09). -/
def Stated.RemoteOperationsIssue : Prop :=
  ∀ (s : State) (g : Guard) (d a b : R5) (dl : BitVec 16) (fl : Flags) (sz : Size) (f : AmoForm) (dbl : Bool) (cmp : W32)
    (pa : Nat), Acts s g → IntReg s a → (sreg s a).poi = false → (sreg s b).poi = false →
    let k := s.myKey
    let t := s.tile k
    let n := match sz with
      | .b => 1 | .h => 2 | .w => 4 | .d => 8
    let m := if dbl then 8 else 4
    let sum := (BitVec.ofNat 64 ((sreg s a).v.toNat + (sreg s b).v.toNat)).toNat
    let op (kind : OpKind) (len : Nat) : RemOp := { s.newOp k kind (s.now + dl.toNat) pa len fl with mute := t.voided }
    let rs := (s.bankOf k).regions
    let at_ := (sreg s a).v.toNat
    let may := t.voided = true ∨ s.genOk = true
    (IntReg s b → n ∣ sum → t.holderFree s.now = true → checkRegion rs .r sum n = .ok pa →
      (s.genOk = true → exec (.ldg g d a b dl fl sz) s = .next (s.launchOp k { op .ldg n with
        mute := false, dest := d.toNat, fmt := .raw, gpoi := gpoi s g }).performed) ∧
      (s.genOk = false → exec (.ldg g d a b dl fl sz) s =
        .next ((s.raise 9 0 s.cur.slot).poisonDests [⟨.scalar, d.toNat, .raw, dl.toNat⟩]))) ∧
    (IntReg s b → n ∣ sum → (sreg s d).poi = false → gpoi s g = false → checkRegion rs .w sum n = .ok pa → may →
      exec (.gst g d a b dl fl sz) s = .next (s.launchOp k { op .gst n with data := (sreg s d).v }).performed) ∧
    (m ∣ at_ → gpoi s g = false → checkRegion rs .a at_ m = .ok pa → inSeq pa = false → t.holderFree s.now = true → may →
      (f ≠ .fadd → IntReg s b → exec (.amo g f d a b dl fl dbl) s = .next (s.launchOp k { op (.amo f) m with
        data := (sreg s b).v, dest := d.toNat, fmt := .i32 }).performed) ∧
      ((sreg s b).fmt = .fp32 → exec (.amo g .fadd d a b dl fl dbl) s = .next (s.launchOp k { op (.amo .fadd) m with
        data := (sreg s b).v, dest := d.toNat, fmt := .fp32 }).performed) ∧
      (IntReg s b → exec (.amoCas g d a b dl fl dbl cmp) s = .next (s.launchOp k
        { op (.cas (if dbl then BitVec.ofInt 64 cmp.toInt else BitVec.ofNat 64 cmp.toNat)) m with
          data := (sreg s b).v, dest := d.toNat, fmt := .i32 }).performed))

/-- R390, R372, R97: WAKE sends its value to a queue, CRDY fires a sequencer entry; neither has a deadline. -/
def Stated.SignalsIssue : Prop :=
  ∀ (s : State) (g : Guard) (a b : R5) (scope : BitVec 6) (rel : Bool) (pa key part : Nat), Acts s g →
    let k := s.myKey
    let v := (sreg s a).v
    let op (kind : OpKind) (pa : Nat) : RemOp := s.newOp k kind s.now pa 0 ⟨scope, false, rel⟩
    IntReg s a → (sreg s a).poi = false → gpoi s g = false →
    (IntReg s b → (sreg s b).poi = false → v.extractLsb' 0 3 = 0 → v.extractLsb' 18 30 = 0 →
      ((s.tile k).voided = true ∨ s.genOk = true) → exec (.wake g a b scope rel) s = .next (s.launchOp k
        { op .wake v.toNat with data := (sreg s b).v, mute := (s.tile k).voided }).performed) ∧
    (64 ∣ v.toNat → checkRegion (s.bankOf k).regions .w v.toNat 64 = .ok pa → inSeq pa = true → seqKey pa = some (key, part) →
      (s.tile k).voided = false → s.genOk = true → exec (.crdy g a scope rel) s = .next (s.launchOp k (op .crdy key)).performed)

/-- R368, R197: STG and STP reserve a window of SRAM and put a transfer under way, due at the next cycle whose low 32
bits are the literal; the transfer has not moved a byte. -/
def Stated.StagingIssues : Prop :=
  ∀ (s : State) (g : Guard) (sa sb sc : R5) (fl : Flags) (dl : W32) (pa : Nat), Acts s g →
    let k := s.myKey
    let t := s.tile k
    let win := (sreg s sa).v.toNat
    let va := (sreg s sb).v.toNat
    let n := (sreg s sc).v.toNat
    let spans (w : Bool) : List Span := [spanOf (wordsOf win n) w]
    let e := stageDeadline s.lcycNow dl
    let op (kind : OpKind) : RemOp := { s.newOp k kind (s.ownNow e) pa n fl with win := win, gpoi := gpoi s g }
    let clean (r : R5) : Prop := IntReg s r ∧ (sreg s r).poi = false
    clean sa → clean sb → clean sc → 16 ∣ n → 16 ∣ win → 16 ∣ va → 0 < n → n ≤ 0x180000 → inSeq pa = false →
    (t.ops.filter fun o => o.staged && s.now ≤ o.deadline).length < 8 →
    (s.lcycNow < e ∧ e ≤ s.lcycNow + 2 ^ 32 ∧ e % 2 ^ 32 = dl.toNat) ∧
    (checkRegion (s.bankOf k).regions .r va n = .ok pa → s.window k true [(win, n)] = .ok () →
      (t.spansAt s.now).any (fun sp => (spanOf (wordsOf win n) true).meets sp) = false → s.genOk = true →
      exec (.stg g sa sb sc fl dl) s = .next (((s.launchOp k (op .stg)).undoMeeting (spans true) 4).undoMeeting
        (spans true) 5).performed) ∧
    (checkRegion (s.bankOf k).regions .w va n = .ok pa → s.window k false [(win, n)] = .ok () →
      (t.spansAt s.now).any (fun sp => (spanOf (wordsOf win n) false).meets sp) = false →
      poisonRead t.spoi win n = false → gpoi s g = false → (t.voided = true ∨ s.genOk = true) →
      exec (.stp g sa sb sc fl dl) s = .next (((s.launchOp k { op .stp with mute := t.voided }).undoMeeting (spans false)
        4).undoMeeting (spans false) 5).performed)

/-- R193, R194: the region check: the whole range inside one region with the right gives PBASE + (va - VBASE); an address
that hits no region traps 0x08, subcode 1, one without the right 0x08, subcode 2. -/
def Stated.RegionsTranslate : Prop :=
  ∀ (rs : List Region) (r : Region) (need_ : Right) (va n : Nat), 0 < n →
    (findRegion rs va = some r → r.vbase ≤ va ∧ va < r.vbase + 2 ^ 21 * r.pages ∧ r ∈ rs) ∧
    (findRegion rs va = some r → va + n ≤ r.vbase + 2 ^ 21 * r.pages →
      checkRegion rs need_ va n = if r.has need_ then .ok (r.pbase + (va - r.vbase)) else .error (8, 2)) ∧
    ((∀ r ∈ rs, ¬ (r.vbase ≤ va ∧ va < r.vbase + 2 ^ 21 * r.pages)) → checkRegion rs need_ va n = .error (8, 1))

/-- (1) R385 to R389, R198, R200, R170: LDG, GST and AMO put an operation under way with its deadline, its physical
address, its operand and its destination; a store or an atomic of a voided tile goes nowhere. The hypotheses are the
checks, the wafer generation last (R75: 0x09). (2) R390, R372, R97: WAKE sends its value to a queue, CRDY fires a
sequencer entry; neither has a deadline. (3) R368, R197: STG and STP reserve a window of SRAM and put a transfer under
way, due at the next cycle whose low 32 bits are the literal; the transfer has not moved a byte. (4) R193, R194: the
region check: the whole range inside one region with the right gives PBASE + (va - VBASE); an address that hits no
region traps 0x08, subcode 1, one without the right 0x08, subcode 2. Where the spec leaves a reading open this takes
the model's own: notes/assumptions 31, 32, 38, 39, 41, 45, 46, 62. -/
def Obligations.RemoteIssue : Prop :=
  Stated.RemoteOperationsIssue ∧ Stated.SignalsIssue ∧ Stated.StagingIssues ∧ Stated.RegionsTranslate

/-- R202, R388, R389, R82: what a slice does for one operation that nothing holds back: a load returns the bytes (R66: those its
slot took), a store writes them, an AMO returns the old value and writes the new one, with the poison of a spoilt beat, and
every other byte of device memory stays. -/
def Stated.SlicesPerform : Prop :=
  ∀ (s : State) (x y id : Nat) (o : RemOp), let k := tileKey x y
    s.openOp k id = some o → s.opHeld k o = false → o.pa + o.len ≤ hbmBytes → inSeq o.pa = false → 0 < o.len → o.len ≤ 8 →
    (∀ z ∈ (s.tile k).ops, z.id = id → z = o) →
    let got := o.taken.getD (Memory.reads s.dev o.pa o.len, poisonRead s.devPoi o.pa o.len)
    let old := ofBytes (Memory.reads s.dev o.pa o.len)
    let bad := poisonRead s.devPoi o.pa o.len
    let done (t : State) (v : Nat) (poi : Bool) : Prop := exec (.sliceAccess x y id) s = .next t ∧
      (∃ z ∈ (t.tile k).ops, z.id = id ∧ z.done = true ∧ z.result = BitVec.ofNat 64 v ∧ z.rpoi = poi) ∧
      (∀ w, SameRegs (s.ctxAt w) (t.ctxAt w)) ∧ (∀ j, SameStore (s.tile j) (t.tile j)) ∧ t.host = s.host ∧
      ∀ b, (b < o.pa ∨ o.pa + o.len ≤ b) → Memory.read t.dev b = Memory.read s.dev b
    (o.kind = .ldg → ∃ t, done t (ofBytes got.1) (o.rpoi || got.2) ∧ t.dev = s.dev) ∧
    (o.kind = .gst → ∃ t, done t 0 o.rpoi ∧ poisonRead t.devPoi o.pa o.len = (bad || o.rpoi) ∧
      ∀ i < o.len, Memory.read t.dev (o.pa + i) = BitVec.ofNat 8 (o.data.toNat / 256 ^ i)) ∧
    (∀ f, o.kind = .amo f → ∃ t, done t old (o.rpoi || bad) ∧ (bad = true → t.dev = s.dev) ∧
      poisonRead t.devPoi o.pa o.len = (bad || o.rpoi) ∧
      (bad = false → ∀ i < o.len, Memory.read t.dev (o.pa + i) =
        BitVec.ofNat 8 (amoNew f o.len old (o.data.toNat % 2 ^ (8 * o.len)) / 256 ^ i))) ∧
    (∀ c, o.kind = .cas c → ∃ t, done t old (o.rpoi || bad) ∧ poisonRead t.devPoi o.pa o.len = (bad || o.rpoi) ∧ ∀ i < o.len, Memory.read t.dev (o.pa + i) =
      if bad = false ∧ old = c.toNat % 2 ^ (8 * o.len) then BitVec.ofNat 8 (o.data.toNat % 2 ^ (8 * o.len) / 256 ^ i)
      else Memory.read s.dev (o.pa + i))

/-- R390, R216, R372: a wake of a queue of this module becomes a write of its wake register; a fire request reaches its
sequencer entry; one of the entry that barriers use is dropped and counted (R226, R227). -/
def Stated.SignalsLeave : Prop :=
  ∀ (s : State) (x y id p : Nat) (o : RemOp), let k := tileKey x y
    s.openOp k id = some o → s.opHeld k o = false → (s.tile k).part = some p →
    (o.kind = .wake → o.pa / 2 ^ 48 = s.modid.toNat → exec (.sliceAccess x y id) s =
      .next ((s.finishOp k o.id 0 false).at_ s.gcyc (.wakeWrite (.tile p) (o.pa / 8 % 2 ^ 15) (o.data.setWidth 32)))) ∧
    (o.kind = .crdy → o.pa ≠ barKey →
      exec (.sliceAccess x y id) s = .next ((s.finishOp k o.id 0 false).at_ s.gcyc (.seqFire o.pa p))) ∧
    (o.kind = .crdy → o.pa = barKey → exec (.sliceAccess x y id) s =
      .next ((s.finishOp k o.id 0 false).dropWrite (match s.part p with | some q => q.ctl.toNat | none => 0))) ∧
    ((s.finishOp k o.id 0 false).tile k).ops = (s.tile k).ops.map fun z =>
      if z.id = o.id then { z with done := true, doneAt := s.gcyc, result := 0 } else z

/-- R388: the new value of each AMO but FADD, over n bytes. -/
def Stated.AtomicValues : Prop :=
  ∀ (n old b : Nat), (n = 4 ∨ n = 8) → old < 2 ^ (8 * n) → b < 2 ^ (8 * n) →
    let sg (v : Nat) : Int := if v < 2 ^ (8 * n - 1) then v else (v : Int) - 2 ^ (8 * n)
    amoNew .add n old b = (old + b) % 2 ^ (8 * n) ∧ sg (amoNew .max n old b) = Max.max (sg old) (sg b) ∧
    sg (amoNew .min n old b) = Min.min (sg old) (sg b) ∧ amoNew .maxu n old b = Max.max old b ∧
    amoNew .minu n old b = Min.min old b ∧ amoNew .swap n old b = b ∧
    ∀ i < 8 * n, (amoNew .and n old b).testBit i = (old.testBit i && b.testBit i) ∧
      (amoNew .or n old b).testBit i = (old.testBit i || b.testBit i) ∧
      (amoNew .xor n old b).testBit i = (old.testBit i != b.testBit i)

/-- (1) R202, R388, R389, R82: what a slice does for one operation that nothing holds back: a load returns the bytes
(R66: those its slot took), a store writes them, an AMO returns the old value and writes the new one, with the poison
of a spoilt beat, and every other byte of device memory stays. (2) R390, R216, R372: a wake of a queue of this module
becomes a write of its wake register; a fire request reaches its sequencer entry; one of the entry that barriers use
is dropped and counted (R226, R227). (3) R388: the new value of each AMO but FADD, over n bytes. Where the spec leaves
a reading open this takes the model's own: notes/assumptions 22, 43, 45, 46. -/
def Obligations.RemotePerform : Prop :=
  Stated.SlicesPerform ∧ Stated.SignalsLeave ∧ Stated.AtomicValues

/-- R369, R197: a transfer that nothing holds back moves its blocks that are due, and where a deadline presses every one left:
an STG into the window, an STP out of it; every byte outside those reads as before, and it is performed with its last block. -/
def Stated.StagingMovesBytes : Prop :=
  ∀ (s : State) (x y id : Nat) (o : RemOp), let k := tileKey x y
    s.openOp k id = some o → s.opHeld k o = false → o.pa + o.len ≤ hbmBytes → 16 ∣ o.len → 16 ∣ o.pa →
    (o.pieces.map (·.blk)).Nodup →
    let goes (z : Piece) : Prop := z ∈ o.pieces ∧ z.done = false ∧ (s.pressed k id = true ∨ ∃ g, z.due = some g ∧ g ≤ s.gcyc)
    let moved (i : Nat) : Prop := i < o.len ∧ ∃ z, goes z ∧ z.blk = (o.pa + i) / 256
    let ended (t : State) : Prop :=
      (∀ z ∈ o.pieces, z.done = true ∨ goes z) → ∃ z ∈ (t.tile k).ops, z.id = id ∧ z.done = true
    (o.kind = .stg → ∃ t, exec (.stagingComplete x y id) s = .next t ∧ t.dev = s.dev ∧ ended t ∧
      (∀ i z, i < o.len → goes z → z.blk = (o.pa + i) / 256 → Memory.read (t.tile k).sram (o.win + i) =
        if z.due.isSome then z.data.extractLsb' (8 * ((o.pa + i) % 256)) 8 else Memory.read s.dev (o.pa + i)) ∧
      ∀ b, (∀ i, moved i → b ≠ o.win + i) → Memory.read (t.tile k).sram b = Memory.read (s.tile k).sram b) ∧
    (o.kind = .stp → ∃ t, exec (.stagingComplete x y id) s = .next t ∧ (t.tile k).sram = (s.tile k).sram ∧ ended t ∧
      (∀ i, moved i → Memory.read t.dev (o.pa + i) = Memory.read (s.tile k).sram (o.win + i)) ∧
      ∀ b, (∀ i, moved i → b ≠ o.pa + i) → Memory.read t.dev b = Memory.read s.dev b)

/-- R9, R199, R203 to R205: what a deadline that has come presses: an operation that waits for nothing, and with no write before
it, is the one to act; nothing is pressed before a deadline; an operation that an order rule holds is tried again in the next
cycle; it is held by an earlier operation of its tile on the same way, by an AMO of the address that another tile of the
partition issued 96 cycles before it, and under R or A by an earlier STG. A write that no deadline presses waits for its turn,
the cycle at which its request would have arrived, and for one before it in the same 16 bytes (DESIGN CHOICE, log 62). -/
def Stated.OrderAndDeadlines : Prop :=
  ∀ (s : State) (x y id j : Nat) (o z : RemOp), let k := tileKey x y; let t := s.tile k
    (∀ l e, s.forced k t l = some e → ∃ u ∈ t.ops, u.done = false ∧ u.mute = false ∧ u.latest ≤ l) ∧
    (∀ l p, t.pressing l = [o] → s.ahead k o = none → s.flagHolds k o = false → t.part = some p →
      s.forced k t l = some (k, o) ∧ (l = s.lcycOf k → (k, t) ∈ s.tiles → s.pressed k o.id = true)) ∧
    (s.openOp k id = some o → s.opHeld k o = true →
      (o.staged = false → exec (.sliceAccess x y id) s = .next (s.at_ (s.gcyc + 1) (.sliceAccess x y id))) ∧
      (o.staged = true → exec (.stagingComplete x y id) s = .next (s.at_ (s.gcyc + 1) (.stagingComplete x y id)))) ∧
    (z ∈ t.ops → z.id < o.id → z.waiting = true → s.routeOf z = s.routeOf o → s.routeOf o ≠ none → s.opHeld k o = true) ∧
    (z ∈ (s.tile j).ops → j ≠ k → (s.tile j).part = t.part → t.part ≠ none → z.isAmo = true → o.isAmo = true →
      z.open_ = true → z.pa = o.pa → z.issued + 96 ≤ o.issued → s.opHeld k o = true) ∧
    (z ∈ t.ops → z.id < o.id → z.open_ = true → z.kind = .stg → o.rel = true ∨ o.acq = true → s.opHeld k o = true) ∧
    (o.touches = true → s.pressed k o.id = false →
      (s.lcycOf k < o.turn → s.opHeld k o = true) ∧
      ((j, s.tile j) ∈ s.tiles → (s.tile j).part = t.part → t.part ≠ none → z ∈ (s.tile j).ops → z.open_ = true →
        z.late = false → z.touches = true → z.turn < o.turn → z.pa / 16 ≤ (o.pa + o.len - 1) / 16 → o.pa / 16 ≤ (z.pa + z.len - 1) / 16 →
        s.rootHeld j z = false → s.opHeld k o = true)) ∧
    (o.issued + s.transitOf k o 0 ≤ s.turnOf k o ∧
      (z ∈ t.ops → o.rel = true ∨ o.acq = true ∨ (s.routeOf z = s.routeOf o ∧ s.routeOf o ≠ none) → z.turn < s.turnOf k o) ∧
      ((j, s.tile j) ∈ s.tiles → (s.tile j).part = t.part → t.part ≠ none → z ∈ (s.tile j).ops → z.isAmo = true →
        o.isAmo = true → z.pa = o.pa → z.issued + 96 ≤ o.issued → z.turn < s.turnOf k o))

/-- R200, R389, R170: a reply is written into its scalar at its deadline, with the format and poison of the operation; one
that is absent poisons the scalar and traps 0x01, subcode 5. -/
def Stated.RepliesDelivered : Prop :=
  ∀ (s : State) (x y : Nat) (o : RemOp), let k := tileKey x y; let t := s.tile k
    t.dueReply (s.lcycOf k) = some o → o.dest ≠ 0 →
    ((o.done && !o.late) = true → ∃ u, exec (.replyDelivery x y) s = .next u ∧
      (u.tile k).task.readS o.dest = ⟨o.result, o.fmt, o.rpoi || o.gpoi || t.voided⟩ ∧
      (∀ r, r ≠ o.dest → (u.tile k).task.readS r = t.task.readS r) ∧ (u.tile k).task.p = t.task.p ∧ u.dev = s.dev) ∧
    ((o.done && !o.late) = false → ∃ u, exec (.replyDelivery x y) s = .next u ∧
      (u.tile k).task.readS o.dest = ⟨(t.task.readS o.dest).v, o.fmt, true⟩ ∧
      (o.mute = false → t.deferred.length < 16 → ∃ f ∈ (u.tile k).deferred, f.cause = 1 ∧ f.sub = 5 ∧ f.bundle = o.bundle))

/-- R199: the deadlines that have passed are checked once; of each operation that is not complete the tile traps
0x01, subcode 5, with the operation's own slot and bundle. -/
def Stated.DeadlinesChecked : Prop :=
  ∀ (s : State) (x y : Nat), let k := tileKey x y; let l := s.lcycOf k
    let due := (s.tile k).ops.filter fun o => o.isChecked && !o.checked && o.deadline ≤ l
    let u := s.modTile k fun t => t.markChecked l
    exec (.deadlineCheck x y) s =
      .next ((due.filter fun o => !o.complete).foldl (fun s o => s.raisePost k 1 5 o.slot o.bundle) u) ∧
    ((u.tile k).dueChecks l = []) ∧ Kept s u

/-- (1) R369, R197: a transfer that nothing holds back moves its blocks that are due, and where a deadline presses
every one left: an STG into the window, an STP out of it; every byte outside those reads as before, and it is
performed with its last block. (2) R9, R199, R203 to R205: what a deadline that has come presses: an operation that
waits for nothing, and with no write before it, is the one to act; nothing is pressed before a deadline; an operation
that an order rule holds is tried again in the next cycle; it is held by an earlier operation of its tile on the same
way, by an AMO of the address that another tile of the partition issued 96 cycles before it, and under R or A by an
earlier STG. A write that no deadline presses waits for its turn, the cycle at which its request would have arrived,
and for one before it in the same 16 bytes (DESIGN CHOICE, log 62). (3) R200, R389, R170: a reply is written into its
scalar at its deadline, with the format and poison of the operation; one that is absent poisons the scalar and traps
0x01, subcode 5. (4) R199: the deadlines that have passed are checked once; of each operation that is not complete the
tile traps 0x01, subcode 5, with the operation's own slot and bundle. Where the spec leaves a reading open this takes
the model's own: notes/assumptions 22, 31, 45, 56, 62. -/
def Obligations.RemoteEnds : Prop :=
  Stated.StagingMovesBytes ∧ Stated.OrderAndDeadlines ∧ Stated.RepliesDelivered ∧ Stated.DeadlinesChecked

/-- R370, R371, R218, R223: a sweep of a granted row enters channel S at c: its record says what the member contributes,
the words it expects and when, and it ends at the cycle of the result. A poisoned guard poisons the contribution (DEDUCED,
log 57). -/
def Stated.SweepsIssue : Prop :=
  ∀ (s : State) (g : Guard) (op : SweepOp) (vd vs : R9) (sr : R5) (sc : BitVec 6) (ex : Bool) (p : Nat) (q : Part), Acts s g →
    let k := s.myKey
    let t := s.tile k
    let l := s.now
    let v := rreg s vs
    let lat := latticeOf (s.groupOf k sc.toNat)
    s.rowOk vs.toNat = true → s.rowOk vd.toNat = true → t.part = some p → s.part p = some q → busyAt t.sw l = false →
    let gp := gpoi s g
    let cmd (kind : SweepKind) (op : SweepOp) (root : Nat) (w : List SweepWait) : ChCmd :=
      ⟨.sweep ⟨kind, op, v.fmt, sc.toNat, root, vd.toNat, w⟩, l, 1, l + lat.result, s.ctx.bundle, gp, 0, 0, 0, [], [], none⟩
    let word (kind : SweepKind) (op : SweepOp) (root : Nat) : SweepWord :=
      ⟨k % 256, k / 256, l, kind, op, v.fmt, sc.toNat, root, { sweepTerm kind op v with poi := v.poi || t.voided || gp }, [], [], [], [],
        false⟩
    let begun (c : ChCmd) (w : SweepWord) : State := ((s.setTile k { t with sw := some c }).modPart p
      fun q => { q with sweepWords := q.sweepWords.filter (fun w => l ≤ w.c + 4096) ++ [w] }).performed
    ((∀ fs, sweepFmts op = some fs → v.fmt ∈ fs) →
      exec (.cav g op vd vs sc) s = .next (begun (cmd .cav op 0 (lat.waits k l)) (word .cav op 0)) ∧
      exec (.ard g op vd vs sc) s = .next (begun (cmd .ard op 0 (lat.waits k l)) (word .ard op 0)) ∧
      exec (.scn g ex op vd vs sc) s = .next (begun (cmd (.scn ex) op 0 (lat.waits k l)) (word (.scn ex) op 0))) ∧
    (IntReg s sr → (sreg s sr).poi = false →
      let root := (sreg s sr).v.toNat
      let late : List SweepWait := if lat.size ≤ root then [⟨4, l + 8, k⟩] else []
      exec (.bcs g vd vs sr sc) s = .next (begun (cmd .bcs .fadd root (lat.waits k l ++ late)) (word .bcs .fadd root)))

/-- R223, R224: a word of a sweep that is due and agrees is taken into its buffer; an absent one traps 0x01, subcode 7, one
that disagrees 0x01, subcode 6, and the identity with poison stands in its place. -/
def Stated.SweepWordsTaken : Prop :=
  ∀ (s : State) (x y p : Nat) (q : Part) (c : ChCmd) (m : SweepCmd) (w : SweepWait), let k := tileKey x y
    (s.tile k).part = some p → s.part p = some q → (s.tile k).sw = some c → c.what = .sweep m →
    (m.waits.find? fun w => w.due ≤ s.lcycOf k) = some w → w.which < 4 →
    let u := s.modTile k fun t => { t with sw := some { c with what := .sweep { m with waits := m.waits.erase w } } }
    let bad := u.modPart p fun q => q.modSweep k c.c fun o => o.take w.which [⟨identityRow m.op m.fmt, m.fmt, true⟩] true
    (∀ f o, q.sweepAt w.sender c.c = some f → q.sweepAt k c.c = some o →
      (f.agrees o = true → exec (.sweepWord x y) s =
        .next (u.modPart p fun q => q.modSweep k c.c fun o => o.take w.which (f.sends w.which) false)) ∧
      (f.agrees o = false → exec (.sweepWord x y) s = .next (bad.raisePost k 1 6 6 c.bundle))) ∧
    (q.sweepAt w.sender c.c = none → exec (.sweepWord x y) s = .next (bad.raisePost k 1 7 6 c.bundle))

/-- R221, R371: at the cycle of its result a sweep writes its row, whole: the fold of its kind over the terms received, in
lattice order. -/
def Stated.SweepResults : Prop :=
  ∀ (s : State) (x y p : Nat) (q : Part) (c : ChCmd) (m : SweepCmd) (o : SweepWord), let k := tileKey x y
    (s.tile k).part = some p → s.part p = some q → (s.tile k).sw = some c → c.what = .sweep m → c.landed = 0 →
    c.busy ≤ s.lcycOf k → q.sweepAt k c.c = some o →
    let r := if m.kind = .bcs then s.bcsRow k q o else o.result
    ∃ t, exec (.sweepResult x y) s = .next t ∧ (t.tile k).readV m.vd = { r with poi := r.poi || c.poi } ∧
      (∀ j, j ≠ m.vd → (t.tile k).readV j = (s.tile k).readV j) ∧ (t.tile k).task = (s.tile k).task ∧
      (t.tile k).sram = (s.tile k).sram ∧ t.dev = s.dev

/-- R220, R221, R234: the result of a sweep at a member of a line or of a lattice: of the terms that are not empty (the rows
above, the members before, those after, the rows below) the left fold; the rows below and the members after are themselves right
folds, ARD folds the row totals; a result with no term at all is the operator's identity. A member's own term has its NaNs
canonical, lane by lane. -/
def Stated.SweepFolds : Prop :=
  ∀ (w : SweepWord) (a : Row) (i : Nat),
    let op (p q : RowReg) : RowReg := foldTerm w.op w.fmt p q
    let lefts (ts : List RowReg) : List RowReg := match ts with
      | [] => []
      | x :: r => [r.foldl op x]
    let rights (ts : List RowReg) : List RowReg := match ts.reverse with
      | [] => []
      | z :: q => [q.foldl (fun u v => op v u) z]
    let of (ts : List RowReg) : RowReg := match ts with
      | [] => ⟨identityRow w.op w.fmt, w.fmt, false⟩
      | x :: r => r.foldl op x
    let total := of (w.pre ++ w.v :: w.suf)
    (w.kind = .cav → w.result = of (lefts w.above ++ lefts w.pre ++ rights w.suf ++ rights w.below)) ∧
    (w.kind = .ard → w.result = of (w.above ++ total :: w.below)) ∧
    (w.kind = .scn false → w.result = of (lefts w.above ++ lefts w.pre ++ [w.v])) ∧
    (w.kind = .scn true → w.result = of (lefts w.above ++ lefts w.pre)) ∧
    (w.sends 0 = w.pre ++ [w.v] ∧ w.sends 1 = w.v :: w.suf ∧ w.sends 2 = w.above ++ [total] ∧ w.sends 3 = total :: w.below) ∧
    (i < 1024 / w.fmt.width → elem w.fmt.width (identityRow w.op w.fmt) i = foldIdentity w.op w.fmt % 2 ^ w.fmt.width) ∧
    (w.fmt.isFloat3 = true → i < 1024 / w.fmt.width → ∀ f ∈ [SweepOp.fadd, .fmul, .fmax, .fmin],
      elem w.fmt.width (soleRow f w.fmt a) i =
        if (w.fmt.value (elem w.fmt.width a i)).isNaN then w.fmt.canonNaN else elem w.fmt.width a i)

/-- (1) R370, R371, R218, R223: a sweep of a granted row enters channel S at c: its record says what the member
contributes, the words it expects and when, and it ends at the cycle of the result. A poisoned guard poisons the
contribution (DEDUCED, log 57). (2) R223, R224: a word of a sweep that is due and agrees is taken into its buffer; an
absent one traps 0x01, subcode 7, one that disagrees 0x01, subcode 6, and the identity with poison stands in its
place. (3) R221, R371: at the cycle of its result a sweep writes its row, whole: the fold of its kind over the terms
received, in lattice order. (4) R220, R221, R234: the result of a sweep at a member of a line or of a lattice: of the
terms that are not empty (the rows above, the members before, those after, the rows below) the left fold; the rows
below and the members after are themselves right folds, ARD folds the row totals; a result with no term at all is the
operator's identity. A member's own term has its NaNs canonical, lane by lane. Where the spec leaves a reading open
this takes the model's own: notes/assumptions 31, 38, 40, 47. -/
def Obligations.Sweeps : Prop :=
  Stated.SweepsIssue ∧ Stated.SweepWordsTaken ∧ Stated.SweepResults ∧ Stated.SweepFolds

/-- R163, R164, R156, R399: at F every tile of the partition stops, and its trap registers tell what it raised, or where
it stood; the first mapped tile lists, after its own, the errors that lay in no tile (DEDUCED, log 16).
Where the spec leaves a reading open this takes the model's own: notes/assumptions 2, 16, 31, 32. -/
def Obligations.FreezeStops : Prop :=
  ∀ (s : State) (p : Nat) (q : Part) (z : Freeze), s.part p = some q → q.freeze = some z → z.stopped = false →
    z.f ≤ s.gcyc - q.lbase → q.px0 + q.w ≤ 64 →
    let base := match ((s.raisers q).head?).bind fun k => (s.tile k).raise with
      | some r => r.cause + 256 * r.sub
      | none => z.cause + 256 * z.sub
    ∃ t, exec (.freezeStop p) s = .next t ∧
      t.part p = some { q with freeze := some { z with stopped := true, fgcyc := s.gcyc } } ∧
      (∃ g, s.gcyc < g ∧ (g, Instr.freezeCaptured p) ∈ t.agenda) ∧
      (∀ k, k ∉ q.tileKeys → z.errors = [] ∨ (s.mappedOf p).head? ≠ some k → t.tile k = s.tile k) ∧
      ∀ k ∈ q.tileKeys,
        let u := s.tile k
        let v := t.tile k
        let placeless : List DefFault := if (s.mappedOf p).head? = some k then z.errors.map fun e => ⟨0x0A, 0, 0xFF, 0, e⟩ else []
        let listed := (u.spec.filter fun d => d.cyc = z.t) ++ u.deferred ++ placeless
        let extra := (if listed = [] then 0 else 2 ^ 17) + (if u.voided then 2 ^ 18 else 0) +
          (if z.cause = 0x0A ∧ u.unmarked z.f then 2 ^ 19 else 0)
        v.st = (if u.st = .running ∨ u.st = .ended then .frozen else u.st) ∧
        v.heldState = (if u.st = .running ∨ u.st = .ended then u.st else u.heldState) ∧
        v.deferred = listed.take 16 ∧ v.task.trapt = BitVec.ofNat 64 (q.lbase + z.t) ∧
        SameStore u v ∧ v.task.s = u.task.s ∧ v.task.p = u.task.p ∧ v.task.b = u.task.b ∧ v.task.latches = u.task.latches ∧
        match u.raise with
        | some r => v.task.trapc = BitVec.ofNat 64 (r.cause + 256 * r.sub + 2 ^ 16 + extra) ∧
            v.task.trapb = BitVec.ofNat 64 r.bundle ∧
            v.task.trapm = BitVec.ofNat 64 (if r.post then 0 else r.mask.toNat)
        | none => v.task.trapc = BitVec.ofNat 64 (base + extra) ∧ v.task.trapb = BitVec.ofNat 64 u.task.pc ∧
            v.task.trapm = 0

/-- R157, R162, R169, R174, R323: the outcome of a freeze is the strongest that a raising tile's tree decides; a discard where
the front end or an RFZ.KILL demands one; stabling for a pre-emption; else the launch resumes. -/
def Stated.OutcomeIsStrongest : Prop :=
  ∀ (s : State) (q : Part) (z : Freeze) (l : Launch),
    let v := s.decide q z l
    let ds := (s.verdicts q l).map (·.2)
    let forced := z.discardReq = true ∨ z.killed = true ∨ z.cause = 0x0A ∨ z.cause = 0x10 ∨ (z.cause = 0x0D ∧ z.sub ≠ 2)
    (forced → v = ⟨.discard, 0xFF, 3⟩) ∧
    (¬ forced → ds ≠ [] → v ∈ ds ∧ ∀ d ∈ ds, d.outcome.rank ≤ v.outcome.rank) ∧
    (¬ forced → ds = [] → v = ⟨if z.cause = 0x0E then .stable else .resume, 0xFF, 0⟩)

/-- R169: the levels of a tree judge a raising tile from the innermost outwards: the first that does not pass it on
decides, a level that may retry only as often as it says and within 8 attempts, and past the outermost is a discard. -/
def Stated.LevelsDecide : Prop :=
  ∀ (l : Launch) (tree : List Level),
    let passes (n : Nat) (v : Level) : Prop :=
      v.policy = .killParent ∨ (v.policy = .retry ∧ (v.retry ≤ sget 0 l.used n ∨ 8 ≤ l.attempts))
    (∀ n v, tree[n]? = some v → (∀ m u, m < n → tree[m]? = some u → passes m u) → ¬ passes n v →
      contain l 0 false tree = ⟨match v.policy with
        | .ignore => .resume
        | .killSelf => .voidResume
        | .retry => .retry
        | .killParent => .discard, n, 0⟩) ∧
    ((∀ n v, tree[n]? = some v → passes n v) →
      contain l 0 false tree = ⟨.discard, 0xFF, if ∃ v ∈ tree, v.policy = .retry then 4 else 3⟩)

/-- R165, R169 to R172, R153, R171: once the frame is complete its header stands in memory and the outcome is acted on. A
retry clears the voids (DEDUCED, log 51); where no launch is left to run again it ends (DEDUCED, DESIGN CHOICE, log 52). -/
def Stated.OutcomesActedOn : Prop :=
  ∀ (s : State) (p : Nat) (q : Part) (z : Freeze) (l : Launch), s.part p = some q → q.run = some l → q.freeze = some z →
    z.stopped = true → z.captured = false →
    let v := s.decide q z l
    let z' : Freeze := { z with captured := true, outcome := v.outcome, level := v.level, code := v.code }
    ∃ t, exec (.freezeCaptured p) s = .next t ∧ (∃ g, s.gcyc < g ∧ (g, Instr.trapRecordWrite p) ∈ t.agenda) ∧
      (∃ u, t.part p = some u ∧ u.pendRecs = q.pendRecs ++ [s.trapRecord q z l v]) ∧
      (v.outcome = .discard → LaunchEnded s t p q l 2 v.code (l.charge + z.f + 1)) ∧
      (v.outcome = .retry → (∃ u, t.part p = some u ∧ (s.trip = false → u.freeze = none) ∧
          (u.run = none ∨ ∃ m, u.run = some m ∧ m.s = none ∧ m.attempts = l.attempts ∧ m.lseq = l.lseq ∧ m.voids = [] ∧
            sget 0 m.used (s.retryLevel q l) = sget 0 l.used (s.retryLevel q l) + 1 ∧ m.charge = l.charge + z.f + 1)) ∧
        ∀ k ∈ q.tileKeys, t.tile k = { (s.tile k).idled with st := q.restState true k }) ∧
      (v.outcome = .voidResume → ∃ u m, t.part p = some u ∧ u.freeze = some z' ∧ u.run = some m ∧
        (∀ k, k ∈ m.voids ↔ k ∈ l.voids ∨ k ∈ s.voidSet q l)) ∧
      (v.outcome = .resume ∨ v.outcome = .stable → ∃ u, t.part p = some u ∧ u.freeze = some z' ∧ u.run = some l) ∧
      (v.outcome = .resume ∨ v.outcome = .voidResume → ∃ g, s.gcyc < g ∧ (g, Instr.resume p) ∈ t.agenda) ∧
      (v.outcome = .stable → ∃ g, s.gcyc < g ∧ (g, Instr.stabling p) ∈ t.agenda) ∧
      (v.outcome ≠ .discard → v.outcome ≠ .retry →
        let f (o n : Nat) : Nat := ofBytes (Memory.reads t.dev (q.save + o) n)
        f 0 8 = z.fgcyc % 2 ^ 64 ∧ f 8 8 = (q.lbase + z.t) % 2 ^ 64 ∧ f 16 8 = z.f % 2 ^ 64 ∧ f 24 8 = l.lseq.toNat ∧
        f 36 4 = (s.raisers q).length % 2 ^ 32 ∧ f 44 1 = v.outcome.code ∧ f 45 1 = v.level % 256 ∧ f 46 2 = q.dist % 65536)

/-- (1) R157, R162, R169, R174, R323: the outcome of a freeze is the strongest that a raising tile's tree decides; a
discard where the front end or an RFZ.KILL demands one; stabling for a pre-emption; else the launch resumes. (2) R169:
the levels of a tree judge a raising tile from the innermost outwards: the first that does not pass it on decides, a
level that may retry only as often as it says and within 8 attempts, and past the outermost is a discard. (3) R165,
R169 to R172, R153, R171: once the frame is complete its header stands in memory and the outcome is acted on. A retry
clears the voids (DEDUCED, log 51); where no launch is left to run again it ends (DEDUCED, DESIGN CHOICE, log 52).
Where the spec leaves a reading open this takes the model's own: notes/assumptions 2, 50, 59, 62. -/
def Obligations.FreezeOutcomes : Prop :=
  Stated.OutcomeIsStrongest ∧ Stated.LevelsDecide ∧ Stated.OutcomesActedOn

/-- R105, R106: a trap-queue record takes the lowest free slot; a full queue lets a fatal record overwrite the oldest
replayable one, else the oldest, and one slot stays for fatal records. A record takes as its TSEQ the count of records
before it (DEDUCED, log 53). -/
def Obligations.TrapQueueFills : Prop :=
  ∀ (s : State) (p : Nat) (q : Part) (r : BitVec 512) (rs : List (BitVec 512)), s.part p = some q → q.pendRecs = r :: rs →
    let fatal := r.getLsbD 32
    let replayable := ((List.range 64).filter fun k => q.tqValid.getLsbD k ∧ (sget 0 q.tq k).getLsbD 32 = false).length
    let write (k : Nat) (beyond : Bool) : Prop := ∃ t u, exec (.trapRecordWrite p) s = .next t ∧ t.part p = some u ∧
      u.pendRecs = rs ∧ u.tqValid = q.tqValid ||| (1#64 <<< k) ∧ u.tseq = q.tseq + 1 ∧ u.tqLost = (q.tqLost || beyond) ∧
      sget 0 u.tq k = r ||| q.tseq.setWidth 512 ∧ ∀ j, j ≠ k → sget 0 u.tq j = sget 0 q.tq j
    (∀ k < 64, q.tqValid.getLsbD k = false → (∀ j < k, q.tqValid.getLsbD j = true) → (fatal = true ∨ replayable ≤ 62) →
      write k false) ∧
    (fatal = false → 62 < replayable → exec (.trapRecordWrite p) s = .next s) ∧
    (fatal = true → (∀ k < 64, q.tqValid.getLsbD k = true) → ∃ k < 64, write k true ∧
      ∀ j < 64, (0 < replayable → (sget 0 q.tq k).getLsbD 32 = false) ∧
        ((sget 0 q.tq j).getLsbD 32 = (sget 0 q.tq k).getLsbD 32 →
          ((sget 0 q.tq k).extractLsb' 0 32).toNat ≤ ((sget 0 q.tq j).extractLsb' 0 32).toNat))

/-- R110, R167, R170, R162, R323: a captured freeze announces G, a multiple of 12,288 cycles after F, once its record stands
and every service has been given; at G LBASE moves by G - F and every tile is as it was before F. Where a discard has
been asked for the record, fatal now, is placed first, and the launch ends; one that awaited its re-issue ends at once. -/
def Stated.FreezesResume : Prop :=
  ∀ (s : State) (p : Nat) (q : Part) (z : Freeze) (l : Launch), s.part p = some q → q.run = some l → q.freeze = some z →
    z.captured = true → z.outcome ≠ .stable →
    (z.killed = false → z.discardReq = false → z.resumeAt = none → q.pendRecs = [] → s.served q z = true →
      z.fgcyc ≤ s.gcyc → ∃ g t, exec (.resume p) s = .next t ∧ s.gcyc + q.dist ≤ g ∧ g < s.gcyc + q.dist + 12288 ∧
        (g - z.fgcyc) % 12288 = 0 ∧ t.part p = some { q with freeze := some { z with resumeAt := some g } } ∧
        (g, Instr.resume p) ∈ t.agenda) ∧
    (z.killed = false → z.discardReq = false → z.resumeAt = none → ¬ (q.pendRecs = [] ∧ s.served q z = true) →
      ∃ g t, exec (.resume p) s = .next t ∧ s.gcyc < g ∧ (g, Instr.resume p) ∈ t.agenda ∧ t.parts = s.parts ∧
        t.tiles = s.tiles) ∧
    (z.killed = false → z.discardReq = false → z.resumeAt = some s.gcyc → ∃ t, exec (.resume p) s = .next t ∧
      t.part p = some { q with
        lbase := q.lbase + (s.gcyc - z.fgcyc), freeze := none
        sweepWords := q.sweepWords.map fun w =>
          { w with v := { w.v with poi := w.v.poi || l.voids.contains (tileKey w.x w.y) } } } ∧
      (∀ k, k ∉ q.tileKeys → t.tile k = s.tile k) ∧
      ∀ k ∈ q.tileKeys, t.tile k = { s.tile k with
        st := if (s.tile k).st = .frozen then (s.tile k).heldState else (s.tile k).st
        voided := (s.tile k).voided || l.voids.contains k, raise := none, deferred := [], defOver := false }) ∧
    (z.killed = true ∨ z.discardReq = true → l.code ≠ [] → ∃ t u, exec (.resume p) s = .next t ∧ t.part p = some u ∧
      u.run = none ∧ u.freeze = q.freeze ∧ (t.queue l.q).err = 3 ∧ (t.queue l.q).def_ = (s.queue l.q).def_ - l.charge ∧
      ((s.queue l.q).epoch = l.epoch → ∀ r ∈ (t.queue l.q).recs, r.idx = l.idx →
        r.done = true ∧ (r.rcpt.extractLsb' 8 8).toNat = 2) ∧
      ∀ k ∈ q.tileKeys, t.tile k = { s.tile k with st := q.restState true k }) ∧
    (z.killed = true ∨ z.discardReq = true → l.code = [] →
      (q.pendRecs = [] → ∃ t, exec (.resume p) s = .next t ∧ LaunchEnded s t p q l 2 3 (l.charge + z.f + 1)) ∧
      (q.pendRecs ≠ [] → ∃ t u, exec (.resume p) s = .next t ∧ t.part p = some u ∧ u.run = q.run ∧ u.freeze = q.freeze ∧
        u.pendRecs.length = q.pendRecs.length ∧
        (∀ r ∈ u.pendRecs, (r.extractLsb' 256 64).toNat = z.fgcyc → r.getLsbD 32 = true) ∧
        (s.gcyc, Instr.trapRecordWrite p) ∈ t.agenda ∧ (s.gcyc, Instr.resume p) ∈ t.agenda))

/-- R174, R176, R177, R161: a launch to be stabled leaves its tiles once every transfer of it that no flag holds back has
completed, its record stands and its services are done; its image goes, in sealed blocks, to lofts; nothing else of any
SRAM or of the rows that R176 leaves in place changes. -/
def Stated.LaunchesStabled : Prop :=
  ∀ (s : State) (p : Nat) (q : Part) (z : Freeze) (l : Launch), s.part p = some q → q.run = some l → q.freeze = some z →
    z.captured = true → z.outcome = .stable → z.killed = false → z.discardReq = false →
    let ks := l.bank.wids.map (·.1)
    let ready := (∀ k ∈ ks, ∀ o ∈ (s.tile k).ops, o.open_ = false ∨ s.flagHolds k o = true) ∧ q.pendRecs = [] ∧
      s.served q z = true
    (¬ ready → ∃ g t, exec (.stabling p) s = .next t ∧ s.gcyc < g ∧ (g, Instr.stabling p) ∈ t.agenda ∧ t.parts = s.parts ∧
      t.tiles = s.tiles) ∧
    (ready → ks.Nodup → ∃ t u m, exec (.stabling p) s = .next t ∧ t.part p = some u ∧ u.run = none ∧ u.freeze = none ∧
      u.stab = some m ∧ m.launch = l ∧ m.freeze = z ∧ m.lbase = q.lbase ∧ m.tiles = ks.map (fun k => (k, s.tile k)) ∧
      m.links = q.links ∧ m.arrivals = q.arrivals ∧ m.sweepWords = q.sweepWords ∧ m.bars = q.bars ∧ m.ring = q.ring ∧
      m.barFire = q.barFire ∧
      (∀ b ∈ m.blocks, b.struck = false ∧ b.count = q.stablings + 1 ∧
        b.tag = loftTag (Config.stabKey s.onCount) p l b.num b.count b.cells b.poi) ∧
      (∀ k a, (∀ b ∈ m.blocks, ∀ c, b.place = .sram k c → a < c ∨ c + 4096 ≤ a) →
        Memory.read (t.tile k).sram a = Memory.read (s.tile k).sram a) ∧
      (∀ k i, (k ∉ ks ∨ l.bank.rows ≤ i) → (∀ b ∈ m.blocks, ∀ c, b.place = .rows k c → i < c ∨ c + 32 ≤ i) →
        (t.tile k).readV i = (s.tile k).readV i) ∧
      ∀ k ∈ q.tileKeys, (k ∈ ks → (t.tile k).ops = [] ∧ (t.tile k).mapped = false) ∧
        ((t.tile k).st = .stabled ↔ k ∈ ks ∧ ¬ ∃ n, q.next = some n ∧ n.placed = true ∧ n.bank.maps k = true))

/-- R178, R176, R179: a stabled launch comes back as it was: of each tile every register and engine, the rows granted and the
SRAM of the footprint with its poison; and it goes on from its freeze, once every block is as it was sealed or
its tag agrees; else it is discarded with an event. -/
def Stated.LaunchesRestored : Prop :=
  ∀ (s : State) (p : Nat) (q : Part) (z : Stabled), s.part p = some q → q.stab = some z → s.restoreDue p = true →
    (s.firstBad p q z = none → (z.tiles.map (·.1)).Nodup → ∃ t u, exec (.restore p) s = .next t ∧ t.part p = some u ∧
      u.run = some z.launch ∧ u.stab = none ∧ u.bank = z.launch.bank ∧ u.lbase = z.lbase ∧ u.links = z.links ∧
      u.arrivals = z.arrivals ∧ u.sweepWords = z.sweepWords ∧ u.bars = z.bars ∧ u.ring = z.ring ∧ u.barFire = z.barFire ∧
      u.freeze = some { z.freeze with outcome := .resume, resumeAt := none } ∧
      (∃ g, s.gcyc < g ∧ (g, Instr.resume p) ∈ t.agenda) ∧
      ∀ e ∈ z.tiles, let v := t.tile e.1
        v.task = e.2.task ∧ v.st = e.2.st ∧ v.heldState = e.2.heldState ∧ v.wid = e.2.wid ∧ v.acc = e.2.acc ∧ v.trA = e.2.trA ∧
        v.trB = e.2.trB ∧ v.ops = e.2.ops ∧ v.la = e.2.la ∧ v.lb = e.2.lb ∧ v.part = (s.tile e.1).part ∧
        v.arrN = e.2.arrN ∧ v.arrE = e.2.arrE ∧ v.arrS = e.2.arrS ∧ v.arrW = e.2.arrW ∧ v.ta = e.2.ta ∧ v.tb = e.2.tb ∧
        v.g = e.2.g ∧ v.sw = e.2.sw ∧ v.mx = e.2.mx ∧ v.finals = e.2.finals ∧ v.gTails = e.2.gTails ∧ v.fw = e.2.fw ∧
        v.voided = e.2.voided ∧ v.mapped = e.2.mapped ∧ v.health = (s.tile e.1).health ∧
        (∀ i < z.launch.bank.rows, v.readV i = e.2.readV i) ∧
        (∀ a < 1024 * z.launch.bank.foot, Memory.read v.sram a = Memory.read e.2.sram a) ∧
        ∀ w < 64 * z.launch.bank.foot, sget false v.spoi w = sget false e.2.spoi w) ∧
    (∀ b, s.firstBad p q z = some b → ∃ t, exec (.restore p) s = .next t ∧ (t.queue z.launch.q).err = 3 ∧
      (∃ u, t.part p = some u ∧ u.stab = none) ∧ ∀ e ∈ z.tiles, t.tile e.1 = (s.tile e.1).idled)

/-- (1) R110, R167, R170, R162, R323: a captured freeze announces G, a multiple of 12,288 cycles after F, once its
record stands and every service has been given; at G LBASE moves by G - F and every tile is as it was before F. Where
a discard has been asked for the record, fatal now, is placed first, and the launch ends; one that awaited its re-
issue ends at once. (2) R174, R176, R177, R161: a launch to be stabled leaves its tiles once every transfer of it that
no flag holds back has completed, its record stands and its services are done; its image goes, in sealed blocks, to
lofts; nothing else of any SRAM or of the rows that R176 leaves in place changes. (3) R178, R176, R179: a stabled
launch comes back as it was: of each tile every register and engine, the rows granted and the SRAM of the footprint
with its poison; and it goes on from its freeze, once every block is as it was sealed or its tag agrees; else it is
discarded with an event. Where the spec leaves a reading open this takes the model's own: notes/assumptions 2, 6, 16,
18, 26, 31, 32, 50, 59. -/
def Obligations.FreezesResume : Prop :=
  Stated.FreezesResume ∧ Stated.LaunchesStabled ∧ Stated.LaunchesRestored

/-- R83, R152, R158, R162, R173: a pre-emption stops the launch at its first pre-emption point that lies D cycles ahead; in
a freeze's shadow it is kept for the resume; it is not made of a launch that cannot be pre-empted, or for one no
better. -/
def Stated.PreemptionAnnounced : Prop :=
  ∀ (s : State) (p : Nat) (q : Part) (r h : Launch), s.part p = some q → q.run = some r → q.next = some h →
    let l := s.gcyc - q.lbase
    (r.bank.preempt = 0 ∨ q.stab.isSome ∨ r.prio ≤ h.prio ∨ r.code ≠ [] → exec (.preemptRequest p) s = .next s) ∧
    (0 < r.bank.preempt → q.stab = none → h.prio < r.prio → r.code = [] →
      (∀ z, q.freeze = some z → ∃ t y, exec (.preemptRequest p) s = .next t ∧
        t.part p = some { q with freeze := some y } ∧ y.preemptReq = true ∧ y.f = z.f ∧ y.cause = z.cause) ∧
      (q.freeze = none → (r.bank.preempt = 2 ^ 64 - 1 ∨ (l + q.dist) % r.bank.preempt = 0) →
        ∃ t, exec (.preemptRequest p) s = .next t ∧
          t.part p = some { q with freeze := some (Freeze.announce l (l + q.dist) 0x0E 0 true) }) ∧
      (q.freeze = none → r.bank.preempt ≠ 2 ^ 64 - 1 → (l + q.dist) % r.bank.preempt ≠ 0 →
        ∃ g, exec (.preemptRequest p) s = .next { s with agenda := s.agenda ++ [(g, .preemptRequest p)] } ∧ s.gcyc < g ∧
          (g - s.gcyc + l + q.dist) % r.bank.preempt = 0 ∧ g < s.gcyc + r.bank.preempt))

/-- R118, R158, R162, R323: the watchdog and a service request of the front end announce a freeze D cycles ahead, or are
kept for the one announced. -/
def Stated.FrontEndAnnounces : Prop :=
  ∀ (s : State) (p : Nat) (q : Part) (r : Launch), s.part p = some q → q.run = some r → r.code = [] →
    let l := s.gcyc - q.lbase
    (q.freeze = none →
      exec (.frontEndServiceRequest p) s = .next (s.setPart p { q with freeze := some (.announce l (l + q.dist) 0x0D 2 true) }) ∧
      (r.bank.wdog ≠ 0 → r.bank.wdog - q.dist ≤ l →
        exec (.watchdog p) s = .next (s.setPart p { q with freeze := some (.announce l (l + q.dist) 0x0D 1 true) }))) ∧
    (∀ z, q.freeze = some z →
      exec (.frontEndServiceRequest p) s = .next (s.setPart p { q with freeze := some { z with serviceReq := true } }) ∧
      (z.stopped = false → r.bank.wdog ≠ 0 → r.bank.wdog - q.dist ≤ l →
        exec (.watchdog p) s = .next (s.setPart p { q with freeze := some { z with discardReq := true } })))

/-- (1) R83, R152, R158, R162, R173: a pre-emption stops the launch at its first pre-emption point that lies D cycles
ahead; in a freeze's shadow it is kept for the resume; it is not made of a launch that cannot be pre-empted, or for
one no better. (2) R118, R158, R162, R323: the watchdog and a service request of the front end announce a freeze D
cycles ahead, or are kept for the one announced. Where the spec leaves a reading open this takes the model's own:
notes/assumptions 2, 17. -/
def Obligations.FreezesAnnounced : Prop :=
  Stated.PreemptionAnnounced ∧ Stated.FrontEndAnnounces

/-- R97 to R99, R60, R63: a wake from a source that may wake the queue sets WIDX to an accepted value and lets the queue look
again; from another it is an event on the queue's port; a queue that is not enabled is not woken, nor does a host's wake arrive
at a port without the window or that does not answer (R55), nor a frame at a port without power, nor a wake at a chiplet
without (R34, R114). -/
def Stated.WakesLand : Prop :=
  ∀ (s : State) (src : WakeSrc) (q : Nat) (v : W32) (port : Nat) (f : Frame),
    let d := s.queue q
    let allowed := match src with
      | .host _ => true
      | .tile p => d.ow || d.pset.contains p
      | .frame _ => d.ow
    let arrives : Prop := q < 2 ^ 15 ∧ s.chipletLit (q % 28) = true ∧ ∀ p, src = .host p → p < 8 ∧ s.answers p = true
    (d.en = false ∨ ¬ arrives → exec (.wakeWrite src q v) s = .next s) ∧
    (d.en = true → arrives → allowed = true → exec (.wakeWrite src q v) s = .next (s.modQueue q fun _ => { d with
      widx := if 1 ≤ (v - d.widx).toNat ∧ (v - d.widx).toNat < 2 ^ 31 then v else d.widx
      asleep := false })) ∧
    (d.en = true → arrives → allowed = false → ∃ t, exec (.wakeWrite src q v) s = .next t ∧ t.queues = s.queues ∧
      (((s.port d.qport).room = true ∧ (t.port d.qport).evhead = (s.port d.qport).evhead + 1) ∨
        ((s.port d.qport).room = false ∧ (t.port d.qport).evovf = satInc (s.port d.qport).evovf))) ∧
    (s.portLit port = false → exec (.wakeFrame port f) s = .next s) ∧
    (s.portLit port = true → s.frameOk f 2 255 = true → fTidx f < 2 ^ 15 → ∃ t, exec (.wakeFrame port f) s = .next t ∧
      exec (.wakeWrite (.frame (BitVec.ofNat 16 (fField f 4 2))) (fTidx f) (BitVec.ofNat 32 (fChunk f))) s = .next t)

/-- R99, R114 to R117, R148: the entry at RIDX: one with another index puts the queue to sleep; a malformed one completes
as an error; a good one becomes the last record, and a LAUNCH is next of all. -/
def Stated.EntriesTaken : Prop :=
  ∀ (s : State) (q : Nat),
    let d := s.queue q
    let i := d.ridx
    let a := d.field 0 8 / 256 * 256 + 256 * (i.toNat % 2 ^ d.field 8 1)
    let b := BitVec.ofNat 2048 (memNat (if d.desc.getLsbD 0 then s.dev else s.host) a 256)
    (d.looks = false → exec (.entryTake q) s = .next s) ∧
    (d.looks = true → recF b 0 8 ≠ i.toNat → exec (.entryTake q) s = .next (s.modQueue q fun _ => { d with asleep := true })) ∧
    (d.looks = true → recF b 0 8 = i.toNat → ∀ o, d.recordBad i b = some o → ∃ t, exec (.entryTake q) s = .next t ∧
      (t.queue q).ridx = i + 1 ∧ (t.queue q).err = 2 ∧ ∀ r ∈ (t.queue q).recs, r.idx = i → r.done = true) ∧
    (d.looks = true → recF b 0 8 = i.toNat → d.recordBad i b = none → ∃ t r, exec (.entryTake q) s = .next t ∧
      t.queue q = { d with ridx := i + 1, recs := d.recs ++ [r] } ∧ r.idx = i ∧ r.bytes = b ∧ r.prio = d.prio ∧
      r.started = false ∧ r.done = false ∧
      (∀ n < 8, r.met.getLsbD n = true ↔ n < r.ndep ∧ (if depType (depWord b n) = 0 then
          State.entryDone (s.modQueue q fun d => { d with ridx := i + 1 }) (depWord b n) = true
        else s.eventMet (depWord b n) (depValue b n) = true)) ∧
      (t.agenda = if recF b 8 1 = 1 then (s.gcyc, .launch q i.toNat) :: s.agenda else s.agenda))

/-- R116, R129: a LAUNCH taken gets the next LSEQ of its queue's context. -/
def Stated.LaunchNumbered : Prop :=
  ∀ (s : State) (q idx : Nat),
    let d := s.queue q
    let n := sget 0 s.lseqs d.ctx
    ∃ t, exec (.launch q idx) s = .next t ∧ sget 0 t.lseqs d.ctx = n + 1 ∧
      (∀ c, c ≠ d.ctx → sget 0 t.lseqs c = sget 0 s.lseqs c) ∧ (t.queue q).recs = d.recs.map fun r =>
        if r.idx.toNat = idx ∧ r.kind = 1 then { r with lseq := n } else r

/-- (1) R97 to R99, R60, R63: a wake from a source that may wake the queue sets WIDX to an accepted value and lets the
queue look again; from another it is an event on the queue's port; a queue that is not enabled is not woken, nor does
a host's wake arrive at a port without the window or that does not answer (R55), nor a frame at a port without power,
nor a wake at a chiplet without (R34, R114). (2) R99, R114 to R117, R148: the entry at RIDX: one with another index
puts the queue to sleep; a malformed one completes as an error; a good one becomes the last record, and a LAUNCH is
next of all. (3) R116, R129: a LAUNCH taken gets the next LSEQ of its queue's context. Where the spec leaves a reading
open this takes the model's own: notes/assumptions 2, 11, 14, 26, 44, 53, 59, 60. -/
def Obligations.QueueEntries : Prop :=
  Stated.WakesLand ∧ Stated.EntriesTaken ∧ Stated.LaunchNumbered

/-- R116, R148, R154: WAIT, SIGNAL, FENCE and RECEIPT start at the head of their queue once their dependences are met; a
WAIT completes at once, a FENCE once it is the first record not completed. -/
def Stated.RecordsStart : Prop :=
  ∀ (s : State) (q idx : Nat),
    let d := s.queue q
    let begun := s.modQueue q fun d =>
      { d with recs := d.recs.map fun r => if r.idx.toNat = idx then { r with started := true } else r }
    (d.starts idx = true →
      exec (.signal q idx) s = .next begun ∧ exec (.receipt q idx) s = .next begun ∧
      (∃ t, exec (.wait q idx) s = .next t ∧ ∀ r ∈ (t.queue q).recs, r.idx = BitVec.ofNat 32 idx → r.done = true)) ∧
    (d.starts idx = false → exec (.signal q idx) s = .next s ∧ exec (.receipt q idx) s = .next s ∧
      exec (.wait q idx) s = .next s) ∧
    (∀ r, d.underWay idx 4 = some r → d.starts idx = false →
      (d.cidx.toNat ≠ idx → exec (.fence q idx) s = .next s) ∧
      (d.cidx.toNat = idx → ∃ t, exec (.fence q idx) s = .next t ∧
        ∀ r ∈ (t.queue q).recs, r.idx = BitVec.ofNat 32 idx → r.done = true)) ∧
    (d.starts idx = true → d.cidx.toNat ≠ idx → exec (.fence q idx) s = .next begun) ∧
    (∀ r, d.starts idx = true → d.cidx.toNat = idx → d.head = some r → r.kind = 4 →
      ∃ t, exec (.fence q idx) s = .next t ∧ ∀ r ∈ (t.queue q).recs, r.idx = BitVec.ofNat 32 idx → r.done = true)

/-- R115, R116, R130, R154: a SIGNAL, and a RECEIPT of a launch that has ended, write to their place once they may; the
event words that other records wait for are read again. -/
def Stated.RecordsWrite : Prop :=
  ∀ (s : State) (q idx : Nat) (r : Rec),
    let w := recF r.bytes 144 8
    let a := w / 8 * 8
    let mem (u : State) : List Host.Cell := if w % 2 = 1 then u.dev else u.host
    ((s.queue q).underWay idx 3 = some r → (s.queue q).cidx.toNat ≠ idx →
      exec (.signalWrite q idx) s = .next s) ∧
    ((s.queue q).underWay idx 3 = some r → (s.queue q).cidx.toNat = idx → ∃ t, exec (.signalWrite q idx) s = .next t ∧
      memNat (mem t) a 8 = ((if recF r.bytes 160 1 = 1 then memNat (mem s) a 8 else 0) + recF r.bytes 152 8) % 2 ^ 64 ∧
      (∀ b, b < a ∨ a + 8 ≤ b → Memory.read (mem t) b = Memory.read (mem s) b) ∧
      (∀ x ∈ (t.queue q).recs, x.idx = r.idx → x.done = true) ∧
      ∀ j ∈ skeys t.queues, (t.queue j).recs.any Rec.awaitsEvent = true →
        ∃ g, s.gcyc < g ∧ (g, Instr.dependenceRecheck j) ∈ t.agenda) ∧
    ((s.queue q).underWay idx 5 = some r → ∀ l,
      (s.queue q).recs.find? (fun l => l.idx.toNat == recF r.bytes 152 4 && l.kind == 1 && l.done) = some l →
      ∃ t, exec (.receiptWrite q idx) s = .next t ∧ Memory.reads (mem t) a 192 = bytesOf 192 l.rcpt.toNat ∧
        Memory.reads (mem t) (a + 192) 64 = bytesOf 64 (receiptSig l.rcpt).toNat ∧
        (∀ b, b < a ∨ a + 256 ≤ b → Memory.read (mem t) b = Memory.read (mem s) b) ∧
        ∀ x ∈ (t.queue q).recs, x.idx = r.idx → x.done = true)

/-- R115: DEPENDENCE_RECHECK reads the event words again; what has been met stays met. -/
def Stated.DependencesRechecked : Prop :=
  ∀ (s : State) (q : Nat), ∃ t, exec (.dependenceRecheck q) s = .next t ∧
    (t.queue q).recs.length = (s.queue q).recs.length ∧
    ∀ (i : Nat) (r : Rec), (s.queue q).recs[i]? = some r → ∃ u, (t.queue q).recs[i]? = some u ∧
      u.bytes = r.bytes ∧ u.idx = r.idx ∧ u.started = r.started ∧ u.done = r.done ∧
      (r.done = false → ∀ n < 8, u.met.getLsbD n = true ↔ r.met.getLsbD n = true ∨ (n < r.ndep ∧
        if depType (depWord r.bytes n) = 0 then s.entryDone (depWord r.bytes n) = true
        else s.eventMet (depWord r.bytes n) (depValue r.bytes n) = true))

/-- (1) R116, R148, R154: WAIT, SIGNAL, FENCE and RECEIPT start at the head of their queue once their dependences are
met; a WAIT completes at once, a FENCE once it is the first record not completed. (2) R115, R116, R130, R154: a
SIGNAL, and a RECEIPT of a launch that has ended, write to their place once they may; the event words that other
records wait for are read again. (3) R115: DEPENDENCE_RECHECK reads the event words again; what has been met stays
met. Where the spec leaves a reading open this takes the model's own: notes/assumptions 2, 52, 59. -/
def Obligations.QueueRecords : Prop :=
  Stated.RecordsStart ∧ Stated.RecordsWrite ∧ Stated.DependencesRechecked

/-- R122, R123, R150, R300, R74: at S the launch starts: its mapped tiles run from ENTRY with every register as R300 gives
it and their SRAM as placed, the others are idle or STABLED, and LCYC counts from here; a start that is no longer allowed
waits for another start cycle. -/
def Stated.LaunchesStart : Prop :=
  ∀ (s : State) (p : Nat) (q : Part) (l : Launch) (retry : Bool), s.part p = some q →
    (if retry then q.run = some l ∧ l.code ≠ [] else q.run = none ∧ q.next = some l) → l.s = some s.gcyc →
    let ok := s.trip = false ∧ s.aligned q = true ∧ q.active = true ∧ s.withdrawnPen q = none ∧
      (retry = false → s.earlierHas l (fun o => o.all (s.gcyc < ·)) = false)
    let back : Launch := { l with s := none }
    (¬ ok → exec (.launchStart p) s = .next (s.setPart p
      (if retry then { q with run := some back } else { q with next := some back }))) ∧
    (ok → (l.bank.wids.map (·.1)).Nodup → ∃ t u, exec (.launchStart p) s = .next t ∧ t.part p = some u ∧
      u.run = some { l with code := [], args := [], attempts := l.attempts + 1, lastS := some s.gcyc } ∧ u.next = (if retry then q.next else none) ∧ u.lbase = s.gcyc ∧
      u.bank = l.bank ∧ u.gen = s.wgen ∧ u.freeze = none ∧ u.links = [] ∧ u.arrivals = [] ∧
      (∀ k ∈ q.tileKeys, k ∉ l.bank.wids.map (·.1) → (t.tile k).st = q.restState false k ∧ (t.tile k).mapped = false) ∧
      (l.bank.wdog ≠ 0 → (s.gcyc + (l.bank.wdog - q.dist), Instr.watchdog p) ∈ t.agenda) ∧
      ∀ e ∈ l.bank.wids,
        let v := t.tile e.1
        let o := s.tile e.1
        v.st = .running ∧ v.mapped = true ∧ v.wid = e.2 ∧ v.task.pc = l.bank.ioff + 64 * l.bank.entry ∧
        v.task.s = [] ∧ v.task.p = [] ∧ v.task.b = [] ∧ v.task.fstat = 0 ∧ v.task.latches = [] ∧ v.acc = [] ∧ v.la = 1 ∧
        v.lb = 2 ∧ v.trA = [] ∧ v.trB = [] ∧ v.arrN = none ∧ v.arrE = none ∧ v.arrS = none ∧ v.arrW = none ∧
        v.task.gen = s.wgen ∧ v.health = o.health ∧ v.fw = o.fw ∧ (∀ i < l.bank.rows, v.readV i = RowReg.zero) ∧
        (∀ a < 1024 * l.bank.foot, Memory.read v.sram a = Memory.read o.sram a) ∧
        ((∀ b ∈ s.loftUsed, l.bank.covers b = false) → v.sram = o.sram ∧ v.spoi = o.spoi ∧
          ∀ i, l.bank.rows ≤ i → v.readV i = o.readV i))

/-- R113, R123, R128 to R130, R151, R170: a launch with nothing left to do retires at the end of the cycle: every mapped tile
has ended, no operation or reply is outstanding, nothing is in a latch, a link or a follow-on, and every engine is free. It retires
with status 0, or 1 and error code 5 where tiles were voided, and its context's chain takes its measurement, extended by the
result buffer where it has one. -/
def Stated.LaunchesRetire : Prop :=
  ∀ (s : State) (p : Nat) (q : Part) (l : Launch), s.part p = some q → q.run = some l →
    let lcyc := s.gcyc - q.lbase
    let quiet (t : Tile) : Prop := (t.mapped = false ∨ t.st = .ended) ∧ t.task.latches = [] ∧
      (∀ o ∈ t.ops, (o.done = true ∨ o.mute = true) ∧ (o.kind = .ldg ∨ o.isAmo = true → 32 ≤ o.dest)) ∧
      (∀ c, t.ta = some c ∨ t.tb = some c ∨ t.g = some c ∨ t.sw = some c → c.busy ≤ lcyc ∧ c.follow = none) ∧
      ∀ m ∈ t.mx, m.c + 32 * m.n ≤ lcyc + 1
    (s.retires p = true ↔ (∃ c, l.s = some c ∧ c ≤ s.gcyc) ∧ l.code = [] ∧ q.freeze = none ∧ q.links = [] ∧ q.arrivals = [] ∧
      ∀ k ∈ q.tileKeys, quiet (s.tile k)) ∧
    (s.retires p = false → exec (.launchRetire p) s = .next s) ∧
    (s.retires p = true → ∃ t, exec (.launchRetire p) s = .next t ∧
      LaunchEnded s t p q l (if l.voids = [] then 0 else 1) (if l.voids = [] then 0 else 5)
        (l.charge + (s.gcyc - q.lbase) + 1) ∧
      sget t.bootm t.chains l.ctx = extendBy (sget s.bootm s.chains l.ctx) 5 (digestBytes
        (if l.bank.rbuf = 0 then l.meas else extendBy l.meas 4 (s.object l.bank l.bank.rbuf l.bank.rblen).1)))

/-- (1) R122, R123, R150, R300, R74: at S the launch starts: its mapped tiles run from ENTRY with every register as
R300 gives it and their SRAM as placed, the others are idle or STABLED, and LCYC counts from here; a start that is no
longer allowed waits for another start cycle. (2) R113, R123, R128 to R130, R151, R170: a launch with nothing left to
do retires at the end of the cycle: every mapped tile has ended, no operation or reply is outstanding, nothing is in a
latch, a link or a follow-on, and every engine is free. It retires with status 0, or 1 and error code 5 where tiles
were voided, and its context's chain takes its measurement, extended by the result buffer where it has one. Where the
spec leaves a reading open this takes the model's own: notes/assumptions 2, 25, 49. -/
def Obligations.Launches : Prop :=
  Stated.LaunchesStart ∧ Stated.LaunchesRetire

/-- R149 to R151: with a free next slot the scheduler takes the head of an eligible queue of the best priority, one with
credit, the first from its pointer on, and commits it or reports its launch fault; the pointer moves past the queue. -/
def Stated.LaunchesCommitted : Prop :=
  ∀ (s : State) (p : Nat) (q : Part), s.part p = some q → s.toNote p = none → q.next = none →
    q.resumesFirst ((s.eligible p).map fun j => (s.queue j).prio) = false →
    let best (j : Nat) : Prop := j ∈ s.eligible p ∧ ∀ i ∈ s.eligible p, (s.queue j).prio ≤ (s.queue i).prio
    (∃ j, best j ∧ 0 < (s.queue j).def_) →
    ∃ t j r u, exec (.scheduleCommit p) s = .next t ∧ best j ∧ 0 < (s.queue j).def_ ∧
      (s.queue j).launchHead = some r ∧ t.part p = some u ∧
      (∀ i, best i → 0 < (s.queue i).def_ →
        let rr := sget 0 q.rr (s.queue j).prio
        (j + 32768 - rr) % 32768 ≤ (i + 32768 - rr) % 32768) ∧
      sget 0 u.rr (s.queue j).prio = (j + 1) % 32768 ∧
      (∀ x ∈ (t.queue j).recs, x.idx = r.idx → x.started = true) ∧
      ((∃ m, u.next = some m ∧ m.q = j ∧ m.idx = r.idx ∧ m.lseq = r.lseq ∧ m.prio = r.prio) ∨
        (u.next = none ∧ (t.queue j).err ≠ 0 ∧ ∀ x ∈ (t.queue j).recs, x.idx = r.idx → x.done = true))

/-- R151: where no eligible queue of the best priority has credit, each of them gets k times its QUANT, k the fewest that
leaves one with credit; the choice is then made among those with credit, and no other deficit changes. -/
def Stated.DeficitsRefilled : Prop :=
  ∀ (s : State) (p : Nat) (q : Part), s.part p = some q → s.toNote p = none → q.next = none →
    q.resumesFirst ((s.eligible p).map fun j => (s.queue j).prio) = false →
    let best (j : Nat) : Prop := j ∈ s.eligible p ∧ ∀ i ∈ s.eligible p, (s.queue j).prio ≤ (s.queue i).prio
    let credit (k i : Nat) : Int := (s.queue i).def_ + k * (s.queue i).field 40 4
    (∃ j, best j) → (∀ i, best i → (s.queue i).def_ ≤ 0 ∧ 0 < (s.queue i).field 40 4) →
    ∃ t j r u k, exec (.scheduleCommit p) s = .next t ∧ best j ∧ (s.queue j).launchHead = some r ∧ t.part p = some u ∧
      0 < credit k j ∧ (∀ n < k, ∀ i, best i → credit n i ≤ 0) ∧
      (∀ i, best i → (t.queue i).def_ = credit k i) ∧ (∀ i, ¬ best i → (t.queue i).def_ = (s.queue i).def_) ∧
      (∀ i, best i → 0 < credit k i →
        let rr := sget 0 q.rr (s.queue j).prio
        (j + 32768 - rr) % 32768 ≤ (i + 32768 - rr) % 32768) ∧
      sget 0 u.rr (s.queue j).prio = (j + 1) % 32768 ∧ ∀ x ∈ (t.queue j).recs, x.idx = r.idx → x.started = true

/-- R109, R122, R123, R150, R153: with nothing to report, to choose or to announce the scheduler does nothing; a launch that
waits for a start cycle is placed (R177: clear of lofts) and gets one D cycles ahead or later, a multiple of 12,288 where
it aligns; over a withdrawn pen it ends with fault 0x0A (R77), and no tile of it is LOADED any more (R156). -/
def Stated.StartsAnnounced : Prop :=
  ∀ (s : State) (p : Nat) (q : Part) (l : Launch) (retry : Bool), s.part p = some q →
    (s.scheduleDue p = false → exec (.scheduleCommit p) s = .next s) ∧
    (s.toNote p = none → (q.next.isSome ∨ s.eligible p = []) → q.toAnnounce = some (l, retry) →
      (retry = false → s.withdrawnPen q = none) → s.mayAnnounce q l = true → (l.bank.wids.map (·.1)).Nodup → ∃ t u m S, exec (.scheduleCommit p) s = .next t ∧
        t.part p = some u ∧ (if retry then u.run else u.next) = some m ∧
        m = { l with s := some S, placed := true } ∧ s.gcyc + q.dist ≤ S ∧
        (l.bank.aligns = true → S % 12288 = 0) ∧ (retry = false → (s.queue l.q).lastS ≤ S) ∧
        (S, Instr.launchStart p) ∈ t.agenda ∧
        ∀ e ∈ l.bank.wids, t.tile e.1 = { (if l.placed then s.tile e.1 else
          (((s.evict l.bank.covers).tile e.1).writeSram l.bank.ioff (l.code.drop 64) false).writeSram l.bank.argoff
            l.args false) with st := .loaded }) ∧
    (s.toNote p = none → (q.next.isSome ∨ s.eligible p = []) → q.toAnnounce = some (l, false) →
      ∀ pen, s.withdrawnPen q = some pen → ∃ t u, exec (.scheduleCommit p) s = .next t ∧ t.part p = some u ∧
        u.next = none ∧ (t.queue l.q).err = 1 ∧ u.lfault = BitVec.ofNat 32 (0x0A + 2 ^ 16 * pen) ∧ ∀ k ∈ q.tileKeys, (t.tile k).st ≠ .loaded)

/-- (1) R149 to R151: with a free next slot the scheduler takes the head of an eligible queue of the best priority,
one with credit, the first from its pointer on, and commits it or reports its launch fault; the pointer moves past the
queue. (2) R151: where no eligible queue of the best priority has credit, each of them gets k times its QUANT, k the
fewest that leaves one with credit; the choice is then made among those with credit, and no other deficit changes. (3)
R109, R122, R123, R150, R153: with nothing to report, to choose or to announce the scheduler does nothing; a launch
that waits for a start cycle is placed (R177: clear of lofts) and gets one D cycles ahead or later, a multiple of
12,288 where it aligns; over a withdrawn pen it ends with fault 0x0A (R77), and no tile of it is LOADED any more
(R156). Where the spec leaves a reading open this takes the model's own: notes/assumptions 2, 49. -/
def Obligations.Scheduler : Prop :=
  Stated.LaunchesCommitted ∧ Stated.DeficitsRefilled ∧ Stated.StartsAnnounced

/-- R225, R226, R228, R231, R232, R34: where the chiplet has power a fire request runs the owner's entry if its fields break no rule: BUSY and READY are set
and each chunk it starts is sent; an entry with a bad field, or of Y0 to Y7, gets RESULT 3; a foreign one is dropped and
counted; frames of an earlier run that are not acknowledged stay. -/
def Stated.EntriesFire : Prop :=
  ∀ (s : State) (key p : Nat) (q : Part), key ≠ barKey → s.part p = some q →
    (s.chipletLit (key / 4096) = false → exec (.seqFire key p) s = .next s) ∧
    (s.chipletLit (key / 4096) = true →
    let e := s.entry key
    let x := Ent.of e
    let pos := (x.peers.idxOf? s.modid.toNat).getD 0
    let run : SeqRun := ⟨p, pos, x.n, x.chunks, [], [], [], [], [], false, false, 0⟩
    let starts (k : Nat) : Prop := if x.cv then pos = 0 ∨ pos + 1 = x.n else k % x.n = pos
    (key / 4096 < 8 → exec (.seqFire key p) s = .next (s.setEntry key (entState e 3 false false))) ∧
    (8 ≤ key / 4096 →
      (entOwner e ≠ some p → ∃ t, exec (.seqFire key p) s = .next t ∧ t.seqEntries = s.seqEntries ∧ t.seqRuns = s.seqRuns) ∧
      (entOwner e = some p → entBusy e = true → exec (.seqFire key p) s = .next s) ∧
      (entOwner e = some p → entBusy e = false → s.fireOk key e = false →
        exec (.seqFire key p) s = .next (s.setEntry key (entState e 3 false false))) ∧
      (entOwner e = some p → entBusy e = false → s.fireOk key e = true →
        (∀ k < x.chunks, starts k → (s.ownerRead p (x.laddr + 8192 * k) (x.chunkLen k)).isSome) →
        ∃ t r, exec (.seqFire key p) s = .next t ∧ t.entry key = entState e 0 true true ∧ t.run? key = some r ∧
          { r with sent := [] } = run ∧
          (∀ k < x.chunks, starts k → ∀ bs, s.ownerRead p (x.laddr + 8192 * k) (x.chunkLen k) = some bs →
            ∃ w ∈ r.sent, w.chunk = k ∧ w.tries = 0 ∧ w.stale = false ∧ w.at_ = s.gcyc ∧ w.fr.payload = payloadOf x bs ∧
              (seqPort key, frameSealed w.fr (seqPort key)) ∈ t.ethOut ∧
              (s.gcyc + 153600, Instr.retransmitTimeout key k w.hop) ∈ t.agenda) ∧
          ∀ w ∈ r.sent, w.stale = false → w.chunk < x.chunks ∧ starts w.chunk)))

/-- R225, R226, R34: a host write of READY fires the entry at its address for the partition of the port's aperture; an entry of
Y0 to Y7 refuses with RESULT 3; where the chiplet has no power nothing happens. -/
def Stated.HostFires : Prop :=
  ∀ (s : State) (port : Nat) (addr : W64) (pa key o p : Nat),
    checkRegion (s.aperture port) .w (addr.toNat / 64 * 64) 64 = .ok pa → inSeq pa = true → seqKey pa = some (key, o) →
    p = (s.port port).aper.toNat % 512 →
    (s.chipletLit (key / 4096) = false → exec (.seqHostFire port addr) s = .next s) ∧
    (s.chipletLit (key / 4096) = true →
      (key / 4096 < 8 → exec (.seqHostFire port addr) s = .next (s.setEntry key (entState (s.entry key) 3 false false))) ∧
      (key ≠ barKey → entOwner (s.entry key) = some p →
        ∃ t, exec (.seqFire key p) s = .next t ∧ exec (.seqHostFire port addr) s = .next t))

/-- R230, R34: an entry that has every chunk done, or has aborted, ends: its bitmap is written, RESULT says whether it aborted, BUSY and READY are clear. -/
def Stated.EntriesEnd : Prop :=
  ∀ (s : State) (key : Nat) (r : SeqRun), s.run? key = some r →
    let e := s.entry key
    let x := Ent.of e
    let lit := s.chipletLit (key / 4096)
    (r.ended = true ∨ r.settled = false ∨ lit = false → exec (.seqEntryEnd key) s = .next s) ∧
    (r.ended = false → r.settled = true → lit = true → ∃ t, exec (.seqEntryEnd key) s = .next t ∧ t.run? key = some { r with ended := true, endedAt := s.gcyc } ∧
      t.entry key = entState e (if r.aborted then 2 else 1) false false ∧
      ∀ q pa, s.part r.part = some q → checkRegion q.bank.regions .w x.saddr ((r.chunks + 3) / 4) = .ok pa →
        (∀ k, sget 0 r.status k < 4) →
        ∀ k < r.chunks, (Memory.read t.dev (pa + k / 4)).toNat / 4 ^ (k % 4) % 4 = sget 0 r.status k)

/-- R60 to R62, R228, R230, R34: frames at an entry: an acknowledgement takes its frame off, an abort ends the entry, a bad header
or payload is dropped and counted, a DATA frame that the entry expects is applied once and acknowledged, a repeated one only
acknowledged; a missing acknowledgement sends the frame again, at most four times. At a port without power nothing happens. -/
def Stated.FramesAnswered : Prop :=
  ∀ (s : State) (port : Nat) (f : Frame) (r : SeqRun),
    let key := frameKey port f
    let x := Ent.of (s.entry key)
    let lim := 2 * x.n - 3
    (s.portLit port = false → exec (.ackFrame port f) s = .next s ∧ exec (.abortFrame port f) s = .next s ∧
      exec (.wakeFrame port f) s = .next s ∧ exec (.collectiveDataFrame port f) s = .next s) ∧
    (s.portLit port = true → key ≠ barKey → s.run? key = some r →
    let dropped := { s with ethDrops := s.ethDrops + 1 }
    let ok (kind limit : Nat) : Bool := s.frameOk f kind limit
    (ok 1 lim = true → exec (.ackFrame port f) s = .next (s.setRun key
      { r with sent := r.sent.eraseP fun x => fChunk x.fr == fChunk f && fLvl x.fr == fLvl f && x.hop == fHop f })) ∧
    (ok 1 lim = false → exec (.ackFrame port f) s = .next dropped) ∧
    (ok 3 lim = false → exec (.abortFrame port f) s = .next dropped) ∧
    (ok 2 255 = false → exec (.wakeFrame port f) s = .next dropped) ∧
    (ok 3 lim = true → r.settled = true → exec (.abortFrame port f) s = .next s) ∧
    (ok 3 lim = true → r.settled = false → ∃ g t, exec (.abortFrame port f) s = .next t ∧ s.gcyc < g ∧
      t.run? key = some { r with aborted := true } ∧ (g, Instr.seqEntryEnd key) ∈ t.agenda) ∧
    (fKind f = 0 → fTidx f < 4096 →
      (ok 0 lim = false ∨ payloadOk f = false → exec (.collectiveDataFrame port f) s = .next dropped) ∧
      (ok 0 lim = true → payloadOk f = true →
        (r.again f s.gcyc = true → exec (.collectiveDataFrame port f) s = .next (s.ack port f)) ∧
        (r.again f s.gcyc = false → r.expects x f = false → exec (.collectiveDataFrame port f) s = .next s) ∧
        (r.again f s.gcyc = false → r.expects x f = true → ∃ t u, exec (.collectiveDataFrame port f) s = .next t ∧
          t.run? key = some u ∧ u.applied = r.applied ++ [f] ∧ ∃ rest, t.ethOut = (s.ack port f).ethOut ++ rest))) ∧
    (∀ w chunk hop, r.aborted = false → s.chipletLit (key / 4096) = true →
      r.sent.find? (fun w => w.overdue chunk hop s.gcyc) = some w →
      (w.tries < 4 → ∃ t, exec (.retransmitTimeout key chunk hop) s = .next t ∧
        t.ethOut = s.ethOut ++ [(seqPort key, frameSealed w.fr (seqPort key))] ∧
        (s.gcyc + 153600, Instr.retransmitTimeout key chunk hop) ∈ t.agenda ∧
        ∃ u, t.run? key = some u ∧ ∃ y ∈ u.sent, y.fr = w.fr ∧ y.tries = w.tries + 1 ∧ y.at_ = s.gcyc) ∧
      (4 ≤ w.tries → w.stale = false → r.settled = false → ∃ t g, exec (.retransmitTimeout key chunk hop) s = .next t ∧
        t.run? key = some { r with sent := r.sent.erase w, aborted := true } ∧ (g, Instr.seqEntryEnd key) ∈ t.agenda)))

/-- (1) R225, R226, R228, R231, R232, R34: where the chiplet has power a fire request runs the owner's entry if its
fields break no rule: BUSY and READY are set and each chunk it starts is sent; an entry with a bad field, or of Y0 to
Y7, gets RESULT 3; a foreign one is dropped and counted; frames of an earlier run that are not acknowledged stay. (2)
R225, R226, R34: a host write of READY fires the entry at its address for the partition of the port's aperture; an
entry of Y0 to Y7 refuses with RESULT 3; where the chiplet has no power nothing happens. (3) R230, R34: an entry that
has every chunk done, or has aborted, ends: its bitmap is written, RESULT says whether it aborted, BUSY and READY are
clear. (4) R60 to R62, R228, R230, R34: frames at an entry: an acknowledgement takes its frame off, an abort ends the
entry, a bad header or payload is dropped and counted, a DATA frame that the entry expects is applied once and
acknowledged, a repeated one only acknowledged; a missing acknowledgement sends the frame again, at most four times.
At a port without power nothing happens. Where the spec leaves a reading open this takes the model's own:
notes/assumptions 2, 14, 44, 60. -/
def Obligations.Sequencer : Prop :=
  Stated.EntriesFire ∧ Stated.HostFires ∧ Stated.EntriesEnd ∧ Stated.FramesAnswered

/-- R228, R229, R231, R62: what a DATA frame that an all-reduce expects does: while reducing, what it carries is combined with the
chunk of this module, element by element or, compressed, element by selected element; at the last hop of the phase, and
while gathering, the whole chunk goes to RADDR; the next position gets it, compressed again where the entry is. Without
compression that is the fold, and then the frame's own bytes. -/
def Stated.RingReduces : Prop :=
  ∀ (s : State) (port : Nat) (f : Frame) (own : List Byte) (r : SeqRun) (q : Part),
    let key := frameKey port f
    let x := Ent.of (s.entry key)
    let k := fChunk f
    let hop := fHop f
    s.portLit port = true → key ≠ barKey → fKind f = 0 → fTidx f < 4096 → s.frameOk f 0 (2 * x.n - 3) = true → payloadOk f = true →
    s.run? key = some r → r.again f s.gcyc = false → r.expects x f = true → x.cv = false → s.part r.part = some q →
    s.ownerRead r.part (x.laddr + 8192 * k) (x.chunkLen k) = some own →
    ∀ pa,
    let sum := combine x f.payload own
    let y := if hop + 2 < x.n then sum else if hop + 1 < x.n then expand x (payloadOf x sum) else expand x f.payload
    (x.kc = 0 → y = if hop + 1 < x.n then seqFold x.op x.fmt f.payload own else f.payload) ∧
    (checkRegion q.bank.regions .w (x.raddr + 8192 * k) y.length = .ok pa →
      ∃ t u, exec (.collectiveDataFrame port f) s = .next t ∧ t.run? key = some u ∧
        Memory.reads t.dev pa y.length = y ∧ (∀ a, a < pa ∨ pa + y.length ≤ a → Memory.read t.dev a = Memory.read s.dev a) ∧
        sget 0 u.status k = (if hop + 2 < x.n then 1 else 2) ∧
        (hop + 3 < 2 * x.n → ∃ w ∈ u.sent, w.chunk = k ∧ w.hop = hop + 1 ∧ w.fr.payload = payloadOf x y ∧
          (seqPort key, frameSealed w.fr (seqPort key)) ∈ t.ethOut))

/-- R231, R62: what a DATA frame that a cavity entry expects does: a prefix, or a suffix, is kept and goes on with this module's
chunk folded in at its side; the cavity of the two is written once both are here, or the one there is at an end of the
ring. -/
def Stated.CavityFolds : Prop :=
  ∀ (s : State) (port : Nat) (f : Frame) (own : List Byte) (r : SeqRun) (q : Part),
    let key := frameKey port f
    let x := Ent.of (s.entry key)
    let k := fChunk f
    let up := fHop f + 1 < x.n
    s.portLit port = true → key ≠ barKey → fKind f = 0 → fTidx f < 4096 → s.frameOk f 0 (2 * x.n - 3) = true → payloadOk f = true →
    s.run? key = some r → r.again f s.gcyc = false → r.expects x f = true → x.cv = true → s.part r.part = some q →
    s.ownerRead r.part (x.laddr + 8192 * k) (x.chunkLen k) = some own → f.payload ≠ [] →
    let pre := if up then some f.payload else (r.prefix_.find? (·.1 == k)).map (·.2)
    let suf := if up then (r.suffix_.find? (·.1 == k)).map (·.2) else some f.payload
    let whole := (r.pos = 0 ∨ pre.isSome) ∧ (r.pos + 1 = r.n ∨ suf.isSome)
    let cav := match pre, suf with
      | some a, some b => seqFold x.op x.fmt a b
      | some a, none => bytesOfElems x.fmt ((elemsOf x.fmt a).map (seqOne x.op x.fmt))
      | none, some b => bytesOfElems x.fmt ((elemsOf x.fmt b).map (seqOne x.op x.fmt))
      | none, none => []
    ∃ t u, exec (.collectiveDataFrame port f) s = .next t ∧ t.run? key = some u ∧
      (if up then sget [] u.prefix_ k = f.payload else sget [] u.suffix_ k = f.payload) ∧
      (up → r.pos + 1 < x.n → ∃ w ∈ u.sent, w.chunk = k ∧ w.hop = r.pos ∧
        w.fr.payload = payloadOf x (seqFold x.op x.fmt f.payload own)) ∧
      (¬ up → 0 < r.pos → ∃ w ∈ u.sent, w.chunk = k ∧ w.hop = 2 * x.n - 2 - r.pos ∧
        w.fr.payload = payloadOf x (seqFold x.op x.fmt own f.payload)) ∧
      (¬ whole → t.dev = s.dev) ∧
      (whole → sget 0 u.status k = 2 ∧ ∀ pa, checkRegion q.bank.regions .w (x.raddr + 8192 * k) cav.length = .ok pa →
        Memory.reads t.dev pa cav.length = cav)

/-- R229: of a block top-k keeps k elements, none of which another beats by magnitude, the lower index of a tie. -/
def Stated.TopKKeeps : Prop :=
  ∀ (f : Fmt) (es : List Nat) (k : Nat), k ≤ es.length →
    let kept := topK f es k
    kept.length = k ∧ kept.Nodup ∧ ∀ i ∈ kept, i < es.length ∧ ∀ j, j < es.length → j ∉ kept →
      beats f (es.getD i 0) (es.getD j 0) = false ∧ (beats f (es.getD j 0) (es.getD i 0) = false → i < j)

/-- R232, R60 to R62: a barrier frame at port 0: a bad one is dropped and counted; a repeated one is acknowledged only; of a ring
that has aborted it is left alone. A new one is acknowledged: back at its sender it ends its ring there, and the next ring's
own frame starts; elsewhere it goes on at once where this module's members have arrived, else it waits for them. -/
def Stated.BarrierFrames : Prop :=
  ∀ (s : State) (f : Frame) (p : Nat) (q : Part),
    let lvl := fLvl f
    let count := q.groupCount (lvl - 1)
    let r := (q.ringAt (s.gcyc - q.lbase)).getD BarRing.fresh
    let good := lvl ≠ 0 ∧ s.frameOk f 0 (count - 1) = true ∧ payloadOk f = true
    let again := ∃ e ∈ s.barSeen, sameChunk e.1 f = true ∧ s.gcyc ≤ e.2 + 5 * 153600
    s.portLit 0 = true → fKind f = 0 → fTidx f = 0xFFF → s.barPart = some (p, q) → s.part p = some q →
    (¬ good → exec (.collectiveDataFrame 0 f) s = .next { s with ethDrops := s.ethDrops + 1 }) ∧
    (good → again → exec (.collectiveDataFrame 0 f) s = .next (s.ack 0 f)) ∧
    (good → ¬ again → r.aborted = true → exec (.collectiveDataFrame 0 f) s = .next s) ∧
    (good → ¬ again → r.aborted = false → ∃ t u, exec (.collectiveDataFrame 0 f) s = .next t ∧
      t.part p = some u ∧ (f, s.gcyc) ∈ t.barSeen ∧ (∃ rest, t.ethOut = (s.ack 0 f).ethOut ++ rest) ∧
      (fHop f + 1 = count → r.rings.head? = some lvl → u.ring = some { r with rings := r.rings.drop 1 } ∧
        (∀ n, (r.rings.drop 1).head? = some n → r.inside = true → ∃ v, t.run? barKey = some v ∧
          ∃ w ∈ v.sent, w.chunk = n ∧ w.hop = 0 ∧ fLvl w.fr = n % 16)) ∧
      (fHop f + 1 = count → r.rings.head? ≠ some lvl → u.ring = some r) ∧
      (fHop f + 1 ≠ count → r.inside = true → u.ring = some r ∧ ∃ v, t.run? barKey = some v ∧
        ∃ w ∈ v.sent, w.chunk = lvl ∧ w.hop = fHop f + 1 ∧ fChunk w.fr = fChunk f ∧
          (0, frameSealed w.fr 0) ∈ t.ethOut) ∧
      (fHop f + 1 ≠ count → r.inside = false → u.ring = some { r with frames := r.frames ++ [f] }))

/-- (1) R228, R229, R231, R62: what a DATA frame that an all-reduce expects does: while reducing, what it carries is
combined with the chunk of this module, element by element or, compressed, element by selected element; at the last
hop of the phase, and while gathering, the whole chunk goes to RADDR; the next position gets it, compressed again
where the entry is. Without compression that is the fold, and then the frame's own bytes. (2) R231, R62: what a DATA
frame that a cavity entry expects does: a prefix, or a suffix, is kept and goes on with this module's chunk folded in
at its side; the cavity of the two is written once both are here, or the one there is at an end of the ring. (3) R229:
of a block top-k keeps k elements, none of which another beats by magnitude, the lower index of a tie. (4) R232, R60
to R62: a barrier frame at port 0: a bad one is dropped and counted; a repeated one is acknowledged only; of a ring
that has aborted it is left alone. A new one is acknowledged: back at its sender it ends its ring there, and the next
ring's own frame starts; elsewhere it goes on at once where this module's members have arrived, else it waits for
them. Where the spec leaves a reading open this takes the model's own: notes/assumptions 14, 44, 52, 60. -/
def Obligations.SequencerFolds : Prop :=
  Stated.RingReduces ∧ Stated.CavityFolds ∧ Stated.TopKKeeps ∧ Stated.BarrierFrames

/-- R46 to R52: a flit that its sender sends crosses a module, new with the next SEQ or out of the replay buffer; a parity flit
stands at position 4,095 of 4,096 and carries the parities of its lanes; a good flit is accepted and counted; a bad one
asks at once for a replay of what follows the last good one, and everything is discarded until it comes; a replay sends the
buffer again within 231 cycles, and falls on partitions with positions on the module alone. -/
def Stated.FlitsReceived : Prop :=
  ∀ (s : State) (m : Nat) (yard : Bool) (f : Flit) (noise : BitVec 2048) (lastGood : BitVec 12),
    let c : Crossing := ⟨yard, f, noise⟩
    let v := f.bits ^^^ noise
    let u := s.link m
    let e := u.end_ yard
    let far := u.end_ (!yard)
    let fresh := flitSeq f.bits = far.txSeq
    let parity := flitType f.bits = 2
    let sends := f ∈ far.sent ∨ (fresh ∧ (parity ↔ flitCount f.bits % 4096 = 4095) ∧ (parity → f.bits.extractLsb' 128 64 = far.txPar) ∧
      s.maySend m far f.bits 0 = true ∧ s.maySend m far f.bits 1 = true)
    let works := s.power = .on ∧ u.disabled = false
    let due := e.discarding = true → flitSeq v = e.rxSeq + 1
    let good := crcGood v = true ∧ flitCorrupt v e.fcnt = false
    let crossed := s.cross m yard f v
    (¬ (works ∧ sends) → exec (.flitReceive m c) s = .next s) ∧
    (¬ fresh → crossed = s) ∧
    (fresh → (let w := (crossed.link m).end_ (!yard)
        w.sent = (far.sent ++ [f]).drop (far.sent.length + 1 - 64) ∧ w.txSeq = far.txSeq + 1 ∧
        w.txPar = if parity then 0 else far.txPar ^^^ laneParity f.bits) ∧
      (let w := (crossed.link m).end_ yard
        if parity then w.period = e.rxPar ∧ w.rxPar = 0 else w.period = e.period ∧ w.rxPar = e.rxPar ^^^ laneParity v)) ∧
    (works → sends →
      (¬ due → exec (.flitReceive m c) s = .next crossed) ∧
      (due → ¬ good → ∃ t, exec (.flitReceive m c) s = .next t ∧
        (t.link m).end_ yard = { (crossed.link m).end_ yard with discarding := true } ∧
        (s.gcyc, Instr.replay m ⟨yard, e.rxSeq⟩) ∈ t.agenda) ∧
      (due → good → ∃ t, exec (.flitReceive m c) s = .next t ∧
        let w := (t.link m).end_ yard
        w.rxSeq = flitSeq v ∧ w.fcnt = e.fcnt + 1 ∧ w.discarding = false ∧ w.sent = ackTo e.sent (flitAck v) ∧
        (∀ n < 6, sget 0 w.used n = sget 0 e.used n - flitCred v n ∧ sget 0 w.held n = sget 0 e.held n + credBeats v n) ∧
        (flitType v = 2 → (s.gcyc, Instr.parityFlit m yard) ∈ t.agenda ∧
          w.seen = some (v.extractLsb' 128 64 ^^^ ((crossed.link m).end_ yard).period)) ∧
        (flitType v = 3 → (s.gcyc, Instr.replay m ⟨!yard, flitAck v⟩) ∈ t.agenda))) ∧
    (¬ works → exec (.replay m ⟨yard, lastGood⟩) s = .next s) ∧
    (works → ∃ t d, exec (.replay m ⟨yard, lastGood⟩) s = .next t ∧ 1 ≤ d ∧ d ≤ 231 ∧
      ((t.link m).end_ (!yard)).sent = ackTo far.sent lastGood ∧ (t.link m).end_ yard = e ∧
      u.wafer.fcnt ∈ (t.link m).replays ∧
      (∀ x ∈ ackTo far.sent lastGood, (s.gcyc + d, Instr.flitReceive m ⟨yard, x, 0⟩) ∈ t.agenda) ∧
      ∀ k, SameStore (s.tile k) (t.tile k) ∧ (t.tile k).ops.length = (s.tile k).ops.length ∧
        ((∀ p q, (s.tile k).part = some p → s.part p = some q → s.reservesOn p m = false) → t.tile k = s.tile k))

/-- R48, R49, R75, R80: a beat that arrives at an end: of an unknown partition it is discarded; of a stale generation it changes
no tile and no link; else its single-bit errors are corrected, those of its header too, and count in the receiving tile, and of a message of one beat a word of the payload
that is marked poisoned, or has a double-bit error, poisons that word of the operation that the message serves. -/
def Stated.BeatsJudged : Prop :=
  ∀ (s : State) (m : Nat) (yard : Bool) (cls : Nat) (beat : BitVec 768) (info : BitVec 128),
    let p := (info.extractLsb' 0 9).toNat
    let gen := info.extractLsb' 9 8
    let t := s.beat m yard cls beat info
    let word (n : Nat) : BitVec 128 := beat.extractLsb' (128 * n) 128
    let check (n : Nat) : BitVec 9 := info.extractLsb' (23 + 9 * n) 9
    let hd : BitVec 256 := beatWord beat info 1 ++ beatWord beat info 0
    let dst := (hd.extractLsb' 32 16).toNat
    let src := (hd.extractLsb' 48 16).toNat
    let at_ := if dst / 256 < 144 then dst else src
    let tag := (hd.extractLsb' 64 16).toNat
    let addr := (hd.extractLsb' 128 48).toNat
    let len := (hd.extractLsb' 224 32).toNat
    (∀ n, (beatEcc beat info n = .clean → beatWord beat info n = word n) ∧
      (beatEcc beat info n = .single →
        (beatWord beat info n = word n ∧ ∃ i < 9, Config.eccOf (word n) ^^^ (1#9 <<< i) = check n) ∨
        ∃ i < 128, beatWord beat info n = word n ^^^ (1#128 <<< i) ∧ Config.eccOf (beatWord beat info n) = check n)) ∧
    (s.part p = none → t.tiles = s.tiles ∧ t.ucie = s.ucie ∧ t.parts = s.parts ∧ t.msgDrops = s.msgDrops + 1) ∧
    (∀ q, s.part p = some q → gen ≠ s.accepted q → t.tiles = s.tiles ∧ t.ucie = s.ucie ∧ t.parts = s.parts) ∧
    (∀ q, s.part p = some q → gen = s.accepted q → (((s.link m).end_ yard).trains.filter fun t => t.cls == cls && t.part == p) = [] →
      hd.extractLsb' 16 8 = 0 →
      (dst / 256 < 144 → (t.tile dst).errs = (s.tile dst).errs + ((List.range 6).filter fun i => beatEcc beat info i == .single).length) ∧
      (∀ (i n : Nat) (o : RemOp), 2 ≤ i → i < 6 → 16 * (i - 2) < len → (beatEcc beat info i = .double ∨ info.getLsbD (17 + i) = true) →
        (s.tile at_).part = some p → (s.tile at_).ops[n]? = some o → o.id % 2 ^ 16 = tag →
        ∃ u : RemOp, (t.tile at_).ops[n]? = some u ∧
          if o.staged then
            ∀ z ∈ u.pieces, z.blk = (addr + 16 * (i - 2)) / 256 → z.done = false → z.poi.getLsbD ((addr + 16 * (i - 2)) % 256 / 16) = true
          else u.rpoi = true))

/-- R52, R53: the receiver of a parity flit acts on it: the lanes that wait switch; a lane that disagrees three times within 2^24
flits is to move to a redundant lane; the fifth disables the module; a status read clears PAR. -/
def Stated.LanesRepaired : Prop :=
  ∀ (s : State) (m lane : Nat) (yard : Bool),
    let u := s.link m
    let seen := (u.parity.filter fun e => u.wafer.fcnt < e.2 + 2 ^ 24 ∧ e.1 = lane).length
    let works := s.power = .on ∧ u.disabled = false
    let again (t : State) : Prop := ((t.link m).end_ yard).seen = none ∧ (t.link m).par = true
    (works → lane < 64 → (u.end_ yard).seen = some (1#64 <<< lane) →
      (seen < 2 → ∃ t, exec (.parityFlit m yard) s = .next t ∧ again t ∧ (t.link m).disabled = false ∧
        (t.link m).pendLanes = 0 ∧ (t.link m).spares = u.spares + u.waiting ∧ (lane, u.wafer.fcnt) ∈ (t.link m).parity) ∧
      (2 ≤ seen → u.spares + u.waiting < 4 → ∃ t, exec (.parityFlit m yard) s = .next t ∧ again t ∧
        (t.link m).disabled = false ∧ (t.link m).pendLanes = 1#64 <<< lane ∧ (t.link m).lane = lane ∧
        (t.link m).spares = u.spares + u.waiting) ∧
      (2 ≤ seen → 4 ≤ u.spares + u.waiting → ∃ t g, exec (.parityFlit m yard) s = .next t ∧ again t ∧
        (t.link m).disabled = true ∧ (s.gcyc, Instr.uncorrectableError (.module m)) ∈ t.agenda ∧ s.gcyc < g ∧
        (g, Instr.reservationRelay (m / 20)) ∈ t.agenda)) ∧
    (works → (u.end_ yard).seen = some 0 → ∃ t, exec (.parityFlit m yard) s = .next t ∧ (t.link m).disabled = false ∧
      (t.link m).pendLanes = 0 ∧ (t.link m).spares = u.spares + u.waiting ∧ (t.link m).par = u.par ∧
      ((t.link m).end_ yard).seen = none) ∧
    (¬ works ∨ (u.end_ yard).seen = none → exec (.parityFlit m yard) s = .next s) ∧
    exec (.laneSwitch m) s = .next (if s.power = .on ∧ u.wafer.fcnt % 4096 = 4095 then
      s.modLink m fun u => { u with spares := u.spares + u.waiting, pendLanes := 0 } else s) ∧
    (m < 560 → ∃ t, exec (.ucieStatusRead m) s = .next t ∧ t.link m = { u with par := false } ∧
      t.hostReply = ⟨true, bytesOf 4 (s.linkStatus m).toNat⟩)

/-- R52, R83: reservations of a chiplet with a disabled module are re-laid only while its partitions are quiesced; until then one
that runs and has a reservation on such a module stops. -/
def Stated.ReservationsRelaid : Prop :=
  ∀ (s : State) (chiplet : Nat), s.unlaid chiplet ≠ [] →
    let ps := s.partIds.filter fun p => s.reserves p chiplet && !s.quiesced p
    (ps = [] → ∃ t, exec (.reservationRelay chiplet) s = .next t ∧ t.unlaid chiplet = [] ∧ t.parts = s.parts) ∧
    (ps ≠ [] → ∃ t g, exec (.reservationRelay chiplet) s = .next t ∧ s.gcyc < g ∧ t.ucie = s.ucie ∧
      (g, Instr.reservationRelay chiplet) ∈ t.agenda ∧
      ∀ p ∈ ps, ∀ q, s.part p = some q → q.runs = true →
        ∃ u, t.part p = some u ∧ (u.freeze.isSome ∨ ∀ m ∈ s.unlaid chiplet, s.reservesOn p m = false))

/-- R75, R214 to R217: a message: one of a stale generation, however it is made up, is not sent, and an event 0x0C tells; else
one that names no endpoint or has bits set that must be zero is discarded and counted, one of a partition that the endpoint does
not serve is ignored, a malformed one is answered with an error, unless its class allows no reply, and an accepted one leaves
the endpoint as it is. -/
def Stated.MessagesJudged : Prop :=
  ∀ (s : State) (m : BulkMsg),
    let stale : Prop := ∃ q, s.part m.part.toNat = some q ∧ m.gen ≠ s.accepted q
    let dropped : Host.Outcome State Fault Refusal := .next { s with msgDrops := s.msgDrops + 1 }
    (s.power ≠ .on → exec (.bulkMessage m) s = .next s) ∧
    (s.power = .on → stale → ∃ t, exec (.bulkMessage m) s = .next t ∧ t = s.notePart m.part.toNat 0x0C m.gen.toNat 0 ∧
      t.tiles = s.tiles ∧ t.parts = s.parts ∧ t.msgDrops = s.msgDrops ∧ t.errReplies = s.errReplies) ∧
    (s.power = .on → ¬ stale →
      (msgDropped m = true → exec (.bulkMessage m) s = dropped) ∧
      (msgDropped m = false → s.serves (msgField m 4 2) m.part.toNat = false → exec (.bulkMessage m) s = .next s) ∧
      (msgDropped m = false → s.serves (msgField m 4 2) m.part.toNat = true →
        (msgAnswered m = true → exec (.bulkMessage m) s = if 4 ≤ msgClass m then dropped
          else .next { s with errReplies := s.errReplies ++
            [(BitVec.ofNat 16 (msgField m 6 2), BitVec.ofNat 16 (msgField m 8 2))] }) ∧
        (msgAnswered m = false → exec (.bulkMessage m) s = .next s)))

/-- (1) R46 to R52: a flit that its sender sends crosses a module, new with the next SEQ or out of the replay buffer;
a parity flit stands at position 4,095 of 4,096 and carries the parities of its lanes; a good flit is accepted and
counted; a bad one asks at once for a replay of what follows the last good one, and everything is discarded until it
comes; a replay sends the buffer again within 231 cycles, and falls on partitions with positions on the module alone.
(2) R48, R49, R75, R80: a beat that arrives at an end: of an unknown partition it is discarded; of a stale generation
it changes no tile and no link; else its single-bit errors are corrected, those of its header too, and count in the
receiving tile, and of a message of one beat a word of the payload that is marked poisoned, or has a double-bit error,
poisons that word of the operation that the message serves. (3) R52, R53: the receiver of a parity flit acts on it:
the lanes that wait switch; a lane that disagrees three times within 2^24 flits is to move to a redundant lane; the
fifth disables the module; a status read clears PAR. (4) R52, R83: reservations of a chiplet with a disabled module
are re-laid only while its partitions are quiesced; until then one that runs and has a reservation on such a module
stops. (5) R75, R214 to R217: a message: one of a stale generation, however it is made up, is not sent, and an event
0x0C tells; else one that names no endpoint or has bits set that must be zero is discarded and counted, one of a
partition that the endpoint does not serve is ignored, a malformed one is answered with an error, unless its class
allows no reply, and an accepted one leaves the endpoint as it is. Where the spec leaves a reading open this takes the
model's own: notes/assumptions 2, 6, 16, 18, 24, 40, 44, 47, 59, 60. -/
def Obligations.Links : Prop :=
  Stated.FlitsReceived ∧ Stated.BeatsJudged ∧ Stated.LanesRepaired ∧ Stated.ReservationsRelaid ∧
    Stated.MessagesJudged

/-- R65, R66, R80, R37, R124: the slot of a channel that starts now serves a block of its owner whose request came 24 cycles ago
or earlier, a read at g + 60 and later, a write at g + 12, or scrubs, or stays idle; a slot table that breaks a rule, or
takes a slot from another partition, is not taken. -/
def Stated.SlotsServe : Prop :=
  ∀ (s : State) (ctl ch key : Nat) (table : List (BitVec 16)), s.chanKey ctl ch = some key →
    let c := s.chan key
    let e := c.slots.getD (s.gcyc % 12288 / 12) 0
    let kind := (e.extractLsb' 14 2).toNat
    let begins := s.power = .on ∧ s.gcyc % 12 = 0 ∧ c.lastSlot ≠ some s.gcyc
    let u := s.modChan key fun c => { c with lastSlot := some s.gcyc }
    let served := u.slotServes (e.extractLsb' 0 9).toNat (key / 16) ch (e.getLsbD 13)
    (¬ begins → exec (.hbmSlot ctl ch) s = .next s) ∧
    (begins → kind = 0 ∨ kind = 2 ∨ (kind = 1 ∧ served = none) → exec (.hbmSlot ctl ch) s = .next u) ∧
    (begins → kind = 1 → ∀ k o z, served = some (k, o, z) →
      (o ∈ (s.tile k).ops ∧ z ∈ o.pieces ∧ z.reach + 24 ≤ s.gcyc ∧ z.done = false ∧ z.due = none ∧ u.opHeld k o = false ∧
        sliceOf (256 * z.blk) = key / 16 ∧ channelOf (256 * z.blk) = ch) ∧
      ∃ t g, exec (.hbmSlot ctl ch) s = .next t ∧ t.dev = s.dev ∧
        (if e.getLsbD 13 = true then g = s.gcyc + 12 else s.gcyc + 60 < g) ∧
        (g, if o.staged then Instr.stagingComplete (k % 256) (k / 256) o.id
          else Instr.sliceAccess (k % 256) (k / 256) o.id) ∈ t.agenda ∧
        ∃ p ∈ (t.tile k).ops, p.id = o.id ∧ ∃ y ∈ p.pieces, y.blk = z.blk ∧ y.due = some g ∧
          (e.getLsbD 13 = false → y.data = BitVec.ofNat 2048 (memNat s.dev (256 * z.blk) 256))) ∧
    (begins → kind = 3 → ∃ n, n ≤ 1 ∧
      exec (.hbmSlot ctl ch) s = .next ({ u with freeCtr := s.freeCtr + 1 }.sliceFound ctl n)) ∧
    (let bad := table.length ≠ 1024 ∨ (table.filter fun e => e.extractLsb' 14 2 = 2).length < 32 ∨
       ∃ e ∈ table, e.extractLsb' 9 4 ≠ 0 ∨ (e.extractLsb' 14 2 ≠ 1 ∧ (e.getLsbD 13 = true ∨ e.extractLsb' 0 9 ≠ 0))
     (bad → ∃ t, exec (.slotTableWrite ctl ch table) s = .next t ∧ t.chans = s.chans) ∧
     (¬ bad → ∃ t, exec (.slotTableWrite ctl ch table) s = .next t ∧
       t.chan key = if s.takesSlot c.slots table then c else { c with slots := table }))

/-- R37, R67 to R69, R196: the channel's registers: MODE, the lane repair, the error count and the status; no training write
reaches a channel that partitions own slots of (which writes are refused with WERR, and the free outcome of a training: log 21,
DEDUCED); one that fails brings the spare in; a slice is remapped only while the
partitions on it are quiesced, and one with a failed channel once they are. -/
def Stated.ChannelRegisters : Prop :=
  ∀ (s : State) (slice ch key quadrant : Nat) (mode : BitVec 2) (valid : Bool) (fslc : BitVec 5),
    s.chanKey slice ch = some key → slice < 116 → ch < 16 →
    let c := s.chan key
    let part := c.slots.any (fun e => e.extractLsb' 14 2 = 1) = true
    let werr : HChan := { c with hstat := c.hstat ||| 8 }
    (∃ t v, exec (.hctlMode slice ch mode) s = .next t ∧ t.chan key = v ∧
      (mode = 3 ∨ part → v = werr) ∧
      (¬ (mode = 3 ∨ part) → v.hctl = (c.hctl &&& ~~~3#64) ||| mode.setWidth 64 ∧ v.slots = c.slots ∧
        (c.hctl.toNat % 4 = 1 ∧ mode ≠ 1 → v.hstat.extractLsb' 0 2 = 1 ∨ v.hstat.extractLsb' 0 2 = 2) ∧
        (¬ (c.hctl.toNat % 4 = 1 ∧ mode ≠ 1) → v.hstat = c.hstat)) ∧
      (v.hstat.getLsbD 1 = true → c.hstat.getLsbD 1 = false → s.spareFor (key / 16 / 28) = none →
        ∃ g, s.gcyc < g ∧ (g, Instr.sliceRemap (key / 16 / 28) true (BitVec.ofNat 5 (key / 16 % 28))) ∈ t.agenda)) ∧
    (∃ t, exec (.hctlRepapply slice ch) s = .next t ∧ (part → t.chan key = werr) ∧
      (¬ part → t.chan key = { c with
        hstat := c.hstat ||| 4, laneMap := sset 0 c.laneMap (c.hrpr.toNat % 256) (c.hrpr.toNat / 256 % 4 + 1) })) ∧
    (∃ t, exec (.herrClear slice ch) s = .next t ∧ (part → t.chan key = werr) ∧
      (¬ part → t.chan key = { c with herr := sset 0 c.herr c.lane 0 })) ∧
    (∃ t, exec (.hstatRead slice ch) s = .next t ∧ t.hostReply = ⟨true, bytesOf 4 c.hstat.toNat⟩ ∧
      t.chan key = { c with hstat := c.hstat &&& ~~~8#64 }) ∧
    (let ok := quadrant < 4 ∧ fslc.toNat < 28 ∧
       ∀ p ∈ s.partIds, s.quiesced p = true ∨ s.onSlice p (28 * quadrant + fslc.toNat) = false
     (ok → exec (.sliceRemap quadrant valid fslc) s =
       .next { s with remap := sset 0 s.remap quadrant (fslc.setWidth 64 + (if valid then 256 else 0)) }) ∧
     (¬ ok → (quadrant < 4 ∧ fslc.toNat < 28 ∧ valid = true ∧
         ∃ c < 16, (s.chan (16 * (28 * quadrant + fslc.toNat) + c)).hstat.getLsbD 1 = true) →
       ∃ g, s.gcyc < g ∧ ∃ t, exec (.sliceRemap quadrant valid fslc) s = .next t ∧ t.remap = s.remap ∧
         (g, Instr.sliceRemap quadrant valid fslc) ∈ t.agenda) ∧
     (¬ ok → ¬ (quadrant < 4 ∧ fslc.toNat < 28 ∧ valid = true ∧
         ∃ c < 16, (s.chan (16 * (28 * quadrant + fslc.toNat) + c)).hstat.getLsbD 1 = true) →
       exec (.sliceRemap quadrant valid fslc) s = .next s))

/-- R34, R55 to R58, R111, R225, R226: BAR 4: what a host may read and write; a write that may not be made, or whose memory has no
power, is dropped and counted. The
access to a page that has no memory behind it is the model's one fault. -/
def Stated.ApertureAccess : Prop :=
  ∀ (s : State) (port n : Nat) (rid : BitVec 16) (addr : W64) (data : List Byte) (r : Region) (pa : Nat),
    port < 8 → s.answers port = true → 0 < n → data ≠ [] →
    (s.bar4At port addr.toNat n = none → exec (.bar4Read port addr n) s = .next { s with hostReply := ⟨false, []⟩ }) ∧
    (s.bar4At port addr.toNat n = some (r, pa) →
      (s.rangeLit pa n = false → exec (.bar4Read port addr n) s = .next { s with hostReply := ⟨false, []⟩ }) ∧
      (inSeq pa = false → s.hostOwned pa n = true → s.rangeLit pa n = true → present pa n = true →
        exec (.bar4Read port addr n) s = .next { s with hostReply := ⟨true, Memory.reads s.dev pa n⟩ }) ∧
      (inSeq pa = false → s.hostOwned pa n = false →
        exec (.bar4Read port addr n) s = .next { s with hostReply := ⟨false, []⟩ }) ∧
      (inSeq pa = true → s.rangeLit pa n = true → exec (.bar4Read port addr n) s =
        .next { s with hostReply := if r.r then ⟨true, s.seqRead pa n⟩ else ⟨false, []⟩ })) ∧
    (s.bar4At port addr.toNat data.length = some (r, pa) → inSeq pa = false →
      let may := match (s.port port).landingOf addr.toNat with
        | some l => l.permits rid && l.hits (addr.toNat + data.length - 1)
        | none => s.hostOwned pa data.length
      (may = true → s.rangeLit pa data.length = true → present pa data.length = true → ∃ t, exec (.bar4Write port rid addr data) s = .next t ∧
        Memory.reads t.dev pa data.length = data ∧
        (∀ a, a < pa ∨ pa + data.length ≤ a → Memory.read t.dev a = Memory.read s.dev a) ∧
        (pa % 16 = 0 → data.length % 16 = 0 → poisonRead t.devPoi pa data.length = false)) ∧
      (may = false ∨ s.rangeLit pa data.length = false → ∃ t, exec (.bar4Write port rid addr data) s = .next t ∧ t.dev = s.dev ∧
        (t.port port).dropcnt.toNat = Nat.min (2 ^ 32 - 1) ((s.port port).dropcnt.toNat % 2 ^ 32 + 1)))

/-- (1) R65, R66, R80, R37, R124: the slot of a channel that starts now serves a block of its owner whose request came
24 cycles ago or earlier, a read at g + 60 and later, a write at g + 12, or scrubs, or stays idle; a slot table that
breaks a rule, or takes a slot from another partition, is not taken. (2) R37, R67 to R69, R196: the channel's
registers: MODE, the lane repair, the error count and the status; no training write reaches a channel that partitions
own slots of (which writes are refused with WERR, and the free outcome of a training: log 21, DEDUCED); one that fails
brings the spare in; a slice is remapped only while the partitions on it are quiesced, and one with a failed channel
once they are. (3) R34, R55 to R58, R111, R225, R226: BAR 4: what a host may read and write; a write that may not be
made, or whose memory has no power, is dropped and counted. The access to a page that has no memory behind it is the
model's one fault. Where the spec leaves a reading open this takes the model's own: notes/assumptions 2, 11, 14, 19,
22, 23, 50, 63, 66, 69. -/
def Obligations.HostMemory : Prop :=
  Stated.SlotsServe ∧ Stated.ChannelRegisters ∧ Stated.ApertureAccess

/-- R42 to R44, R89, R107, R110, R126: power comes and goes; what a delivered wafer keeps stays; the identity block is read;
a reset port loses the semaphore. -/
def Stated.PowerComesAndGoes : Prop :=
  ∀ (s : State) (vin flow : Bool) (pin : PortPin) (off : Nat),
    let strap : BitVec 16 := (Config.freeValue s.freeCtr).setWidth 16
    (s.power = .off → exec .powerUpStandby s = .next { s with
      vin := true, flowOk := true, power := .standby, modidPins := strap, modid := strap, romHash := Config.digest 0x101 0,
      freeCtr := s.freeCtr + 1 }) ∧
    (s.power ≠ .off → exec .powerUpStandby s = .next s) ∧
    ((vin && flow) = true → exec (.powerOff vin flow) s = .next s) ∧
    ((vin && flow) = false → ∃ t, exec (.powerOff vin flow) s = .next t ∧ t.power = .off ∧ t.vin = vin ∧ t.flowOk = flow ∧
      t.parts = [] ∧ t.queues = [] ∧ t.dev = [] ∧ t.agenda = [] ∧ t.trip = false ∧ t.ownsem = 0 ∧ t.wgen = s.wgen ∧ t.retired = s.retired ∧
      t.host = s.host ∧ t.gcyc = s.gcyc ∧ t.onCount = s.onCount ∧ (∀ k, (t.tile k).health = (s.tile k).health ∧ (t.tile k).sram = [] ∧ (t.tile k).st = .idle)) ∧
    (exec (.portReset pin) s = .next { s with
      perst := if pin.low then s.perst &&& ~~~(1#8 <<< pin.port) else s.perst ||| (1#8 <<< pin.port)
      ownsem := if pin.low = true ∧ pin.port < 2 ∧ s.ownsem.toNat = pin.port + 1 then 0 else s.ownsem }) ∧
    (s.power = .off → exec (.smbusAccess off) s = .next { s with hostReply := ⟨false, []⟩ }) ∧
    (s.power ≠ .off → exec (.smbusAccess off) s =
      .next { s with alertPending := false, hostReply := ⟨true, [identityAt off]⟩ }) ∧
    (∀ i < 64, identityAt (Config.keyOffset + i) = (sm2Public sm2Secret).getD i 0)

/-- R44, R107, R110, R129: a thermal trip of a module that is ON freezes every partition, its running launch with cause 0x0D,
subcode 3; a launch that is to be re-issued is kept until it is discarded as the cycle ends; during step 3 of R42 the module
goes back, will not become ready, and the command is refused; FLOW_OK lost in STANDBY is OFF (DEDUCED, log 14). -/
def Stated.ThermalTrips : Prop :=
  ∀ (s : State) (why : ThermWhy),
    let now (q : Part) : Nat := s.gcyc - q.lbase
    (s.power = .on → ∃ t, exec (.thermalTrip why) s = .next t ∧ t.trip = true ∧ t.thermtrip = true ∧
      t.alertPending = true ∧ t.flowOk = (if why = .flow then false else s.flowOk) ∧
      (s.partIds.Nodup → ∀ p q, s.part p = some q → ∃ u z, t.part p = some u ∧ u.freeze = some z ∧
        (q.runs = false → u.run = q.run ∧ z.stopped = true ∧ z.outcome = .discard ∧
          (q.run ≠ none → z.discardReq = true ∧ (s.gcyc, Instr.resume p) ∈ t.agenda)) ∧
        (q.runs = true → q.freeze = none → z = .announce (now q) (now q + q.dist) 0x0D 3 true) ∧
        (q.runs = true → ∀ y, q.freeze = some y → z.f = y.f ∧ z.discardReq = true))) ∧
    (∀ o, s.power = .standby → s.onTask = some o → ∃ t, exec (.thermalTrip why) s = .next t ∧ t.onTask = none ∧
      t.power = .standby ∧ t.alertPending = true ∧ CmdStat s t o.port 3 0x0F ∧ exec .moduleReady t = .next t) ∧
    (s.power = .standby → s.onTask = none →
      exec (.thermalTrip .temperature) s = .next s ∧ exec (.thermalTrip .flow) s = exec (.powerOff s.vin false) s) ∧
    (s.power = .off → ∃ t, exec (.thermalTrip why) s = .next t ∧ t.power = .off)

/-- R42, R93, R107, R110, R125: MPOWER: ON loads the image and answers once the module is ready, 96 ms to 300 ms later (R42);
STANDBY only of a module whose partitions are DARK; a trip, a command under way (0x0E: log 67, DESIGN CHOICE), a foreign port
(0x10, before the rows: log 12, DEDUCED) or a bad row refuses. CMDSTAT keeps LATE (log 66, DESIGN CHOICE). In ON every
front-end core runs (R125); in STANDBY those of Y0 alone (R34). -/
def Stated.ModulePower : Prop :=
  ∀ (s : State) (port : Nat), CmdReady s port →
    let target := s.cmdArg port 0 % 4
    let addr := s.cmdArg port 1
    let len := s.cmdArg port 2
    let imageBad := ¬ (addr % 4096 = 0 ∧ 4096 ≤ len ∧ len ≤ 2 ^ 24)
    let dark (p : Nat) : Prop := ∀ q, s.part p = some q → q.power = .dark ∧ q.trans = none
    let rows : List Prop := [target = 2 ∧ s.power = .standby ∧ imageBad,
      target = 1 ∧ s.power = .on ∧ ¬ ∀ p ∈ s.partIds, dark p, target ≠ 1 ∧ target ≠ 2]
    let free := s.trip = false ∧ s.onTask = none ∧ s.ownsem.toNat = port + 1
    let refused (r : Nat) : Prop :=
      (∃ t, exec (.mpowerOn port) s = .next t ∧ CmdStat s t port 3 r ∧ t.power = s.power) ∧
      (∃ t, exec (.mpowerStandby port) s = .next t ∧ CmdStat s t port 3 r ∧ t.power = s.power)
    (s.trip = true → refused 0x0F) ∧ (s.trip = false → s.onTask.isSome → refused 0x0E) ∧
    (s.trip = false → s.onTask = none → s.ownsem.toNat ≠ port + 1 → refused 0x10) ∧
    (free → ∀ r, FirstBad rows r → refused r) ∧
    (free → (∀ P ∈ rows, ¬ P) → target = 2 → s.power = .standby → ∃ t g, exec (.mpowerOn port) s = .next t ∧
      CmdStat s t port 1 0 ∧ (∃ o, t.onTask = some o ∧ o.port = port ∧ o.start = s.gcyc) ∧ s.gcyc + 230400000 < g ∧
      g ≤ s.gcyc + 720000000 ∧
      (g, Instr.moduleReady) ∈ t.agenda ∧ t.imageLen = len ∧ Memory.reads t.image 0 len = Memory.reads s.host addr len ∧
      t.bootm = extendBy s.romHash 6 (Memory.reads s.host addr len)) ∧
    (free → (∀ P ∈ rows, ¬ P) → target = 1 → ∃ t, exec (.mpowerStandby port) s = .next t ∧ CmdStat s t port 2 0 ∧
      t.power = .standby ∧ (∀ e ∈ t.cores, e.1 < 4) ∧ ∀ k ∈ skeys s.tiles, (t.tile k).fw.on = false) ∧
    (∀ o, s.onTask = some o → o.port = port → ∃ t, exec .moduleReady s = .next t ∧ t.power = .on ∧ t.onTask = none ∧
      t.chains = [] ∧ t.lseqs = [] ∧ t.onCount = s.onCount + 1 ∧ CmdStat s t port 2 0 ∧
      ∀ i < 28, ∀ j < 4, (t.ctxAt (.core i j)).on = true ∧ (t.ctxAt (.core i j)).pc = 0)

/-- R93, R108, R110: PPOWER starts a listed transition of a partition of its port; another port is refused with 0x10 after an
unused id and a running transition (log 12, DEDUCED; log 13). -/
def Stated.PartitionPower : Prop :=
  ∀ (s : State) (port : Nat) (i : Instr) (q : Part), CmdReady s port →
    i ∈ ([.ppowerActive port, .ppowerIdle port, .ppowerRetain port, .ppowerDark port] : List Instr) →
    let p := s.cmdArg port 0 % 2 ^ 9
    let aim := ppowerOf (s.cmdArg port 0 / 2 ^ 16 % 4)
    let takes : Option Nat := match q.power, aim with
      | .active, .idle => some 100
      | .idle, .active => some 2400
      | .idle, .retain => some 24000
      | .retain, .idle => some 480000
      | .retain, .active => some 480000
      | .idle, .dark => some 24000
      | .retain, .dark => some 24000
      | .dark, .idle => some 4800000
      | .dark, .active => some 4800000
      | _, _ => none
    let held := (q.power = .active ∧ aim = .idle ∧ q.run ≠ none) ∨ (aim = .dark ∧ q.stab ≠ none) ∨
      ((aim = .retain ∨ aim = .dark) ∧ ∃ k ∈ q.tileKeys, s.holdsBlock k = true)
    let refused (r : Nat) : Prop := ∃ t, exec i s = .next t ∧ CmdStat s t port 3 r ∧ t.parts = s.parts
    (s.trip = true → refused 0x0F) ∧ (s.trip = false → s.part p = none → refused 1) ∧
    (s.trip = false → s.part p = some q →
      (q.trans.isSome → refused 0x0E) ∧
      (q.trans = none → q.ctl.toNat ≠ port → refused 0x10) ∧
      (q.trans = none → q.ctl.toNat = port → takes = none → refused 2) ∧
      (∀ n, q.trans = none → q.ctl.toNat = port → takes = some n → held → refused 3) ∧
      (∀ n, q.trans = none → q.ctl.toNat = port → takes = some n → ¬ held → ∃ t, exec i s = .next t ∧ CmdStat s t port 1 0 ∧
        t.part p = some { q with trans := some (aim, port) } ∧ (s.gcyc + n, Instr.powerTransitionDone p) ∈ t.agenda))

/-- R108, R122: a partition whose transition is done has its new state; coming out of DARK its tiles are zeroed, and a launch
placed in them is to be placed again. -/
def Stated.TransitionsEnd : Prop :=
  ∀ (s : State) (p : Nat) (q : Part) (aim : PPower) (port : Nat), s.part p = some q → q.trans = some (aim, port) →
    ∃ t, exec (.powerTransitionDone p) s = .next t ∧ CmdStat s t port 2 0 ∧
      (∃ u, t.part p = some u ∧ { u with next := q.next } = { q with power := aim, trans := none } ∧
        (q.next = none ∨ q.power ≠ .dark → u.next = q.next) ∧
        ∀ l, q.next = some l → q.power = .dark →
          u.next = some (if ∃ k ∈ q.tileKeys, l.bank.maps k = true then { l with placed := false, s := none } else l)) ∧
      ∀ k ∈ q.tileKeys, t.tile k = if q.power = .dark then { Tile.zero with part := some p, health := (s.tile k).health }
        else s.tile k

/-- (1) R42 to R44, R89, R107, R110, R126: power comes and goes; what a delivered wafer keeps stays; the identity
block is read; a reset port loses the semaphore. (2) R44, R107, R110, R129: a thermal trip of a module that is ON
freezes every partition, its running launch with cause 0x0D, subcode 3; a launch that is to be re-issued is kept until
it is discarded as the cycle ends; during step 3 of R42 the module goes back, will not become ready, and the command
is refused; FLOW_OK lost in STANDBY is OFF (DEDUCED, log 14). (3) R42, R93, R107, R110, R125: MPOWER: ON loads the
image and answers once the module is ready, 96 ms to 300 ms later (R42); STANDBY only of a module whose partitions are
DARK; a trip, a command under way (0x0E: log 67, DESIGN CHOICE), a foreign port (0x10, before the rows: log 12,
DEDUCED) or a bad row refuses. CMDSTAT keeps LATE (log 66, DESIGN CHOICE). In ON every front-end core runs (R125); in
STANDBY those of Y0 alone (R34). (4) R93, R108, R110: PPOWER starts a listed transition of a partition of its port;
another port is refused with 0x10 after an unused id and a running transition (log 12, DEDUCED; log 13). (5) R108,
R122: a partition whose transition is done has its new state; coming out of DARK its tiles are zeroed, and a launch
placed in them is to be placed again. Where the spec leaves a reading open this takes the model's own:
notes/assumptions 2, 6, 14, 15, 50, 52, 59, 64. -/
def Obligations.Power : Prop :=
  Stated.PowerComesAndGoes ∧ Stated.ThermalTrips ∧ Stated.ModulePower ∧ Stated.PartitionPower ∧
    Stated.TransitionsEnd

/-- R93: CMDOP is ignored by a port that does not answer; while a command is under way it only sets LATE; an unknown
code is refused with 0x11. -/
def Stated.CommandsAccepted : Prop :=
  ∀ (s : State) (port : Nat) (op : W64) (i : Instr),
    i ∈ ([.pcreate port, .pdestroy port, .passign port, .retire port, .loan port, .mpowerOn port, .mpowerStandby port,
      .ppowerActive port, .ppowerIdle port, .ppowerRetain port, .ppowerDark port, .qresume port, .sqown port,
      .sqownRelease port, .unknownCmdop port op] : List Instr) →
    (2 ≤ port ∨ s.answers port = false → exec i s = .next s) ∧
    (port < 2 → s.answers port = true → ((s.port port).cmdstat.extractLsb' 0 2).toNat = 1 → exec i s =
      .next (s.modPort port fun p => { p with cmdstat := p.cmdstat ||| 0x10000 })) ∧
    (CmdReady s port → ∃ t, exec (.unknownCmdop port op) s = .next t ∧ CmdStat s t port 3 0x11 ∧ t.parts = s.parts ∧
      t.tiles = s.tiles)

/-- R77, R88, R93, R134 to R136, R217, R227: PCREATE makes a partition in IDLE, its tiles wiped, on pens that no other one
has; PDESTROY zeroes and frees one that no launch and no queue uses, its messages, half received ones too, gone, a power
transition of it refused (DEDUCED, log 13); PASSIGN hands one to the other control port. -/
def Stated.PartitionCommands : Prop :=
  ∀ (s : State) (port : Nat), CmdReady s port → s.ownsem.toNat = port + 1 →
    let a := s.cmdArg port 0
    let p := a % 2 ^ 9
    let x := a / 2 ^ 16 % 2 ^ 8
    let y := a / 2 ^ 24 % 2 ^ 8
    let w := a / 2 ^ 32 % 2 ^ 8
    let h := a / 2 ^ 40 % 2 ^ 8
    let ctl := s.cmdArg port 1 % 2 = 1
    let inside := 0 < w ∧ 0 < h ∧ x + w ≤ 64 ∧ y + h ≤ 36
    let apart (q : Part) : Prop := x + w ≤ q.px0 ∨ q.px0 + q.w ≤ x ∨ y + h ≤ q.py0 ∨ q.py0 + q.h ≤ y
    let new (q : Part) : Prop := q.px0 = x ∧ q.py0 = y ∧ q.w = w ∧ q.h = h ∧ q.ctl = decide ctl ∧ q.power = .idle ∧
      q.trans = none ∧ q.gen = s.wgen ∧ q.mgrp = 0 ∧ q.run = none ∧ q.next = none ∧ q.stab = none ∧ q.freeze = none ∧
      q.tqValid = 0 ∧ q.tseq = 0
    let refused (i : Instr) (r : Nat) : Prop := ∃ t, exec i s = .next t ∧ CmdStat s t port 3 r ∧ t.parts = s.parts ∧
      t.tiles = s.tiles
    (s.part p ≠ none → refused (.pcreate port) 1) ∧
    (s.part p = none → ¬ (s.power = .on ∧ inside ∧ ∀ j ∈ s.partIds, ∀ q, s.part j = some q → apart q) → refused (.pcreate port) 2) ∧
    (s.part p = none → s.power = .on → inside → (∀ j ∈ s.partIds, ∀ q, s.part j = some q → apart q) → ∀ u, new u →
      ((s.withdrawnPen u).isSome → refused (.pcreate port) 3) ∧
      (s.withdrawnPen u = none → ∃ t q, exec (.pcreate port) s = .next t ∧ CmdStat s t port 2 0 ∧ t.part p = some q ∧ new q ∧
        q.save = s.saveFor (newPart x y w h ctl s.wgen 0) (Config.saveArea s.creates) ∧
        t.creates = s.creates + 1 ∧ (∀ j, j ≠ p → t.part j = s.part j) ∧
        ∀ i < 4 * w, ∀ j < 4 * h, let k := tileKey (4 * x + i) (4 * y + j)
          t.tile k = { Tile.zero with part := some p, health := (s.tile k).health })) ∧
    ((∀ q, s.part p = some q → q.run ≠ none ∨ q.stab ≠ none ∨ q.next ≠ none) → refused (.pdestroy port) 1) ∧
    (∀ q, s.part p = some q → q.run = none → q.stab = none → q.next = none →
      (s.queueNames p none = true → refused (.pdestroy port) 2) ∧
      (s.queueNames p none = false → q.trans = none → ∃ t, exec (.pdestroy port) s = .next t ∧ CmdStat s t port 2 0 ∧
        t.part p = none ∧ (∀ k ∈ q.tileKeys, t.tile k = { Tile.zero with health := (s.tile k).health }) ∧
        ((skeys s.seqEntries).Nodup → ∀ k, t.entry k = (if entOwner (s.entry k) = some p then 0 else s.entry k) ∧
          (entOwner (s.entry k) = some p → t.run? k = none)) ∧
        (∀ m yard, ∀ z, z ∈ ((t.link m).end_ yard).trains ↔ z ∈ ((s.link m).end_ yard).trains ∧ z.part ≠ p) ∧
        ∀ e ∈ t.agenda, e.2 ≠ .powerTransitionDone p ∧ ∀ m, e.2 = .bulkMessage m → m.part.toNat ≠ p) ∧
      (∀ o, s.queueNames p none = false → q.trans = some o → o.2 ≠ port → ∃ t, exec (.pdestroy port) s = .next t ∧
        CmdStat s t port 2 0 ∧ CmdStat s t o.2 3 1 ∧ t.part p = none ∧ ∀ e ∈ t.agenda, e.2 ≠ .powerTransitionDone p)) ∧
    (s.part p = none → refused (.passign port) 1) ∧
    (∀ q, s.part p = some q →
      (s.queueNames p (some q.ctl.toNat) = true → refused (.passign port) 1) ∧
      (s.queueNames p (some q.ctl.toNat) = false → ∃ t, exec (.passign port) s = .next t ∧ CmdStat s t port 2 0 ∧
        t.part p = some { q with ctl := ctl } ∧ t.tiles = s.tiles))

/-- R28, R76 to R78: RETIRE skips the site of a tile in its field-row, zeroes the tiles from it to the east and advances the
generation; where the row has no spare left it withdraws the pen. LOAN replaces lost banks by a neighbour's;
what stood there stays (log 15, DESIGN CHOICE), and a bank lost already counts again (log 13, DESIGN CHOICE). -/
def Stated.RepairCommands : Prop :=
  ∀ (s : State) (port : Nat), CmdReady s port → s.ownsem.toNat = port + 1 →
    let a := s.cmdArg port 0
    let x := a % 2 ^ 8
    let y := a / 2 ^ 8 % 2 ^ 8
    let row := 8 * y + x / 32
    let k := tileKey x y
    let lender := if x % 32 = 0 then x + 1 else x - 1
    let n := if a / 2 ^ 31 % 2 = 1 then 2 else 1
    let h := (s.tile k).health
    let g := (s.tile (tileKey lender y)).health
    (sget 0 s.retired row = 0 → s.siteAt x y = x % 32 ∧ s.spareSite x y = some 32) ∧
    (∀ g, sget 0 s.retired row = g + 1 → s.siteAt x y = (if x % 32 < g then x % 32 else x % 32 + 1) ∧ s.spareSite x y = none) ∧
    (y < 144 → s.rowRuns x y = false → s.rowStabled x y = false →
    (sget 0 s.retired row = 0 → ∃ t, exec (.retire port) s = .next t ∧ CmdStat s t port 2 0 ∧
      sget 0 t.retired row = x % 32 + 1 ∧ t.wgen = s.wgen + 1 ∧
      (∀ i, x % 32 ≤ i → i < 32 → let j := tileKey (x / 32 * 32 + i) y
        t.tile j = { Tile.zero with part := (s.tile j).part, health := (s.tile j).health }) ∧
      ∀ i < x % 32, t.tile (tileKey (x / 32 * 32 + i) y) = s.tile (tileKey (x / 32 * 32 + i) y)) ∧
    (sget 0 s.retired row ≠ 0 → ∃ t, exec (.retire port) s = .next t ∧ CmdStat s t port 2 0 ∧ t.wgen = s.wgen ∧
      ∀ i < 4, ∀ j < 4, let m := tileKey (x / 4 * 4 + i) (y / 4 * 4 + j)
        t.tile m = { s.tile m with health := { (s.tile m).health with state := 2 } }) ∧
    (let fits := h.nlost.toNat + n ≤ 2 ∧ (h.nlost = 0 → g.lent = 0) ∧ h.lent = 0 ∧ g.nlost = 0
     (fits → ∃ t, exec (.loan port) s = .next t ∧ CmdStat s t port 2 0 ∧ t.wgen = s.wgen + 1 ∧
       ((t.tile k).health.nlost.toNat = h.nlost.toNat + n) ∧
       ((t.tile (tileKey lender y)).health.lent = g.lent + BitVec.ofNat 2 n) ∧
       (h.nlost = 0 → (t.tile k).health.lb0 = BitVec.ofNat 6 (a / 2 ^ 16)) ∧
       (h.nlost = 0 → n = 2 → (t.tile k).health.lb1 = BitVec.ofNat 6 (a / 2 ^ 24)) ∧
       (h.nlost ≠ 0 → (t.tile k).health.lb0 = h.lb0 ∧ (t.tile k).health.lb1 = BitVec.ofNat 6 (a / 2 ^ 16)) ∧
       (t.tile k).sram = (s.tile k).sram) ∧
     (¬ fits → ∃ t r, exec (.loan port) s = .next t ∧ CmdStat s t port 3 r ∧ 1 ≤ r ∧ r ≤ 3 ∧ t.tiles = s.tiles)))

/-- R93, R104, R227, R34: QRESUME lets a queue stopped on error go on; SQOWN gives free entries to a partition, and takes them
back; without power at their chiplets no entry changes (log 14, DEDUCED). -/
def Stated.QueueAndEntryCommands : Prop :=
  ∀ (s : State) (port : Nat), CmdReady s port →
    (let q := s.cmdArg port 0 % 2 ^ 15
     let d := s.queue q
     (d.qport = port → d.st = .error → d.held = none → ∃ t, exec (.qresume port) s = .next t ∧ CmdStat s t port 2 0 ∧
       t.queue q = { d with st := if d.en then .running else .disabled }) ∧
     (d.qport = port → d.st ≠ .error ∨ d.held ≠ none → ∃ t, exec (.qresume port) s = .next t ∧ CmdStat s t port 3 1) ∧
     (d.qport ≠ port → ∃ t, exec (.qresume port) s = .next t ∧ CmdStat s t port 3 0x10)) ∧
    (∀ i ∈ ([.sqown port, .sqownRelease port] : List Instr), ∀ q,
     let a := s.cmdArg port 0
     let chiplet := a % 2 ^ 5
     let first := a / 2 ^ 5 % 2 ^ 12
     let n := a / 2 ^ 17 % 2 ^ 12 + 1
     let p := s.cmdArg port 1 % 2 ^ 9
     let keys := (List.range n).map fun j => 4096 * chiplet + first + j
     s.part p = some q → q.ctl.toNat = port → 8 ≤ chiplet → chiplet ≤ 27 → first + n ≤ 4096 →
       (chiplet = 8 → first + n ≤ 4095) → (∀ k ∈ keys, entBusy (s.entry k) = false) →
       (s.cmdArg port 1 / 2 ^ 9 % 2 = 0 → (∀ k ∈ keys, entOwner (s.entry k) = none ∨ entOwner (s.entry k) = some p) →
         ∃ t, exec i s = .next t ∧ CmdStat s t port 2 0 ∧ (s.power ≠ .on → t.seqEntries = s.seqEntries) ∧
           (s.power = .on → ∀ k ∈ keys, entOwner (t.entry k) = some p ∧
             ∀ o < 64, o ≠ 20 → o ≠ 21 → entField (t.entry k) o 1 = 0) ∧ ∀ k, k ∉ keys → t.entry k = s.entry k) ∧
       (s.cmdArg port 1 / 2 ^ 9 % 2 = 1 → ∃ t, exec i s = .next t ∧ CmdStat s t port 2 0 ∧
         (s.power ≠ .on → t.seqEntries = s.seqEntries) ∧
         (s.power = .on → ∀ k ∈ keys, t.entry k = if entOwner (s.entry k) = some p then 0 else s.entry k) ∧
         ∀ k, k ∉ keys → t.entry k = s.entry k))

/-- (1) R93: CMDOP is ignored by a port that does not answer; while a command is under way it only sets LATE; an
unknown code is refused with 0x11. (2) R77, R88, R93, R134 to R136, R217, R227: PCREATE makes a partition in IDLE, its
tiles wiped, on pens that no other one has; PDESTROY zeroes and frees one that no launch and no queue uses, its
messages, half received ones too, gone, a power transition of it refused (DEDUCED, log 13); PASSIGN hands one to the
other control port. (3) R28, R76 to R78: RETIRE skips the site of a tile in its field-row, zeroes the tiles from it to
the east and advances the generation; where the row has no spare left it withdraws the pen. LOAN replaces lost banks
by a neighbour's; what stood there stays (log 15, DESIGN CHOICE), and a bank lost already counts again (log 13, DESIGN
CHOICE). (4) R93, R104, R227, R34: QRESUME lets a queue stopped on error go on; SQOWN gives free entries to a
partition, and takes them back; without power at their chiplets no entry changes (log 14, DEDUCED). Where the spec
leaves a reading open this takes the model's own: notes/assumptions 2, 6, 11, 12, 13, 14, 20, 24, 50, 54, 60, 61, 66.
-/
def Obligations.ControlCommands : Prop :=
  Stated.CommandsAccepted ∧ Stated.PartitionCommands ∧ Stated.RepairCommands ∧ Stated.QueueAndEntryCommands

/-- R88 to R95: the semaphore; queues enabled, disabled and handed to the other port; a descriptor word that the assigned port
writes. -/
def Stated.QueueRegisters : Prop :=
  ∀ (s : State) (port q : Nat), port < 2 →
    let d := s.queue q
    (s.ownsem = 0 → exec (.ownsemAcquire port) s = .next { s with ownsem := BitVec.ofNat 2 (port + 1) }) ∧
    (s.ownsem ≠ 0 → exec (.ownsemAcquire port) s = .next s) ∧
    (exec (.ownsemRelease port) s = .next (if s.ownsem.toNat = port + 1 then { s with ownsem := 0 } else s)) ∧
    (q < 32768 → d.qport = port → d.en = false → s.descBad d = false → ∃ t u, exec (.queueEnable port q) s = .next t ∧
      t.queue q = u ∧ u.en = true ∧ u.st = (if d.st = .error then .error else .running) ∧
      u.ridx.toNat = d.field 12 4 ∧ u.widx = u.ridx ∧ u.cidx = u.ridx ∧ u.recs = [] ∧ u.def_ = 0 ∧ u.epoch = d.epoch + 1) ∧
    (q < 32768 → d.qport = port → d.en = false → s.descBad d = true → ∃ t, exec (.queueEnable port q) s = .next t ∧
      (t.queue q).en = false ∧ (t.queue q).err = 6) ∧
    (q < 32768 → d.qport = port → d.en = true → ∃ t, exec (.queueDisable port q) s = .next t ∧
      t.queue q = { d with
        desc := d.desc &&& ~~~(1#512 <<< 79), en := false, st := (if d.st = .error then .error else .disabled)
        recs := d.recs.filter fun r => r.started }) ∧
    (q < 32768 → d.qport ≠ port → ∃ t, exec (.queueEnable port q) s = .next t ∧ t.queues = s.queues) ∧
    (q < 32768 → d.qport ≠ port → ∃ t, exec (.queueDisable port q) s = .next t ∧ t.queues = s.queues) ∧
    (q < 32768 → s.ownsem.toNat = port + 1 → d.en = false → exec (.qportChange port q) s = .next
      (s.modQueue q fun _ => { d with desc := d.desc ^^^ (1#512 <<< 77) })) ∧
    (q < 32768 → s.ownsem.toNat = port + 1 → d.en = true → d.qport = port → exec (.qportChange port q) s = .next s) ∧
    (q < 32768 → s.ownsem.toNat ≠ port + 1 ∨ (d.en = true ∧ d.qport ≠ port) →
      ∃ t, exec (.qportChange port q) s = .next t ∧ t.queues = s.queues) ∧
    (∀ (w : Nat) (v : W64), q < 32768 → w < 7 → s.answers port = true → d.qport = port →
      let off := 0x100000 + 0x40 * q + 8 * w
      let new := descWith d.desc w v
      let wrote := exec (.registerWrite port off 8 v) s
      ((new ^^^ d.desc).getLsbD 77 = true → s.ownsem.toNat ≠ port + 1 → wrote = .next (s.violation port off)) ∧
      ((new ^^^ d.desc).getLsbD 77 = false → d.en = true → new ≠ d.desc &&& ~~~(1#512 <<< 79) → wrote = .next s) ∧
      ((new ^^^ d.desc).getLsbD 77 = false → d.en = false → new.getLsbD 79 = false →
        wrote = .next (s.modQueue q fun d => { d with desc := new })))

/-- R81, R92, R102, R104 to R106, R137: the registers of a port, a partition and a tile that the host writes or clears. -/
def Stated.HostRegisters : Prop :=
  ∀ (s : State) (port n p x y : Nat) (v : W32) (m : W64) (q : Part), port < 2 →
    (let d := s.port port
     (d.evtail ≠ v → (d.evhead - v).toNat ≤ 2 ^ (d.evsz.toNat % 32) → ∃ t, exec (.evtailWrite port v) s = .next t ∧
       (t.port port).evtail = v ∧ ((∀ j, (s.queue j).held = none) → (t.port port).evhead = d.evhead)) ∧
     (2 ^ (d.evsz.toNat % 32) < (d.evhead - v).toNat → exec (.evtailWrite port v) s = .next s)) ∧
    (exec (.evovfClear port) s = .next (s.modPort port fun d => { d with evovf := 0 })) ∧
    (n < 8 → exec (.dropcntClear port n) s = .next (s.modPort n fun d => { d with dropcnt := 0 })) ∧
    (s.part p = some q → p < 512 → s.answers port = true → ∃ t, exec (.tqlostRead port p) s = .next t ∧ t.hostReply = ⟨true, bytesOf 8 q.tqLost.toNat⟩ ∧
      t.part p = some { q with tqLost := false }) ∧
    (s.part p = some q → q.ctl.toNat = port → ∃ t u, exec (.tqackWrite port p m) s = .next t ∧ t.part p = some u ∧
      u.tqValid = q.tqValid &&& ~~~m ∧ (q.pendRecs ≠ [] → (s.gcyc, Instr.trapRecordWrite p) ∈ t.agenda) ∧
      ∀ k < 64, u.tqValid.getLsbD k = true → sget 0 u.tq k = sget 0 q.tq k) ∧
    (s.part p = some q → q.ctl.toNat = port →
      let bad := m.toNat / 2 ^ 48 ≠ 0 ∨ (∃ l < 3, m.toNat / 2 ^ (8 * l) % 256 < m.toNat / 2 ^ (24 + 8 * l) % 256)
      (q.run = none → q.next = none → q.stab = none → ¬ bad → exec (.mgrpWrite port p m) s =
        .next (s.setPart p { q with mgrp := m })) ∧
      (bad ∨ q.run ≠ none ∨ q.next ≠ none ∨ q.stab ≠ none → ∃ t, exec (.mgrpWrite port p m) s = .next t ∧
        t.parts = s.parts)) ∧
    (s.part p = some q → q.ctl.toNat ≠ port → (∃ t, exec (.tqackWrite port p m) s = .next t ∧ t.parts = s.parts) ∧
      ∃ t, exec (.mgrpWrite port p m) s = .next t ∧ t.parts = s.parts) ∧
    (exec (.susClear x y) s = .next (s.modTile (tileKey x y) fun t =>
      { t with health := { t.health with sus := false, bkt := 0 } }))

/-- R91: BAR 0 by offset: a register write is the event that the register's own write is. -/
def Stated.RegisterWrites : Prop :=
  ∀ (s : State) (port off : Nat) (v : W64), port < 2 → s.answers port = true →
    let w := exec (.registerWrite port off 8 v) s
    (off = 0x10 → v.toNat = port + 1 → w = exec (.ownsemAcquire port) s) ∧
    (off = 0x10 → v = 0 → w = exec (.ownsemRelease port) s) ∧
    (∀ n < 2, off = 0x1418 + 0x1000 * n → w = exec (.evtailWrite n (v.setWidth 32)) s) ∧
    (∀ n < 2, off = 0x1420 + 0x1000 * n → w = exec (.evovfClear n) s) ∧
    (∀ n < 8, off = 0x1008 + 0x1000 * n → w = exec (.dropcntClear port n) s) ∧
    (∀ i < 4, off = 0x1808 + 0x1000 * port + 8 * i →
      w = .next (s.modPort port fun p => { p with cmdarg := sset 0 p.cmdarg i v })) ∧
    (off = 0x1800 + 0x1000 * port →
      (v = 1 → w = exec (.pcreate port) s) ∧ (v = 2 → w = exec (.pdestroy port) s) ∧
      (v = 3 → w = exec (.passign port) s) ∧ (v = 4 → w = exec (.retire port) s) ∧ (v = 5 → w = exec (.loan port) s) ∧
      (v = 6 → w = exec (.mpowerOn port) s) ∧ (v = 7 → w = exec (.ppowerIdle port) s) ∧
      (v = 8 → w = exec (.qresume port) s) ∧ (v = 9 → w = exec (.sqown port) s) ∧
      (v = 0 ∨ 10 ≤ v.toNat → w = exec (.unknownCmdop port v) s)) ∧
    (∀ p < 512, off = 0x300028 + 0x100 * p → w = exec (.tqackWrite port p v) s) ∧
    (∀ p < 512, off = 0x300040 + 0x100 * p → w = exec (.mgrpWrite port p v) s) ∧
    (off % 8 ≠ 0 → w = .next s)

/-- (1) R88 to R95: the semaphore; queues enabled, disabled and handed to the other port; a descriptor word that the
assigned port writes. (2) R81, R92, R102, R104 to R106, R137: the registers of a port, a partition and a tile that the
host writes or clears. (3) R91: BAR 0 by offset: a register write is the event that the register's own write is. Where
the spec leaves a reading open this takes the model's own: notes/assumptions 2, 11, 12, 13, 14, 19, 20, 61, 66, 68. -/
def Obligations.HostRegisters : Prop :=
  Stated.QueueRegisters ∧ Stated.HostRegisters ∧ Stated.RegisterWrites

/-- R80, R81: at the end of a decay cycle every bucket has counted the corrected errors of the cycle and dropped by 1; an
increment and the decrement cancel. -/
def Stated.BucketsDecay : Prop :=
  ∀ (s : State), (skeys s.tiles).Nodup → (skeys s.sliceBkt).Nodup → (skeys s.sliceErrs).Nodup →
    let after (b n : Nat) : Nat := if b = 0 then Nat.min 127 n else if n = 0 then b - 1 else Nat.min 127 (b + n - 1)
    ∃ t, exec .bucketDecay s = .next t ∧ t.sliceErrs = [] ∧
      (∀ k, let u := s.tile k
        (t.tile k).health.bkt.toNat = after u.health.bkt.toNat u.errs ∧ (t.tile k).errs = 0 ∧
        { t.tile k with health := u.health, errs := u.errs } = u) ∧
      ∀ i, sget 0 s.sliceBkt i ≤ 127 → sget 0 t.sliceBkt i = after (sget 0 s.sliceBkt i) (sget 0 s.sliceErrs i)

/-- R82 to R87, R179, R34: an uncorrectable error poisons the word or register it strikes, or stops its partition, and the record
of a tile lists it: its own; one that lies in no tile is the cause of the freeze where it is alone, and is kept to be listed at F
beside another announcement, or where a tile's trap or an alignment loss of its cycle takes its place (R84, R86; DEDUCED,
log 16); in ON a marker that does not match loses alignment on both sides of the boundary; two markers in turn that match on
every boundary bring back a field that has its count from an aligned neighbour. -/
def Stated.ErrorsAndAlignment : Prop :=
  ∀ (s : State) (p x y f src : Nat) (q : Part) (mark : LaneMark),
    let k := tileKey x y
    let l := s.gcyc - q.lbase
    let bare : Freeze := { Freeze.announce l (nextPoint q.bank.rbp (l + q.dist)) 0x0A 0 true with bare := true }
    let owed (z : Freeze) : List Nat := if z.bare = true then z.t :: z.errors else z.errors
    let struck (e : ErrSite) (P : State → Prop) : Prop := ∃ t, exec (.uncorrectableError e) s = .next t ∧ P t
    (s.part p = some q → (s.tile k).part = some p → q.runs = true → q.freeze = none →
      struck (.tile x y) fun t =>
        t.part p = some { q with freeze := some (.announce l (nextPoint q.bank.rbp (l + q.dist)) 0x0A 0 true) } ∧
        ((s.tile k).deferred.length < 16 → ∃ d, (t.tile k).deferred = (s.tile k).deferred ++ [d] ∧ d.cause = 0x0A ∧
          d.slot = 0xFF ∧ d.bundle = (s.tile k).task.bundleDue (s.lcycOf k) ∧ d.cyc = l)) ∧
    ((s.tile k).part = none → exec (.uncorrectableError (.tile x y)) s = .next s) ∧
    (s.part p = some q → q.runs = true → q.freeze = none → struck (.regionTable p) fun t =>
      t.part p = some { q with freeze := some bare } ∧ t.tiles = s.tiles) ∧
    (∀ z, s.part p = some q → q.runs = true → q.freeze = some z → struck (.regionTable p) fun t =>
      t.part p = some { q with freeze := some { z with discardReq := true, errors := z.errors ++ [l] } } ∧ t.tiles = s.tiles) ∧
    (∀ (z : Freeze) (g : Guard) (n : Byte), s.part p = some q → q.freeze = some z → z.t = l → z.front = true → Acts s g → InTask s x y →
      (s.tile k).part = some p → (s.tile k).voided = false → (s.tile k).raise = none →
      ∃ t u v, exec (.trap g n) s = .next t ∧ t.part p = some u ∧ u.freeze = some v ∧ v.cause = 0x0B ∧ v.sub = n.toNat ∧
        v.f = l + q.dist ∧ v.front = false ∧ v.bare = false ∧ v.errors = owed z) ∧
    (∀ c < 28, ∀ n < 4, ∀ r < 32, 0 < r → struck (.coreScalar c n r) fun t => t.tiles = s.tiles ∧
      (t.ctxAt (.core c n)).readS r = { (s.ctxAt (.core c n)).readS r with poi := true }) ∧
    (∀ m, s.partIds.Nodup → s.part p = some q → q.runs = true → q.freeze = none → struck (.module m) fun t =>
      t.part p = if s.reservesOn p m then some { q with freeze := some bare } else some q) ∧
    (∀ z b, s.part p = some q → q.stab = some z → struck (.loft p b) fun t => t.part p = some { q with
      stab := some { z with blocks := z.blocks.map fun e => if e.num = b then { e with struck := true } else e } }) ∧
    (∀ a < 0x180000, struck (.sram x y a) fun t => poisonRead (t.tile k).spoi a 1 = true ∧ (t.tile k).sram = (s.tile k).sram) ∧
    (∀ r < 32, 0 < r → struck (.scalar x y r) fun t =>
      (t.tile k).task.readS r = { (s.tile k).task.readS r with poi := true }) ∧
    (∀ r < 32, 0 < r → struck (.fwScalar x y r) fun t =>
      (t.tile k).fw.readS r = { (s.tile k).fw.readS r with poi := true } ∧ (t.tile k).task = (s.tile k).task) ∧
    (∀ r < 512, struck (.row x y r) fun t => (t.tile k).readV r = { (s.tile k).readV r with poi := true }) ∧
    (∀ a < hbmBytes, struck (.hbm a) fun t => poisonRead t.devPoi a 1 = true ∧ t.dev = s.dev) ∧
    (let z := s.field f
     let ok := mark = .value (BitVec.ofNat 16 (s.gcyc - 2))
     let kept := exec (.alignMarker src f mark) s = .next s
     (s.power ≠ .on ∨ z.outOfService = true ∨ src ∉ neighbours f → kept) ∧
     (s.power = .on → src ∈ neighbours f → z.outOfService = false → z.realigning = false →
       (ok ∨ src ∈ z.bad → kept) ∧
       (¬ ok → src ∉ z.bad → ∃ t, exec (.alignMarker src f mark) s = .next t ∧ (t.field f).lost = true ∧
         (t.field src).lost = true ∧ src ∈ (t.field f).bad ∧ f ∈ (t.field src).bad ∧
         (s.partIds.Nodup → s.part p = some q → q.runs = true → q.freeze = none → f ∈ q.fieldsOf →
           ∃ u, t.part p = some u ∧ u.freeze = some (.announce l (l + q.dist) 0x10 0 true)) ∧
         (∀ z, s.partIds.Nodup → s.part p = some q → q.runs = true → q.freeze = some z → f ∈ q.fieldsOf → z.t = l →
           z.front = true → z.cause = 0x0A → ∃ u v, t.part p = some u ∧ u.freeze = some v ∧ v.cause = 0x10 ∧ v.sub = 0 ∧
             v.f = l + q.dist ∧ v.bare = false ∧ v.errors = owed z))) ∧
     (s.power = .on → src ∈ neighbours f → z.outOfService = false → z.realigning = true →
       (ok → z.src ≠ noField → (s.field z.src).inStep = true → ∃ t, exec (.alignMarker src f mark) s = .next t ∧
         t.field f = { z with matched := sset 0 z.matched src (sget 0 z.matched src + 1) } ∧
         (t.matchedAll f = true → ∃ g, s.gcyc < g ∧ g % 4096 = 0 ∧ g ≤ s.gcyc + 4096 ∧
           (g, Instr.fieldRealigned f) ∈ t.agenda)) ∧
       (¬ ok ∨ z.src = noField ∨ (s.field z.src).inStep = false → ∃ t, exec (.alignMarker src f mark) s = .next t ∧ t.field f =
         { z with realigning := false, matched := [], fails := z.fails + 1, outOfService := decide (3 ≤ z.fails + 1) })) ∧
     (s.power = .on → z.realigning = true → s.matchedAll f = true →
       exec (.fieldRealigned f) s = .next (s.modField f fun _ => FieldSt.zero)) ∧
     (s.power ≠ .on ∨ z.realigning = false ∨ s.matchedAll f = false → exec (.fieldRealigned f) s = .next s) ∧
     (s.power ≠ .on → exec (.pllLockLoss f) s = .next s) ∧
     (s.power = .on → f < 48 → ∃ t, exec (.pllLockLoss f) s = .next t ∧ (t.field f).locked = false ∧ (t.field f).lost = true ∧
       ∀ g ∈ neighbours f, (t.field g).lost = true))

/-- (1) R80, R81: at the end of a decay cycle every bucket has counted the corrected errors of the cycle and dropped
by 1; an increment and the decrement cancel. (2) R82 to R87, R179, R34: an uncorrectable error poisons the word or
register it strikes, or stops its partition, and the record of a tile lists it: its own; one that lies in no tile is
the cause of the freeze where it is alone, and is kept to be listed at F beside another announcement, or where a
tile's trap or an alignment loss of its cycle takes its place (R84, R86; DEDUCED, log 16); in ON a marker that does
not match loses alignment on both sides of the boundary; two markers in turn that match on every boundary bring back a
field that has its count from an aligned neighbour. Where the spec leaves a reading open this takes the model's own:
notes/assumptions 2, 14, 16, 17, 18, 31, 32, 40, 50, 59. -/
def Obligations.ErrorsAndAlignment : Prop :=
  Stated.BucketsDecay ∧ Stated.ErrorsAndAlignment

/-- R304, R311, R370, R371, R108, R227: instructions that complete, each by name, under conditions on the state and the
operands alone: the moves, the reads of the cycle, of a coordinate and of special registers, a write of one, a sweep begun;
PPOWER of each target and SQOWN, given and taken back.
Where the spec leaves a reading open this takes the model's own: notes/assumptions 2, 14, 33, 38, 57, 66. -/
def Obligations.FormsComplete : Prop :=
  (∀ (s : State) (g : Guard) (x : Option Fmt) (d a : R5) (i9 : BitVec 9) (i32 : W32) (i64 : W64), Acts s g →
    let gp := gpoi s g
    let here : Int := s.ctx.bundle
    let gives (f : Fmt) (v : W64) : State := (s.pushS d f gp 1 v 0).performed
    exec (.nop g) s = .next s.performed ∧
    exec (.mov g d a) s = .next (s.pushS d (sreg s a).fmt (gp || (sreg s a).poi) 1 (sreg s a).v 0).performed ∧
    exec (.movi g d i9) s = .next (gives .i32 (BitVec.ofInt 64 i9.toInt)) ∧
    exec (.moviLong g .i32 d i32) s = .next (gives .i32 (BitVec.ofInt 64 i32.toInt)) ∧
    exec (.moviLong g .raw d i32) s = .next (gives .raw (BitVec.ofInt 64 i32.toInt)) ∧
    exec (.moviLong g .fp32 d i32) s = .next (gives .fp32 (BitVec.ofNat 64 i32.toNat)) ∧
    exec (.moviWide g false d i64) s = .next (gives .i32 i64) ∧
    exec (.moviWide g true d i64) s = .next (gives .raw i64) ∧
    exec (.lea g x d i9) s = .next (gives .i32 (BitVec.ofInt 64 (here + 64 * i9.toInt))) ∧
    exec (.leaLong g x d a i32) s = .next (gives .i32 (BitVec.ofInt 64 (here + 64 * i32.toInt)))) ∧
  (∀ (s : State) (g : Guard) (x y : Nat) (d a : R5) (level : BitVec 6), Acts s g → InTask s x y →
    let k := tileKey x y
    let t := s.tile k
    let gives (v : W64) : State := (s.pushS d .i32 false 1 v 0).performed
    exec (.rdc g false d) s = .next (gives (BitVec.ofNat 64 s.gcyc)) ∧
    exec (.rdc g true d) s = .next (gives (BitVec.ofNat 64 (s.lcycSeen k))) ∧
    exec (.rdw g d level) s = .next (gives (BitVec.ofNat 64 (coordAt (s.bankOf k).tree t.wid level.toNat))) ∧
    exec (.rds g d 0x030) s = .next (gives (t.task.fstat.setWidth 64)) ∧
    exec (.rds g d 0x060) s = .next (gives (BitVec.ofNat 64 (s.bankOf k).rows)) ∧
    (IntReg s a → gpoi s g = false → (sreg s a).poi = false →
      exec (.wrs g 0x031 a) s = .next (s.pushSpecial 0x031 (sreg s a).v).performed)) ∧
  (∀ (s : State) (g : Guard) (op : SweepOp) (vd vs : R9) (sr : R5) (sc : BitVec 6) (ex : Bool) (p : Nat) (q : Part) (fs : List Fmt),
    Acts s g → s.rowOk vs.toNat = true → s.rowOk vd.toNat = true → (s.tile s.myKey).part = some p → s.part p = some q →
    busyAt (s.tile s.myKey).sw s.now = false →
    let lat := latticeOf (s.groupOf s.myKey sc.toNat)
    let begun (i : Instr) (kind : SweepKind) : Prop := ∃ t c m, exec i s = .next t ∧ (t.tile s.myKey).sw = some c ∧
      c.what = .sweep m ∧ m.kind = kind ∧ m.level = sc.toNat ∧ m.vd = vd.toNat ∧ c.c = s.now ∧ c.busy = s.now + lat.result
    (sweepFmts op = some fs → (rreg s vs).fmt ∈ fs →
      begun (.cav g op vd vs sc) .cav ∧ begun (.ard g op vd vs sc) .ard ∧ begun (.scn g ex op vd vs sc) (.scn ex)) ∧
    (IntReg s sr → (sreg s sr).poi = false → begun (.bcs g vd vs sr sc) .bcs)) ∧
  (∀ (s : State) (port : Nat) (q : Part), CmdReady s port → s.trip = false →
    let p := s.cmdArg port 0 % 2 ^ 9
    let aim := s.cmdArg port 0 / 2 ^ 16 % 4
    s.part p = some q → q.trans = none → q.ctl.toNat = port → q.run = none → q.stab = none →
    (∀ k ∈ q.tileKeys, s.holdsBlock k = false) →
    let starts (i : Instr) (goal : PPower) (n : Nat) : Prop := ∃ t, exec i s = .next t ∧ CmdStat s t port 1 0 ∧
      t.part p = some { q with trans := some (goal, port) } ∧ (s.gcyc + n, Instr.powerTransitionDone p) ∈ t.agenda
    (q.power = .idle → aim = 0 → starts (.ppowerActive port) .active 2400) ∧
    (q.power = .active → aim = 1 → starts (.ppowerIdle port) .idle 100) ∧
    (q.power = .idle → aim = 2 → starts (.ppowerRetain port) .retain 24000) ∧
    (q.power = .idle → aim = 3 → starts (.ppowerDark port) .dark 24000)) ∧
  (∀ (s : State) (port : Nat) (q : Part), CmdReady s port →
    let a := s.cmdArg port 0
    let p := s.cmdArg port 1 % 2 ^ 9
    let first := 4096 * (a % 2 ^ 5) + a / 2 ^ 5 % 2 ^ 12
    let keys := (List.range (a / 2 ^ 17 % 2 ^ 12 + 1)).map (first + ·)
    s.part p = some q → q.ctl.toNat = port → 8 < a % 2 ^ 5 → a % 2 ^ 5 ≤ 27 → a / 2 ^ 5 % 2 ^ 12 + (a / 2 ^ 17 % 2 ^ 12 + 1) ≤ 4096 →
    (∀ k ∈ keys, entBusy (s.entry k) = false ∧ (entOwner (s.entry k) = none ∨ entOwner (s.entry k) = some p)) →
    (s.cmdArg port 1 / 2 ^ 9 % 2 = 0 → ∃ t, exec (.sqown port) s = .next t ∧ CmdStat s t port 2 0 ∧
      (s.power = .on → ∀ k ∈ keys, entOwner (t.entry k) = some p) ∧ (s.power ≠ .on → t.seqEntries = s.seqEntries)) ∧
    (s.cmdArg port 1 / 2 ^ 9 % 2 = 1 → ∃ t, exec (.sqownRelease port) s = .next t ∧ CmdStat s t port 2 0 ∧
      (s.power ≠ .on → t.seqEntries = s.seqEntries) ∧
      (s.power = .on → ∀ k, t.entry k = if k ∈ keys ∧ entOwner (s.entry k) = some p then 0 else s.entry k)))
end

