-- ==== Sys2Proof/Laws/Decode.lean ====
section
/-! SUPPORT. Reading back what the encoder packs: one lemma per field of each class and one per code. -/

set_option linter.unusedSimpArgs false

namespace Sys2Proof
namespace Dec

@[simp] theorem lenOf_head (l : BitVec 2) (op : BitVec 6) (g : Guard) (b : BitVec 19) : lenOf (head l op g b) = l := by
  simp (disch := omega) only [lenOf, head, BitVec.extractLsb'_append_eq_of_le,
    BitVec.extractLsb'_append_eq_of_add_le, Nat.sub_self, Nat.reduceSub, BitVec.extractLsb'_eq_self]

@[simp] theorem opOf_head (l : BitVec 2) (op : BitVec 6) (g : Guard) (b : BitVec 19) : opOf (head l op g b) = op := by
  simp (disch := omega) only [opOf, head, BitVec.extractLsb'_append_eq_of_le,
    BitVec.extractLsb'_append_eq_of_add_le, Nat.sub_self, Nat.reduceSub, BitVec.extractLsb'_eq_self]

@[simp] theorem bodyOf_head (l : BitVec 2) (op : BitVec 6) (g : Guard) (b : BitVec 19) : bodyOf (head l op g b) = b := by
  simp (disch := omega) only [bodyOf, head, BitVec.extractLsb'_append_eq_of_le,
    BitVec.extractLsb'_append_eq_of_add_le, Nat.sub_self, Nat.reduceSub, BitVec.extractLsb'_eq_self]

@[simp] theorem isOne_oneBit (b : Bool) : isOne (oneBit b) = b := by cases b <;> rfl

@[simp] theorem guardOf_head (l : BitVec 2) (op : BitVec 6) (g : Guard) (b : BitVec 19) :
    guardOf (head l op g b) = g := by
  obtain ⟨p, n⟩ := g
  have h : (BitVec.ofBool n == 1#1) = n := isOne_oneBit n
  simp (disch := omega) only [guardOf, head, BitVec.extractLsb'_append_eq_of_le,
    BitVec.extractLsb'_append_eq_of_add_le, Nat.sub_self, Nat.reduceSub, BitVec.extractLsb'_eq_self]
  simp only [BitVec.ofNat_eq_ofNat, h]

@[simp] theorem sa3_a_pack (a b c fn) :
    sa3_a (sa3 a b c fn) = a := by
  simp (disch := omega) only [sa3_a, sa3, BitVec.extractLsb'_append_eq_of_le,
    BitVec.extractLsb'_append_eq_of_add_le, Nat.sub_self, Nat.reduceSub, BitVec.extractLsb'_eq_self]

@[simp] theorem sa3_b_pack (a b c fn) :
    sa3_b (sa3 a b c fn) = b := by
  simp (disch := omega) only [sa3_b, sa3, BitVec.extractLsb'_append_eq_of_le,
    BitVec.extractLsb'_append_eq_of_add_le, Nat.sub_self, Nat.reduceSub, BitVec.extractLsb'_eq_self]

@[simp] theorem sa3_c_pack (a b c fn) :
    sa3_c (sa3 a b c fn) = c := by
  simp (disch := omega) only [sa3_c, sa3, BitVec.extractLsb'_append_eq_of_le,
    BitVec.extractLsb'_append_eq_of_add_le, Nat.sub_self, Nat.reduceSub, BitVec.extractLsb'_eq_self]

@[simp] theorem sa3_fn_pack (a b c fn) :
    sa3_fn (sa3 a b c fn) = fn := by
  simp (disch := omega) only [sa3_fn, sa3, BitVec.extractLsb'_append_eq_of_le,
    BitVec.extractLsb'_append_eq_of_add_le, Nat.sub_self, Nat.reduceSub, BitVec.extractLsb'_eq_self]

@[simp] theorem si_d_pack (d a imm) :
    si_d (si d a imm) = d := by
  simp (disch := omega) only [si_d, si, BitVec.extractLsb'_append_eq_of_le,
    BitVec.extractLsb'_append_eq_of_add_le, Nat.sub_self, Nat.reduceSub, BitVec.extractLsb'_eq_self]

@[simp] theorem si_a_pack (d a imm) :
    si_a (si d a imm) = a := by
  simp (disch := omega) only [si_a, si, BitVec.extractLsb'_append_eq_of_le,
    BitVec.extractLsb'_append_eq_of_add_le, Nat.sub_self, Nat.reduceSub, BitVec.extractLsb'_eq_self]

@[simp] theorem si_imm_pack (d a imm) :
    si_imm (si d a imm) = imm := by
  simp (disch := omega) only [si_imm, si, BitVec.extractLsb'_append_eq_of_le,
    BitVec.extractLsb'_append_eq_of_add_le, Nat.sub_self, Nat.reduceSub, BitVec.extractLsb'_eq_self]

@[simp] theorem cmpW_top_pack (top pd a b fn) :
    cmpW_top (cmpW top pd a b fn) = top := by
  simp (disch := omega) only [cmpW_top, cmpW, BitVec.extractLsb'_append_eq_of_le,
    BitVec.extractLsb'_append_eq_of_add_le, Nat.sub_self, Nat.reduceSub, BitVec.extractLsb'_eq_self]

@[simp] theorem cmpW_pd_pack (top pd a b fn) :
    cmpW_pd (cmpW top pd a b fn) = pd := by
  simp (disch := omega) only [cmpW_pd, cmpW, BitVec.extractLsb'_append_eq_of_le,
    BitVec.extractLsb'_append_eq_of_add_le, Nat.sub_self, Nat.reduceSub, BitVec.extractLsb'_eq_self]

@[simp] theorem cmpW_a_pack (top pd a b fn) :
    cmpW_a (cmpW top pd a b fn) = a := by
  simp (disch := omega) only [cmpW_a, cmpW, BitVec.extractLsb'_append_eq_of_le,
    BitVec.extractLsb'_append_eq_of_add_le, Nat.sub_self, Nat.reduceSub, BitVec.extractLsb'_eq_self]

@[simp] theorem cmpW_b_pack (top pd a b fn) :
    cmpW_b (cmpW top pd a b fn) = b := by
  simp (disch := omega) only [cmpW_b, cmpW, BitVec.extractLsb'_append_eq_of_le,
    BitVec.extractLsb'_append_eq_of_add_le, Nat.sub_self, Nat.reduceSub, BitVec.extractLsb'_eq_self]

@[simp] theorem cmpW_fn_pack (top pd a b fn) :
    cmpW_fn (cmpW top pd a b fn) = fn := by
  simp (disch := omega) only [cmpW_fn, cmpW, BitVec.extractLsb'_append_eq_of_le,
    BitVec.extractLsb'_append_eq_of_add_le, Nat.sub_self, Nat.reduceSub, BitVec.extractLsb'_eq_self]

@[simp] theorem cmpiW_top_pack (top pd a imm) :
    cmpiW_top (cmpiW top pd a imm) = top := by
  simp (disch := omega) only [cmpiW_top, cmpiW, BitVec.extractLsb'_append_eq_of_le,
    BitVec.extractLsb'_append_eq_of_add_le, Nat.sub_self, Nat.reduceSub, BitVec.extractLsb'_eq_self]

@[simp] theorem cmpiW_pd_pack (top pd a imm) :
    cmpiW_pd (cmpiW top pd a imm) = pd := by
  simp (disch := omega) only [cmpiW_pd, cmpiW, BitVec.extractLsb'_append_eq_of_le,
    BitVec.extractLsb'_append_eq_of_add_le, Nat.sub_self, Nat.reduceSub, BitVec.extractLsb'_eq_self]

@[simp] theorem cmpiW_a_pack (top pd a imm) :
    cmpiW_a (cmpiW top pd a imm) = a := by
  simp (disch := omega) only [cmpiW_a, cmpiW, BitVec.extractLsb'_append_eq_of_le,
    BitVec.extractLsb'_append_eq_of_add_le, Nat.sub_self, Nat.reduceSub, BitVec.extractLsb'_eq_self]

@[simp] theorem cmpiW_imm_pack (top pd a imm) :
    cmpiW_imm (cmpiW top pd a imm) = imm := by
  simp (disch := omega) only [cmpiW_imm, cmpiW, BitVec.extractLsb'_append_eq_of_le,
    BitVec.extractLsb'_append_eq_of_add_le, Nat.sub_self, Nat.reduceSub, BitVec.extractLsb'_eq_self]

@[simp] theorem plogW_top_pack (top pd na pa nb pb fn) :
    plogW_top (plogW top pd na pa nb pb fn) = top := by
  simp (disch := omega) only [plogW_top, plogW, BitVec.extractLsb'_append_eq_of_le,
    BitVec.extractLsb'_append_eq_of_add_le, Nat.sub_self, Nat.reduceSub, BitVec.extractLsb'_eq_self]

@[simp] theorem plogW_pd_pack (top pd na pa nb pb fn) :
    plogW_pd (plogW top pd na pa nb pb fn) = pd := by
  simp (disch := omega) only [plogW_pd, plogW, BitVec.extractLsb'_append_eq_of_le,
    BitVec.extractLsb'_append_eq_of_add_le, Nat.sub_self, Nat.reduceSub, BitVec.extractLsb'_eq_self]

@[simp] theorem plogW_na_pack (top pd na pa nb pb fn) :
    plogW_na (plogW top pd na pa nb pb fn) = na := by
  simp (disch := omega) only [plogW_na, plogW, BitVec.extractLsb'_append_eq_of_le,
    BitVec.extractLsb'_append_eq_of_add_le, Nat.sub_self, Nat.reduceSub, BitVec.extractLsb'_eq_self]

@[simp] theorem plogW_pa_pack (top pd na pa nb pb fn) :
    plogW_pa (plogW top pd na pa nb pb fn) = pa := by
  simp (disch := omega) only [plogW_pa, plogW, BitVec.extractLsb'_append_eq_of_le,
    BitVec.extractLsb'_append_eq_of_add_le, Nat.sub_self, Nat.reduceSub, BitVec.extractLsb'_eq_self]

@[simp] theorem plogW_nb_pack (top pd na pa nb pb fn) :
    plogW_nb (plogW top pd na pa nb pb fn) = nb := by
  simp (disch := omega) only [plogW_nb, plogW, BitVec.extractLsb'_append_eq_of_le,
    BitVec.extractLsb'_append_eq_of_add_le, Nat.sub_self, Nat.reduceSub, BitVec.extractLsb'_eq_self]

@[simp] theorem plogW_pb_pack (top pd na pa nb pb fn) :
    plogW_pb (plogW top pd na pa nb pb fn) = pb := by
  simp (disch := omega) only [plogW_pb, plogW, BitVec.extractLsb'_append_eq_of_le,
    BitVec.extractLsb'_append_eq_of_add_le, Nat.sub_self, Nat.reduceSub, BitVec.extractLsb'_eq_self]

@[simp] theorem plogW_fn_pack (top pd na pa nb pb fn) :
    plogW_fn (plogW top pd na pa nb pb fn) = fn := by
  simp (disch := omega) only [plogW_fn, plogW, BitVec.extractLsb'_append_eq_of_le,
    BitVec.extractLsb'_append_eq_of_add_le, Nat.sub_self, Nat.reduceSub, BitVec.extractLsb'_eq_self]

@[simp] theorem bt_b_pack (b imm) :
    bt_b (bt b imm) = b := by
  simp (disch := omega) only [bt_b, bt, BitVec.extractLsb'_append_eq_of_le,
    BitVec.extractLsb'_append_eq_of_add_le, Nat.sub_self, Nat.reduceSub, BitVec.extractLsb'_eq_self]

@[simp] theorem bt_imm_pack (b imm) :
    bt_imm (bt b imm) = imm := by
  simp (disch := omega) only [bt_imm, bt, BitVec.extractLsb'_append_eq_of_le,
    BitVec.extractLsb'_append_eq_of_add_le, Nat.sub_self, Nat.reduceSub, BitVec.extractLsb'_eq_self]

@[simp] theorem pbrxW_z_pack (z b a sb fn) :
    pbrxW_z (pbrxW z b a sb fn) = z := by
  simp (disch := omega) only [pbrxW_z, pbrxW, BitVec.extractLsb'_append_eq_of_le,
    BitVec.extractLsb'_append_eq_of_add_le, Nat.sub_self, Nat.reduceSub, BitVec.extractLsb'_eq_self]

@[simp] theorem pbrxW_b_pack (z b a sb fn) :
    pbrxW_b (pbrxW z b a sb fn) = b := by
  simp (disch := omega) only [pbrxW_b, pbrxW, BitVec.extractLsb'_append_eq_of_le,
    BitVec.extractLsb'_append_eq_of_add_le, Nat.sub_self, Nat.reduceSub, BitVec.extractLsb'_eq_self]

@[simp] theorem pbrxW_a_pack (z b a sb fn) :
    pbrxW_a (pbrxW z b a sb fn) = a := by
  simp (disch := omega) only [pbrxW_a, pbrxW, BitVec.extractLsb'_append_eq_of_le,
    BitVec.extractLsb'_append_eq_of_add_le, Nat.sub_self, Nat.reduceSub, BitVec.extractLsb'_eq_self]

@[simp] theorem pbrxW_sb_pack (z b a sb fn) :
    pbrxW_sb (pbrxW z b a sb fn) = sb := by
  simp (disch := omega) only [pbrxW_sb, pbrxW, BitVec.extractLsb'_append_eq_of_le,
    BitVec.extractLsb'_append_eq_of_add_le, Nat.sub_self, Nat.reduceSub, BitVec.extractLsb'_eq_self]

@[simp] theorem pbrxW_fn_pack (z b a sb fn) :
    pbrxW_fn (pbrxW z b a sb fn) = fn := by
  simp (disch := omega) only [pbrxW_fn, pbrxW, BitVec.extractLsb'_append_eq_of_le,
    BitVec.extractLsb'_append_eq_of_add_le, Nat.sub_self, Nat.reduceSub, BitVec.extractLsb'_eq_self]

@[simp] theorem brdecW_d_pack (d z b sb fn) :
    brdecW_d (brdecW d z b sb fn) = d := by
  simp (disch := omega) only [brdecW_d, brdecW, BitVec.extractLsb'_append_eq_of_le,
    BitVec.extractLsb'_append_eq_of_add_le, Nat.sub_self, Nat.reduceSub, BitVec.extractLsb'_eq_self]

@[simp] theorem brdecW_z_pack (d z b sb fn) :
    brdecW_z (brdecW d z b sb fn) = z := by
  simp (disch := omega) only [brdecW_z, brdecW, BitVec.extractLsb'_append_eq_of_le,
    BitVec.extractLsb'_append_eq_of_add_le, Nat.sub_self, Nat.reduceSub, BitVec.extractLsb'_eq_self]

@[simp] theorem brdecW_b_pack (d z b sb fn) :
    brdecW_b (brdecW d z b sb fn) = b := by
  simp (disch := omega) only [brdecW_b, brdecW, BitVec.extractLsb'_append_eq_of_le,
    BitVec.extractLsb'_append_eq_of_add_le, Nat.sub_self, Nat.reduceSub, BitVec.extractLsb'_eq_self]

@[simp] theorem brdecW_sb_pack (d z b sb fn) :
    brdecW_sb (brdecW d z b sb fn) = sb := by
  simp (disch := omega) only [brdecW_sb, brdecW, BitVec.extractLsb'_append_eq_of_le,
    BitVec.extractLsb'_append_eq_of_add_le, Nat.sub_self, Nat.reduceSub, BitVec.extractLsb'_eq_self]

@[simp] theorem brdecW_fn_pack (d z b sb fn) :
    brdecW_fn (brdecW d z b sb fn) = fn := by
  simp (disch := omega) only [brdecW_fn, brdecW, BitVec.extractLsb'_append_eq_of_le,
    BitVec.extractLsb'_append_eq_of_add_le, Nat.sub_self, Nat.reduceSub, BitVec.extractLsb'_eq_self]

@[simp] theorem chkPW_d_pack (d z pa y pb fn) :
    chkPW_d (chkPW d z pa y pb fn) = d := by
  simp (disch := omega) only [chkPW_d, chkPW, BitVec.extractLsb'_append_eq_of_le,
    BitVec.extractLsb'_append_eq_of_add_le, Nat.sub_self, Nat.reduceSub, BitVec.extractLsb'_eq_self]

@[simp] theorem chkPW_z_pack (d z pa y pb fn) :
    chkPW_z (chkPW d z pa y pb fn) = z := by
  simp (disch := omega) only [chkPW_z, chkPW, BitVec.extractLsb'_append_eq_of_le,
    BitVec.extractLsb'_append_eq_of_add_le, Nat.sub_self, Nat.reduceSub, BitVec.extractLsb'_eq_self]

@[simp] theorem chkPW_pa_pack (d z pa y pb fn) :
    chkPW_pa (chkPW d z pa y pb fn) = pa := by
  simp (disch := omega) only [chkPW_pa, chkPW, BitVec.extractLsb'_append_eq_of_le,
    BitVec.extractLsb'_append_eq_of_add_le, Nat.sub_self, Nat.reduceSub, BitVec.extractLsb'_eq_self]

@[simp] theorem chkPW_y_pack (d z pa y pb fn) :
    chkPW_y (chkPW d z pa y pb fn) = y := by
  simp (disch := omega) only [chkPW_y, chkPW, BitVec.extractLsb'_append_eq_of_le,
    BitVec.extractLsb'_append_eq_of_add_le, Nat.sub_self, Nat.reduceSub, BitVec.extractLsb'_eq_self]

@[simp] theorem chkPW_pb_pack (d z pa y pb fn) :
    chkPW_pb (chkPW d z pa y pb fn) = pb := by
  simp (disch := omega) only [chkPW_pb, chkPW, BitVec.extractLsb'_append_eq_of_le,
    BitVec.extractLsb'_append_eq_of_add_le, Nat.sub_self, Nat.reduceSub, BitVec.extractLsb'_eq_self]

@[simp] theorem chkPW_fn_pack (d z pa y pb fn) :
    chkPW_fn (chkPW d z pa y pb fn) = fn := by
  simp (disch := omega) only [chkPW_fn, chkPW, BitVec.extractLsb'_append_eq_of_le,
    BitVec.extractLsb'_append_eq_of_add_le, Nat.sub_self, Nat.reduceSub, BitVec.extractLsb'_eq_self]

@[simp] theorem chkVW_hi_pack (hi z lo b fn) :
    chkVW_hi (chkVW hi z lo b fn) = hi := by
  simp (disch := omega) only [chkVW_hi, chkVW, BitVec.extractLsb'_append_eq_of_le,
    BitVec.extractLsb'_append_eq_of_add_le, Nat.sub_self, Nat.reduceSub, BitVec.extractLsb'_eq_self]

@[simp] theorem chkVW_z_pack (hi z lo b fn) :
    chkVW_z (chkVW hi z lo b fn) = z := by
  simp (disch := omega) only [chkVW_z, chkVW, BitVec.extractLsb'_append_eq_of_le,
    BitVec.extractLsb'_append_eq_of_add_le, Nat.sub_self, Nat.reduceSub, BitVec.extractLsb'_eq_self]

@[simp] theorem chkVW_lo_pack (hi z lo b fn) :
    chkVW_lo (chkVW hi z lo b fn) = lo := by
  simp (disch := omega) only [chkVW_lo, chkVW, BitVec.extractLsb'_append_eq_of_le,
    BitVec.extractLsb'_append_eq_of_add_le, Nat.sub_self, Nat.reduceSub, BitVec.extractLsb'_eq_self]

@[simp] theorem chkVW_b_pack (hi z lo b fn) :
    chkVW_b (chkVW hi z lo b fn) = b := by
  simp (disch := omega) only [chkVW_b, chkVW, BitVec.extractLsb'_append_eq_of_le,
    BitVec.extractLsb'_append_eq_of_add_le, Nat.sub_self, Nat.reduceSub, BitVec.extractLsb'_eq_self]

@[simp] theorem chkVW_fn_pack (hi z lo b fn) :
    chkVW_fn (chkVW hi z lo b fn) = fn := by
  simp (disch := omega) only [chkVW_fn, chkVW, BitVec.extractLsb'_append_eq_of_le,
    BitVec.extractLsb'_append_eq_of_add_le, Nat.sub_self, Nat.reduceSub, BitVec.extractLsb'_eq_self]

@[simp] theorem chkBW_d_pack (d z ba y bb fn) :
    chkBW_d (chkBW d z ba y bb fn) = d := by
  simp (disch := omega) only [chkBW_d, chkBW, BitVec.extractLsb'_append_eq_of_le,
    BitVec.extractLsb'_append_eq_of_add_le, Nat.sub_self, Nat.reduceSub, BitVec.extractLsb'_eq_self]

@[simp] theorem chkBW_z_pack (d z ba y bb fn) :
    chkBW_z (chkBW d z ba y bb fn) = z := by
  simp (disch := omega) only [chkBW_z, chkBW, BitVec.extractLsb'_append_eq_of_le,
    BitVec.extractLsb'_append_eq_of_add_le, Nat.sub_self, Nat.reduceSub, BitVec.extractLsb'_eq_self]

@[simp] theorem chkBW_ba_pack (d z ba y bb fn) :
    chkBW_ba (chkBW d z ba y bb fn) = ba := by
  simp (disch := omega) only [chkBW_ba, chkBW, BitVec.extractLsb'_append_eq_of_le,
    BitVec.extractLsb'_append_eq_of_add_le, Nat.sub_self, Nat.reduceSub, BitVec.extractLsb'_eq_self]

@[simp] theorem chkBW_y_pack (d z ba y bb fn) :
    chkBW_y (chkBW d z ba y bb fn) = y := by
  simp (disch := omega) only [chkBW_y, chkBW, BitVec.extractLsb'_append_eq_of_le,
    BitVec.extractLsb'_append_eq_of_add_le, Nat.sub_self, Nat.reduceSub, BitVec.extractLsb'_eq_self]

@[simp] theorem chkBW_bb_pack (d z ba y bb fn) :
    chkBW_bb (chkBW d z ba y bb fn) = bb := by
  simp (disch := omega) only [chkBW_bb, chkBW, BitVec.extractLsb'_append_eq_of_le,
    BitVec.extractLsb'_append_eq_of_add_le, Nat.sub_self, Nat.reduceSub, BitVec.extractLsb'_eq_self]

@[simp] theorem chkBW_fn_pack (d z ba y bb fn) :
    chkBW_fn (chkBW d z ba y bb fn) = fn := by
  simp (disch := omega) only [chkBW_fn, chkBW, BitVec.extractLsb'_append_eq_of_le,
    BitVec.extractLsb'_append_eq_of_add_le, Nat.sub_self, Nat.reduceSub, BitVec.extractLsb'_eq_self]

@[simp] theorem imm8_z_pack (z n) :
    imm8_z (imm8 z n) = z := by
  simp (disch := omega) only [imm8_z, imm8, BitVec.extractLsb'_append_eq_of_le,
    BitVec.extractLsb'_append_eq_of_add_le, Nat.sub_self, Nat.reduceSub, BitVec.extractLsb'_eq_self]

@[simp] theorem imm8_n_pack (z n) :
    imm8_n (imm8 z n) = n := by
  simp (disch := omega) only [imm8_n, imm8, BitVec.extractLsb'_append_eq_of_le,
    BitVec.extractLsb'_append_eq_of_add_le, Nat.sub_self, Nat.reduceSub, BitVec.extractLsb'_eq_self]

@[simp] theorem rdwW_d_pack (d a z level) :
    rdwW_d (rdwW d a z level) = d := by
  simp (disch := omega) only [rdwW_d, rdwW, BitVec.extractLsb'_append_eq_of_le,
    BitVec.extractLsb'_append_eq_of_add_le, Nat.sub_self, Nat.reduceSub, BitVec.extractLsb'_eq_self]

@[simp] theorem rdwW_a_pack (d a z level) :
    rdwW_a (rdwW d a z level) = a := by
  simp (disch := omega) only [rdwW_a, rdwW, BitVec.extractLsb'_append_eq_of_le,
    BitVec.extractLsb'_append_eq_of_add_le, Nat.sub_self, Nat.reduceSub, BitVec.extractLsb'_eq_self]

@[simp] theorem rdwW_z_pack (d a z level) :
    rdwW_z (rdwW d a z level) = z := by
  simp (disch := omega) only [rdwW_z, rdwW, BitVec.extractLsb'_append_eq_of_le,
    BitVec.extractLsb'_append_eq_of_add_le, Nat.sub_self, Nat.reduceSub, BitVec.extractLsb'_eq_self]

@[simp] theorem rdwW_level_pack (d a z level) :
    rdwW_level (rdwW d a z level) = level := by
  simp (disch := omega) only [rdwW_level, rdwW, BitVec.extractLsb'_append_eq_of_le,
    BitVec.extractLsb'_append_eq_of_add_le, Nat.sub_self, Nat.reduceSub, BitVec.extractLsb'_eq_self]

@[simp] theorem va1_w_pack (w part fn mm vm) :
    va1_w (va1 w part fn mm vm) = w := by
  simp (disch := omega) only [va1_w, va1, BitVec.extractLsb'_append_eq_of_le,
    BitVec.extractLsb'_append_eq_of_add_le, Nat.sub_self, Nat.reduceSub, BitVec.extractLsb'_eq_self]

@[simp] theorem va1_part_pack (w part fn mm vm) :
    va1_part (va1 w part fn mm vm) = part := by
  simp (disch := omega) only [va1_part, va1, BitVec.extractLsb'_append_eq_of_le,
    BitVec.extractLsb'_append_eq_of_add_le, Nat.sub_self, Nat.reduceSub, BitVec.extractLsb'_eq_self]

@[simp] theorem va1_fn_pack (w part fn mm vm) :
    va1_fn (va1 w part fn mm vm) = fn := by
  simp (disch := omega) only [va1_fn, va1, BitVec.extractLsb'_append_eq_of_le,
    BitVec.extractLsb'_append_eq_of_add_le, Nat.sub_self, Nat.reduceSub, BitVec.extractLsb'_eq_self]

@[simp] theorem va1_mm_pack (w part fn mm vm) :
    va1_mm (va1 w part fn mm vm) = mm := by
  simp (disch := omega) only [va1_mm, va1, BitVec.extractLsb'_append_eq_of_le,
    BitVec.extractLsb'_append_eq_of_add_le, Nat.sub_self, Nat.reduceSub, BitVec.extractLsb'_eq_self]

@[simp] theorem va1_vm_pack (w part fn mm vm) :
    va1_vm (va1 w part fn mm vm) = vm := by
  simp (disch := omega) only [va1_vm, va1, BitVec.extractLsb'_append_eq_of_le,
    BitVec.extractLsb'_append_eq_of_add_le, Nat.sub_self, Nat.reduceSub, BitVec.extractLsb'_eq_self]

@[simp] theorem mm1_acc_pack (acc nk fa fb) :
    mm1_acc (mm1 acc nk fa fb) = acc := by
  simp (disch := omega) only [mm1_acc, mm1, BitVec.extractLsb'_append_eq_of_le,
    BitVec.extractLsb'_append_eq_of_add_le, Nat.sub_self, Nat.reduceSub, BitVec.extractLsb'_eq_self]

@[simp] theorem mm1_nk_pack (acc nk fa fb) :
    mm1_nk (mm1 acc nk fa fb) = nk := by
  simp (disch := omega) only [mm1_nk, mm1, BitVec.extractLsb'_append_eq_of_le,
    BitVec.extractLsb'_append_eq_of_add_le, Nat.sub_self, Nat.reduceSub, BitVec.extractLsb'_eq_self]

@[simp] theorem mm1_fa_pack (acc nk fa fb) :
    mm1_fa (mm1 acc nk fa fb) = fa := by
  simp (disch := omega) only [mm1_fa, mm1, BitVec.extractLsb'_append_eq_of_le,
    BitVec.extractLsb'_append_eq_of_add_le, Nat.sub_self, Nat.reduceSub, BitVec.extractLsb'_eq_self]

@[simp] theorem mm1_fb_pack (acc nk fa fb) :
    mm1_fb (mm1 acc nk fa fb) = fb := by
  simp (disch := omega) only [mm1_fb, mm1, BitVec.extractLsb'_append_eq_of_le,
    BitVec.extractLsb'_append_eq_of_add_le, Nat.sub_self, Nat.reduceSub, BitVec.extractLsb'_eq_self]

@[simp] theorem mr1_w_pack (w part tag base fn) :
    mr1_w (mr1 w part tag base fn) = w := by
  simp (disch := omega) only [mr1_w, mr1, BitVec.extractLsb'_append_eq_of_le,
    BitVec.extractLsb'_append_eq_of_add_le, Nat.sub_self, Nat.reduceSub, BitVec.extractLsb'_eq_self]

@[simp] theorem mr1_part_pack (w part tag base fn) :
    mr1_part (mr1 w part tag base fn) = part := by
  simp (disch := omega) only [mr1_part, mr1, BitVec.extractLsb'_append_eq_of_le,
    BitVec.extractLsb'_append_eq_of_add_le, Nat.sub_self, Nat.reduceSub, BitVec.extractLsb'_eq_self]

@[simp] theorem mr1_tag_pack (w part tag base fn) :
    mr1_tag (mr1 w part tag base fn) = tag := by
  simp (disch := omega) only [mr1_tag, mr1, BitVec.extractLsb'_append_eq_of_le,
    BitVec.extractLsb'_append_eq_of_add_le, Nat.sub_self, Nat.reduceSub, BitVec.extractLsb'_eq_self]

@[simp] theorem mr1_base_pack (w part tag base fn) :
    mr1_base (mr1 w part tag base fn) = base := by
  simp (disch := omega) only [mr1_base, mr1, BitVec.extractLsb'_append_eq_of_le,
    BitVec.extractLsb'_append_eq_of_add_le, Nat.sub_self, Nat.reduceSub, BitVec.extractLsb'_eq_self]

@[simp] theorem mr1_fn_pack (w part tag base fn) :
    mr1_fn (mr1 w part tag base fn) = fn := by
  simp (disch := omega) only [mr1_fn, mr1, BitVec.extractLsb'_append_eq_of_le,
    BitVec.extractLsb'_append_eq_of_add_le, Nat.sub_self, Nat.reduceSub, BitVec.extractLsb'_eq_self]

@[simp] theorem ms1_d_pack (d a size off) :
    ms1_d (ms1 d a size off) = d := by
  simp (disch := omega) only [ms1_d, ms1, BitVec.extractLsb'_append_eq_of_le,
    BitVec.extractLsb'_append_eq_of_add_le, Nat.sub_self, Nat.reduceSub, BitVec.extractLsb'_eq_self]

@[simp] theorem ms1_a_pack (d a size off) :
    ms1_a (ms1 d a size off) = a := by
  simp (disch := omega) only [ms1_a, ms1, BitVec.extractLsb'_append_eq_of_le,
    BitVec.extractLsb'_append_eq_of_add_le, Nat.sub_self, Nat.reduceSub, BitVec.extractLsb'_eq_self]

@[simp] theorem ms1_size_pack (d a size off) :
    ms1_size (ms1 d a size off) = size := by
  simp (disch := omega) only [ms1_size, ms1, BitVec.extractLsb'_append_eq_of_le,
    BitVec.extractLsb'_append_eq_of_add_le, Nat.sub_self, Nat.reduceSub, BitVec.extractLsb'_eq_self]

@[simp] theorem ms1_off_pack (d a size off) :
    ms1_off (ms1 d a size off) = off := by
  simp (disch := omega) only [ms1_off, ms1, BitVec.extractLsb'_append_eq_of_le,
    BitVec.extractLsb'_append_eq_of_add_le, Nat.sub_self, Nat.reduceSub, BitVec.extractLsb'_eq_self]

@[simp] theorem fb1_v_pack (v port fn) :
    fb1_v (fb1 v port fn) = v := by
  simp (disch := omega) only [fb1_v, fb1, BitVec.extractLsb'_append_eq_of_le,
    BitVec.extractLsb'_append_eq_of_add_le, Nat.sub_self, Nat.reduceSub, BitVec.extractLsb'_eq_self]

@[simp] theorem fb1_port_pack (v port fn) :
    fb1_port (fb1 v port fn) = port := by
  simp (disch := omega) only [fb1_port, fb1, BitVec.extractLsb'_append_eq_of_le,
    BitVec.extractLsb'_append_eq_of_add_le, Nat.sub_self, Nat.reduceSub, BitVec.extractLsb'_eq_self]

@[simp] theorem fb1_fn_pack (v port fn) :
    fb1_fn (fb1 v port fn) = fn := by
  simp (disch := omega) only [fb1_fn, fb1, BitVec.extractLsb'_append_eq_of_le,
    BitVec.extractLsb'_append_eq_of_add_le, Nat.sub_self, Nat.reduceSub, BitVec.extractLsb'_eq_self]

@[simp] theorem sw1_vd_pack (vd z sr fn) :
    sw1_vd (sw1 vd z sr fn) = vd := by
  simp (disch := omega) only [sw1_vd, sw1, BitVec.extractLsb'_append_eq_of_le,
    BitVec.extractLsb'_append_eq_of_add_le, Nat.sub_self, Nat.reduceSub, BitVec.extractLsb'_eq_self]

@[simp] theorem sw1_z_pack (vd z sr fn) :
    sw1_z (sw1 vd z sr fn) = z := by
  simp (disch := omega) only [sw1_z, sw1, BitVec.extractLsb'_append_eq_of_le,
    BitVec.extractLsb'_append_eq_of_add_le, Nat.sub_self, Nat.reduceSub, BitVec.extractLsb'_eq_self]

@[simp] theorem sw1_sr_pack (vd z sr fn) :
    sw1_sr (sw1 vd z sr fn) = sr := by
  simp (disch := omega) only [sw1_sr, sw1, BitVec.extractLsb'_append_eq_of_le,
    BitVec.extractLsb'_append_eq_of_add_le, Nat.sub_self, Nat.reduceSub, BitVec.extractLsb'_eq_self]

@[simp] theorem sw1_fn_pack (vd z sr fn) :
    sw1_fn (sw1 vd z sr fn) = fn := by
  simp (disch := omega) only [sw1_fn, sw1, BitVec.extractLsb'_append_eq_of_le,
    BitVec.extractLsb'_append_eq_of_add_le, Nat.sub_self, Nat.reduceSub, BitVec.extractLsb'_eq_self]

@[simp] theorem fld_z_pack (z sx len pos) :
    fld_z (fld z sx len pos) = z := by
  simp (disch := omega) only [fld_z, fld, BitVec.extractLsb'_append_eq_of_le,
    BitVec.extractLsb'_append_eq_of_add_le, Nat.sub_self, Nat.reduceSub, BitVec.extractLsb'_eq_self]

@[simp] theorem fld_sx_pack (z sx len pos) :
    fld_sx (fld z sx len pos) = sx := by
  simp (disch := omega) only [fld_sx, fld, BitVec.extractLsb'_append_eq_of_le,
    BitVec.extractLsb'_append_eq_of_add_le, Nat.sub_self, Nat.reduceSub, BitVec.extractLsb'_eq_self]

@[simp] theorem fld_len_pack (z sx len pos) :
    fld_len (fld z sx len pos) = len := by
  simp (disch := omega) only [fld_len, fld, BitVec.extractLsb'_append_eq_of_le,
    BitVec.extractLsb'_append_eq_of_add_le, Nat.sub_self, Nat.reduceSub, BitVec.extractLsb'_eq_self]

@[simp] theorem fld_pos_pack (z sx len pos) :
    fld_pos (fld z sx len pos) = pos := by
  simp (disch := omega) only [fld_pos, fld, BitVec.extractLsb'_append_eq_of_le,
    BitVec.extractLsb'_append_eq_of_add_le, Nat.sub_self, Nat.reduceSub, BitVec.extractLsb'_eq_self]

@[simp] theorem lvl_level_pack (level off) :
    lvl_level (lvl level off) = level := by
  simp (disch := omega) only [lvl_level, lvl, BitVec.extractLsb'_append_eq_of_le,
    BitVec.extractLsb'_append_eq_of_add_le, Nat.sub_self, Nat.reduceSub, BitVec.extractLsb'_eq_self]

@[simp] theorem lvl_off_pack (level off) :
    lvl_off (lvl level off) = off := by
  simp (disch := omega) only [lvl_off, lvl, BitVec.extractLsb'_append_eq_of_le,
    BitVec.extractLsb'_append_eq_of_add_le, Nat.sub_self, Nat.reduceSub, BitVec.extractLsb'_eq_self]

@[simp] theorem va2_vd_pack (vd va vb x5) :
    va2_vd (va2 vd va vb x5) = vd := by
  simp (disch := omega) only [va2_vd, va2, BitVec.extractLsb'_append_eq_of_le,
    BitVec.extractLsb'_append_eq_of_add_le, Nat.sub_self, Nat.reduceSub, BitVec.extractLsb'_eq_self]

@[simp] theorem va2_va_pack (vd va vb x5) :
    va2_va (va2 vd va vb x5) = va := by
  simp (disch := omega) only [va2_va, va2, BitVec.extractLsb'_append_eq_of_le,
    BitVec.extractLsb'_append_eq_of_add_le, Nat.sub_self, Nat.reduceSub, BitVec.extractLsb'_eq_self]

@[simp] theorem va2_vb_pack (vd va vb x5) :
    va2_vb (va2 vd va vb x5) = vb := by
  simp (disch := omega) only [va2_vb, va2, BitVec.extractLsb'_append_eq_of_le,
    BitVec.extractLsb'_append_eq_of_add_le, Nat.sub_self, Nat.reduceSub, BitVec.extractLsb'_eq_self]

@[simp] theorem va2_x5_pack (vd va vb x5) :
    va2_x5 (va2 vd va vb x5) = x5 := by
  simp (disch := omega) only [va2_x5, va2, BitVec.extractLsb'_append_eq_of_le,
    BitVec.extractLsb'_append_eq_of_add_le, Nat.sub_self, Nat.reduceSub, BitVec.extractLsb'_eq_self]

@[simp] theorem mm2_va_pack (va vb row0 nr fn) :
    mm2_va (mm2 va vb row0 nr fn) = va := by
  simp (disch := omega) only [mm2_va, mm2, BitVec.extractLsb'_append_eq_of_le,
    BitVec.extractLsb'_append_eq_of_add_le, Nat.sub_self, Nat.reduceSub, BitVec.extractLsb'_eq_self]

@[simp] theorem mm2_vb_pack (va vb row0 nr fn) :
    mm2_vb (mm2 va vb row0 nr fn) = vb := by
  simp (disch := omega) only [mm2_vb, mm2, BitVec.extractLsb'_append_eq_of_le,
    BitVec.extractLsb'_append_eq_of_add_le, Nat.sub_self, Nat.reduceSub, BitVec.extractLsb'_eq_self]

@[simp] theorem mm2_row0_pack (va vb row0 nr fn) :
    mm2_row0 (mm2 va vb row0 nr fn) = row0 := by
  simp (disch := omega) only [mm2_row0, mm2, BitVec.extractLsb'_append_eq_of_le,
    BitVec.extractLsb'_append_eq_of_add_le, Nat.sub_self, Nat.reduceSub, BitVec.extractLsb'_eq_self]

@[simp] theorem mm2_nr_pack (va vb row0 nr fn) :
    mm2_nr (mm2 va vb row0 nr fn) = nr := by
  simp (disch := omega) only [mm2_nr, mm2, BitVec.extractLsb'_append_eq_of_le,
    BitVec.extractLsb'_append_eq_of_add_le, Nat.sub_self, Nat.reduceSub, BitVec.extractLsb'_eq_self]

@[simp] theorem mm2_fn_pack (va vb row0 nr fn) :
    mm2_fn (mm2 va vb row0 nr fn) = fn := by
  simp (disch := omega) only [mm2_fn, mm2, BitVec.extractLsb'_append_eq_of_le,
    BitVec.extractLsb'_append_eq_of_add_le, Nat.sub_self, Nat.reduceSub, BitVec.extractLsb'_eq_self]

@[simp] theorem mr2_v_pack (v off) :
    mr2_v (mr2 v off) = v := by
  simp (disch := omega) only [mr2_v, mr2, BitVec.extractLsb'_append_eq_of_le,
    BitVec.extractLsb'_append_eq_of_add_le, Nat.sub_self, Nat.reduceSub, BitVec.extractLsb'_eq_self]

@[simp] theorem mr2_off_pack (v off) :
    mr2_off (mr2 v off) = off := by
  simp (disch := omega) only [mr2_off, mr2, BitVec.extractLsb'_append_eq_of_le,
    BitVec.extractLsb'_append_eq_of_add_le, Nat.sub_self, Nat.reduceSub, BitVec.extractLsb'_eq_self]

@[simp] theorem fb2_dx_pack (dx dy yx z) :
    fb2_dx (fb2 dx dy yx z) = dx := by
  simp (disch := omega) only [fb2_dx, fb2, BitVec.extractLsb'_append_eq_of_le,
    BitVec.extractLsb'_append_eq_of_add_le, Nat.sub_self, Nat.reduceSub, BitVec.extractLsb'_eq_self]

@[simp] theorem fb2_dy_pack (dx dy yx z) :
    fb2_dy (fb2 dx dy yx z) = dy := by
  simp (disch := omega) only [fb2_dy, fb2, BitVec.extractLsb'_append_eq_of_le,
    BitVec.extractLsb'_append_eq_of_add_le, Nat.sub_self, Nat.reduceSub, BitVec.extractLsb'_eq_self]

@[simp] theorem fb2_yx_pack (dx dy yx z) :
    fb2_yx (fb2 dx dy yx z) = yx := by
  simp (disch := omega) only [fb2_yx, fb2, BitVec.extractLsb'_append_eq_of_le,
    BitVec.extractLsb'_append_eq_of_add_le, Nat.sub_self, Nat.reduceSub, BitVec.extractLsb'_eq_self]

@[simp] theorem fb2_z_pack (dx dy yx z) :
    fb2_z (fb2 dx dy yx z) = z := by
  simp (disch := omega) only [fb2_z, fb2, BitVec.extractLsb'_append_eq_of_le,
    BitVec.extractLsb'_append_eq_of_add_le, Nat.sub_self, Nat.reduceSub, BitVec.extractLsb'_eq_self]

@[simp] theorem gm2_dl_pack (dl scope acq rel size) :
    gm2_dl (gm2 dl scope acq rel size) = dl := by
  simp (disch := omega) only [gm2_dl, gm2, BitVec.extractLsb'_append_eq_of_le,
    BitVec.extractLsb'_append_eq_of_add_le, Nat.sub_self, Nat.reduceSub, BitVec.extractLsb'_eq_self]

@[simp] theorem gm2_scope_pack (dl scope acq rel size) :
    gm2_scope (gm2 dl scope acq rel size) = scope := by
  simp (disch := omega) only [gm2_scope, gm2, BitVec.extractLsb'_append_eq_of_le,
    BitVec.extractLsb'_append_eq_of_add_le, Nat.sub_self, Nat.reduceSub, BitVec.extractLsb'_eq_self]

@[simp] theorem gm2_acq_pack (dl scope acq rel size) :
    gm2_acq (gm2 dl scope acq rel size) = acq := by
  simp (disch := omega) only [gm2_acq, gm2, BitVec.extractLsb'_append_eq_of_le,
    BitVec.extractLsb'_append_eq_of_add_le, Nat.sub_self, Nat.reduceSub, BitVec.extractLsb'_eq_self]

@[simp] theorem gm2_rel_pack (dl scope acq rel size) :
    gm2_rel (gm2 dl scope acq rel size) = rel := by
  simp (disch := omega) only [gm2_rel, gm2, BitVec.extractLsb'_append_eq_of_le,
    BitVec.extractLsb'_append_eq_of_add_le, Nat.sub_self, Nat.reduceSub, BitVec.extractLsb'_eq_self]

@[simp] theorem gm2_size_pack (dl scope acq rel size) :
    gm2_size (gm2 dl scope acq rel size) = size := by
  simp (disch := omega) only [gm2_size, gm2, BitVec.extractLsb'_append_eq_of_le,
    BitVec.extractLsb'_append_eq_of_add_le, Nat.sub_self, Nat.reduceSub, BitVec.extractLsb'_eq_self]

@[simp] theorem ec2_scope_pack (scope acq rel cnt sz side kind flds) :
    ec2_scope (ec2 scope acq rel cnt sz side kind flds) = scope := by
  simp (disch := omega) only [ec2_scope, ec2, BitVec.extractLsb'_append_eq_of_le,
    BitVec.extractLsb'_append_eq_of_add_le, Nat.sub_self, Nat.reduceSub, BitVec.extractLsb'_eq_self]

@[simp] theorem ec2_acq_pack (scope acq rel cnt sz side kind flds) :
    ec2_acq (ec2 scope acq rel cnt sz side kind flds) = acq := by
  simp (disch := omega) only [ec2_acq, ec2, BitVec.extractLsb'_append_eq_of_le,
    BitVec.extractLsb'_append_eq_of_add_le, Nat.sub_self, Nat.reduceSub, BitVec.extractLsb'_eq_self]

@[simp] theorem ec2_rel_pack (scope acq rel cnt sz side kind flds) :
    ec2_rel (ec2 scope acq rel cnt sz side kind flds) = rel := by
  simp (disch := omega) only [ec2_rel, ec2, BitVec.extractLsb'_append_eq_of_le,
    BitVec.extractLsb'_append_eq_of_add_le, Nat.sub_self, Nat.reduceSub, BitVec.extractLsb'_eq_self]

@[simp] theorem ec2_cnt_pack (scope acq rel cnt sz side kind flds) :
    ec2_cnt (ec2 scope acq rel cnt sz side kind flds) = cnt := by
  simp (disch := omega) only [ec2_cnt, ec2, BitVec.extractLsb'_append_eq_of_le,
    BitVec.extractLsb'_append_eq_of_add_le, Nat.sub_self, Nat.reduceSub, BitVec.extractLsb'_eq_self]

@[simp] theorem ec2_sz_pack (scope acq rel cnt sz side kind flds) :
    ec2_sz (ec2 scope acq rel cnt sz side kind flds) = sz := by
  simp (disch := omega) only [ec2_sz, ec2, BitVec.extractLsb'_append_eq_of_le,
    BitVec.extractLsb'_append_eq_of_add_le, Nat.sub_self, Nat.reduceSub, BitVec.extractLsb'_eq_self]

@[simp] theorem ec2_side_pack (scope acq rel cnt sz side kind flds) :
    ec2_side (ec2 scope acq rel cnt sz side kind flds) = side := by
  simp (disch := omega) only [ec2_side, ec2, BitVec.extractLsb'_append_eq_of_le,
    BitVec.extractLsb'_append_eq_of_add_le, Nat.sub_self, Nat.reduceSub, BitVec.extractLsb'_eq_self]

@[simp] theorem ec2_kind_pack (scope acq rel cnt sz side kind flds) :
    ec2_kind (ec2 scope acq rel cnt sz side kind flds) = kind := by
  simp (disch := omega) only [ec2_kind, ec2, BitVec.extractLsb'_append_eq_of_le,
    BitVec.extractLsb'_append_eq_of_add_le, Nat.sub_self, Nat.reduceSub, BitVec.extractLsb'_eq_self]

@[simp] theorem ec2_flds_pack (scope acq rel cnt sz side kind flds) :
    ec2_flds (ec2 scope acq rel cnt sz side kind flds) = flds := by
  simp (disch := omega) only [ec2_flds, ec2, BitVec.extractLsb'_append_eq_of_le,
    BitVec.extractLsb'_append_eq_of_add_le, Nat.sub_self, Nat.reduceSub, BitVec.extractLsb'_eq_self]

@[simp] theorem sw2_scope_pack (scope ar opr z vs) :
    sw2_scope (sw2 scope ar opr z vs) = scope := by
  simp (disch := omega) only [sw2_scope, sw2, BitVec.extractLsb'_append_eq_of_le,
    BitVec.extractLsb'_append_eq_of_add_le, Nat.sub_self, Nat.reduceSub, BitVec.extractLsb'_eq_self]

@[simp] theorem sw2_ar_pack (scope ar opr z vs) :
    sw2_ar (sw2 scope ar opr z vs) = ar := by
  simp (disch := omega) only [sw2_ar, sw2, BitVec.extractLsb'_append_eq_of_le,
    BitVec.extractLsb'_append_eq_of_add_le, Nat.sub_self, Nat.reduceSub, BitVec.extractLsb'_eq_self]

@[simp] theorem sw2_opr_pack (scope ar opr z vs) :
    sw2_opr (sw2 scope ar opr z vs) = opr := by
  simp (disch := omega) only [sw2_opr, sw2, BitVec.extractLsb'_append_eq_of_le,
    BitVec.extractLsb'_append_eq_of_add_le, Nat.sub_self, Nat.reduceSub, BitVec.extractLsb'_eq_self]

@[simp] theorem sw2_z_pack (scope ar opr z vs) :
    sw2_z (sw2 scope ar opr z vs) = z := by
  simp (disch := omega) only [sw2_z, sw2, BitVec.extractLsb'_append_eq_of_le,
    BitVec.extractLsb'_append_eq_of_add_le, Nat.sub_self, Nat.reduceSub, BitVec.extractLsb'_eq_self]

@[simp] theorem sw2_vs_pack (scope ar opr z vs) :
    sw2_vs (sw2 scope ar opr z vs) = vs := by
  simp (disch := omega) only [sw2_vs, sw2, BitVec.extractLsb'_append_eq_of_le,
    BitVec.extractLsb'_append_eq_of_add_le, Nat.sub_self, Nat.reduceSub, BitVec.extractLsb'_eq_self]

@[simp] theorem acpF_z_pack (z r0 i32 inn acc) :
    acpF_z (acpF z r0 i32 inn acc) = z := by
  simp (disch := omega) only [acpF_z, acpF, BitVec.extractLsb'_append_eq_of_le,
    BitVec.extractLsb'_append_eq_of_add_le, Nat.sub_self, Nat.reduceSub, BitVec.extractLsb'_eq_self]

@[simp] theorem acpF_r0_pack (z r0 i32 inn acc) :
    acpF_r0 (acpF z r0 i32 inn acc) = r0 := by
  simp (disch := omega) only [acpF_r0, acpF, BitVec.extractLsb'_append_eq_of_le,
    BitVec.extractLsb'_append_eq_of_add_le, Nat.sub_self, Nat.reduceSub, BitVec.extractLsb'_eq_self]

@[simp] theorem acpF_i32_pack (z r0 i32 inn acc) :
    acpF_i32 (acpF z r0 i32 inn acc) = i32 := by
  simp (disch := omega) only [acpF_i32, acpF, BitVec.extractLsb'_append_eq_of_le,
    BitVec.extractLsb'_append_eq_of_add_le, Nat.sub_self, Nat.reduceSub, BitVec.extractLsb'_eq_self]

@[simp] theorem acpF_inn_pack (z r0 i32 inn acc) :
    acpF_inn (acpF z r0 i32 inn acc) = inn := by
  simp (disch := omega) only [acpF_inn, acpF, BitVec.extractLsb'_append_eq_of_le,
    BitVec.extractLsb'_append_eq_of_add_le, Nat.sub_self, Nat.reduceSub, BitVec.extractLsb'_eq_self]

@[simp] theorem acpF_acc_pack (z r0 i32 inn acc) :
    acpF_acc (acpF z r0 i32 inn acc) = acc := by
  simp (disch := omega) only [acpF_acc, acpF, BitVec.extractLsb'_append_eq_of_le,
    BitVec.extractLsb'_append_eq_of_add_le, Nat.sub_self, Nat.reduceSub, BitVec.extractLsb'_eq_self]

@[simp] theorem modP_l_pack (l kind z ftz sat rnd) :
    modP_l (modP l kind z ftz sat rnd) = l := by
  simp (disch := omega) only [modP_l, modP, BitVec.extractLsb'_append_eq_of_le,
    BitVec.extractLsb'_append_eq_of_add_le, Nat.sub_self, Nat.reduceSub, BitVec.extractLsb'_eq_self]

@[simp] theorem modP_kind_pack (l kind z ftz sat rnd) :
    modP_kind (modP l kind z ftz sat rnd) = kind := by
  simp (disch := omega) only [modP_kind, modP, BitVec.extractLsb'_append_eq_of_le,
    BitVec.extractLsb'_append_eq_of_add_le, Nat.sub_self, Nat.reduceSub, BitVec.extractLsb'_eq_self]

@[simp] theorem modP_z_pack (l kind z ftz sat rnd) :
    modP_z (modP l kind z ftz sat rnd) = z := by
  simp (disch := omega) only [modP_z, modP, BitVec.extractLsb'_append_eq_of_le,
    BitVec.extractLsb'_append_eq_of_add_le, Nat.sub_self, Nat.reduceSub, BitVec.extractLsb'_eq_self]

@[simp] theorem modP_ftz_pack (l kind z ftz sat rnd) :
    modP_ftz (modP l kind z ftz sat rnd) = ftz := by
  simp (disch := omega) only [modP_ftz, modP, BitVec.extractLsb'_append_eq_of_le,
    BitVec.extractLsb'_append_eq_of_add_le, Nat.sub_self, Nat.reduceSub, BitVec.extractLsb'_eq_self]

@[simp] theorem modP_sat_pack (l kind z ftz sat rnd) :
    modP_sat (modP l kind z ftz sat rnd) = sat := by
  simp (disch := omega) only [modP_sat, modP, BitVec.extractLsb'_append_eq_of_le,
    BitVec.extractLsb'_append_eq_of_add_le, Nat.sub_self, Nat.reduceSub, BitVec.extractLsb'_eq_self]

@[simp] theorem modP_rnd_pack (l kind z ftz sat rnd) :
    modP_rnd (modP l kind z ftz sat rnd) = rnd := by
  simp (disch := omega) only [modP_rnd, modP, BitVec.extractLsb'_append_eq_of_le,
    BitVec.extractLsb'_append_eq_of_add_le, Nat.sub_self, Nat.reduceSub, BitVec.extractLsb'_eq_self]

@[simp] theorem xtagP_l_pack (l kind z f) :
    xtagP_l (xtagP l kind z f) = l := by
  simp (disch := omega) only [xtagP_l, xtagP, BitVec.extractLsb'_append_eq_of_le,
    BitVec.extractLsb'_append_eq_of_add_le, Nat.sub_self, Nat.reduceSub, BitVec.extractLsb'_eq_self]

@[simp] theorem xtagP_kind_pack (l kind z f) :
    xtagP_kind (xtagP l kind z f) = kind := by
  simp (disch := omega) only [xtagP_kind, xtagP, BitVec.extractLsb'_append_eq_of_le,
    BitVec.extractLsb'_append_eq_of_add_le, Nat.sub_self, Nat.reduceSub, BitVec.extractLsb'_eq_self]

@[simp] theorem xtagP_z_pack (l kind z f) :
    xtagP_z (xtagP l kind z f) = z := by
  simp (disch := omega) only [xtagP_z, xtagP, BitVec.extractLsb'_append_eq_of_le,
    BitVec.extractLsb'_append_eq_of_add_le, Nat.sub_self, Nat.reduceSub, BitVec.extractLsb'_eq_self]

@[simp] theorem xtagP_f_pack (l kind z f) :
    xtagP_f (xtagP l kind z f) = f := by
  simp (disch := omega) only [xtagP_f, xtagP, BitVec.extractLsb'_append_eq_of_le,
    BitVec.extractLsb'_append_eq_of_add_le, Nat.sub_self, Nat.reduceSub, BitVec.extractLsb'_eq_self]

@[simp] theorem fmtOf_code (x : Fmt) : fmtOf (fmtCode x) = some x := by cases x <;> rfl

@[simp] theorem rndOf_code (x : Rnd) : rndOf (rndCode x) = some x := by cases x <;> rfl

@[simp] theorem satOf_code (x : Sat) : satOf (satCode x) = some x := by cases x <;> rfl

@[simp] theorem divFormOf_code (x : DivForm) : divFormOf (divFormCode x) = some x := by cases x <;> rfl

@[simp] theorem bitFormOf_code (x : BitForm) : bitFormOf (bitFormCode x) = some x := by cases x <;> rfl

@[simp] theorem moviTagOf_code (x : MoviTag) : moviTagOf (moviTagCode x) = some x := by cases x <;> rfl

@[simp] theorem relOf_code (x : Rel) : relOf (relCode x) = some x := by cases x <;> rfl

@[simp] theorem plogOpOf_code (x : PlogOp) : plogOpOf (plogOpCode x) = some x := by cases x <;> rfl

@[simp] theorem fopFormOf_code (x : FopForm) : fopFormOf (fopFormCode x) = some x := by cases x <;> rfl

@[simp] theorem fmaFormOf_code (x : FmaForm) : fmaFormOf (fmaFormCode x) = some x := by cases x <;> rfl

@[simp] theorem fRelOf_code (x : FRel) : fRelOf (fRelCode x) = some x := by cases x <;> rfl

@[simp] theorem cvtFormOf_code (x : CvtForm) : cvtFormOf (cvtFormCode x) = some x := by cases x <;> rfl

@[simp] theorem spaceOf_code (x : Space) : spaceOf (spaceCode x) = some x := by cases x <;> rfl

@[simp] theorem vWidthOf_code (x : VWidth) : vWidthOf (vWidthCode x) = some x := by cases x <;> rfl

@[simp] theorem unFormOf_code (x : UnForm) : unFormOf (unFormCode x) = some x := by cases x <;> rfl

@[simp] theorem sfFormOf_code (x : SfForm) : sfFormOf (sfFormCode x) = some x := by cases x <;> rfl

@[simp] theorem vRelOf_code (x : VRel) : vRelOf (vRelCode x) = some x := by cases x <;> rfl

@[simp] theorem shrFormOf_code (x : ShrForm) : shrFormOf (shrFormCode x) = some x := by cases x <;> rfl

@[simp] theorem mulFormOf_code (x : MulForm) : mulFormOf (mulFormCode x) = some x := by cases x <;> rfl

@[simp] theorem mmFormOf_code (x : MmForm) : mmFormOf (mmFormCode x) = some x := by cases x <;> rfl

@[simp] theorem mskFormOf_code (x : MskForm) : mskFormOf (mskFormCode x) = some x := by cases x <;> rfl

@[simp] theorem amoFormOf_code (x : AmoForm) : amoFormOf (amoFormCode x) = some x := by cases x <;> rfl

@[simp] theorem sizeOf_code (x : Size) : sizeOf (sizeCode x) = some x := by cases x <;> rfl

@[simp] theorem swzOf_code (x : Swz) : swzOf (swzCode x) = some x := by cases x <;> rfl

@[simp] theorem sweepOpOf_code (x : SweepOp) : sweepOpOf (sweepOpCode x) = some x := by cases x <;> rfl

@[simp] theorem sideOf_code (x : Side) : sideOf (sideCode x) = some x := by cases x <;> rfl

@[simp] theorem redOpOf_code (x : RedOp) : redOpOf (redOpCode x) = some x := by cases x <;> rfl

@[simp] theorem twoOf_code4 (b : Bool) : twoOf (twoCode 4 b) = some b := by cases b <;> rfl
@[simp] theorem twoOf_code5 (b : Bool) : twoOf (twoCode 5 b) = some b := by cases b <;> rfl
@[simp] theorem twoOf_code12 (b : Bool) : twoOf (twoCode 12 b) = some b := by cases b <;> rfl
@[simp] theorem accFmtOf_code (b : Bool) : accFmtOf (accFmtCode b) = some b := by cases b <;> rfl
@[simp] theorem amoSizeOf_code (b : Bool) : amoSizeOf (amoSizeCode b) = some b := by cases b <;> rfl
@[simp] theorem gmSizeOf_code (z : Size) : gmSizeOf (gmSizeCode z) = some z := by cases z <;> rfl
@[simp] theorem tgtOf_code (f : Fmt) : tgtOf (tgtCode f) = some f := by cases f <;> rfl
@[simp] theorem shufOf_code (f : ShufForm) : shufOf (shufFn f) (shufX5 f) = some f := by
  cases f with
  | bitrev => rfl
  | ilv h => cases h <;> rfl
  | dilv => rfl
  | rotl r => rfl
@[simp] theorem xOf_ofX (x : Option Fmt) : xOf (ofX x) = x := by cases x <;> rfl
@[simp] theorem mOf_ofM (m : Option Mod) : mOf (ofM m) = m := by cases m <;> rfl
@[simp] theorem maskOf_code (m : Mask) : maskOf (mmCode m) (vmCode m) = some m := by cases m <;> rfl
@[simp] theorem rangeOf_code (r : VRange) : rangeOf (vWidthCode r.w) r.part = some r := by
  simp only [rangeOf, vWidthOf_code, Option.map_some]
@[simp] theorem vctlOf_vecBody (v : VCtl) (fn : BitVec 4) : vctlOf (vecBody v fn) = some v := by
  simp only [vctlOf, vecBody, va1_w_pack, va1_part_pack, va1_mm_pack, va1_vm_pack, rangeOf_code, maskOf_code,
    Option.bind_some, Option.map_some]
@[simp] theorem va1_fn_vecBody (v : VCtl) (fn : BitVec 4) : va1_fn (vecBody v fn) = fn := by
  simp only [vecBody, va1_fn_pack]
@[simp] theorem vrangeOf_vecBodyR (r : VRange) (fn : BitVec 4) : vrangeOf (vecBodyR r fn) = some r := by
  simp [vrangeOf, vecBodyR]
@[simp] theorem va1_fn_vecBodyR (r : VRange) (fn : BitVec 4) : va1_fn (vecBodyR r fn) = fn := by
  simp only [vecBodyR, va1_fn_pack]
@[simp] theorem scalarIn_field (d : R5) : scalarIn (scalarField d) = some d := by
  have h : (scalarField d).extractLsb' 5 4 = 0#4 := by
    simp (disch := omega) only [scalarField, BitVec.extractLsb'_append_eq_of_le,
    BitVec.extractLsb'_append_eq_of_add_le, Nat.sub_self, Nat.reduceSub, BitVec.extractLsb'_eq_self]
  have k : (scalarField d).extractLsb' 0 5 = d := by
    simp (disch := omega) only [scalarField, BitVec.extractLsb'_append_eq_of_le,
    BitVec.extractLsb'_append_eq_of_add_le, Nat.sub_self, Nat.reduceSub, BitVec.extractLsb'_eq_self]
  simp only [scalarIn, h, k, beq_self_eq_true, if_true]
@[simp] theorem byteIn_field (k : Byte) : byteIn (byteField k) = some k := by
  have h : (byteField k).extractLsb' 8 1 = 0#1 := by
    simp (disch := omega) only [byteField, BitVec.extractLsb'_append_eq_of_le,
    BitVec.extractLsb'_append_eq_of_add_le, Nat.sub_self, Nat.reduceSub, BitVec.extractLsb'_eq_self]
  have j : (byteField k).extractLsb' 0 8 = k := by
    simp (disch := omega) only [byteField, BitVec.extractLsb'_append_eq_of_le,
    BitVec.extractLsb'_append_eq_of_add_le, Nat.sub_self, Nat.reduceSub, BitVec.extractLsb'_eq_self]
  simp only [byteIn, h, j, beq_self_eq_true, if_true]
@[simp] theorem rows6_field (k : BitVec 6) : rows6 (rows6Field k) = some k := by
  have h : (rows6Field k).extractLsb' 6 2 = 0#2 := by
    simp (disch := omega) only [rows6Field, BitVec.extractLsb'_append_eq_of_le,
    BitVec.extractLsb'_append_eq_of_add_le, Nat.sub_self, Nat.reduceSub, BitVec.extractLsb'_eq_self]
  have j : (rows6Field k).extractLsb' 0 6 = k := by
    simp (disch := omega) only [rows6Field, BitVec.extractLsb'_append_eq_of_le,
    BitVec.extractLsb'_append_eq_of_add_le, Nat.sub_self, Nat.reduceSub, BitVec.extractLsb'_eq_self]
  simp only [rows6, h, j, beq_self_eq_true, if_true]
@[simp] theorem rows5_field (k : R5) : rows5 (rows5Field k) = some k := by
  have h : (rows5Field k).extractLsb' 5 3 = 0#3 := by
    simp (disch := omega) only [rows5Field, BitVec.extractLsb'_append_eq_of_le,
    BitVec.extractLsb'_append_eq_of_add_le, Nat.sub_self, Nat.reduceSub, BitVec.extractLsb'_eq_self]
  have j : (rows5Field k).extractLsb' 0 5 = k := by
    simp (disch := omega) only [rows5Field, BitVec.extractLsb'_append_eq_of_le,
    BitVec.extractLsb'_append_eq_of_add_le, Nat.sub_self, Nat.reduceSub, BitVec.extractLsb'_eq_self]
  simp only [rows5, h, j, beq_self_eq_true, if_true]
@[simp] theorem modP_kind_xtagP (l : BitVec 2) (k : BitVec 4) (z : BitVec 22) (f : BitVec 4) :
    modP_kind (xtagP l k z f) = k := by
  simp (disch := omega) only [modP_kind, xtagP, BitVec.extractLsb'_append_eq_of_le,
    BitVec.extractLsb'_append_eq_of_add_le, Nat.sub_self, Nat.reduceSub, BitVec.extractLsb'_eq_self]
@[simp] theorem prefixOfWord_word (x : Prefix) : prefixOfWord (prefixWord x) = some x := by
  cases x with
  | none => rfl
  | mod m => simp [prefixWord, prefixOfWord]
  | xtag f => simp [prefixWord, prefixOfWord]
@[simp] theorem gmFlags_pack (dl : BitVec 16) (fl : Flags) (sz : Byte) :
    gmFlags (gm2 dl fl.scope (oneBit fl.acq) (oneBit fl.rel) sz) = fl := by simp [gmFlags]
@[simp] theorem ecFlags_pack (fl : Flags) (c : Byte) (z s : BitVec 1) (k : BitVec 2) (f : BitVec 12) :
    ecFlags (ec2 fl.scope (oneBit fl.acq) (oneBit fl.rel) c z s k f) = fl := by simp [ecFlags]
@[simp] theorem followOf_word (f : Follow) : followOf (followWord f) = some f := by
  obtain ⟨g, s, acc, nk, fa, fb⟩ := f
  cases s <;> simp [followOf, followWord]

/-! ## One field read through the name another class has for it -/

@[simp] theorem sa3_fn_cmpW (t pd a b fn) : sa3_fn (cmpW t pd a b fn) = fn := cmpW_fn_pack t pd a b fn
@[simp] theorem sa3_b_cmpW (t pd a b fn) : sa3_b (cmpW t pd a b fn) = a := cmpW_a_pack t pd a b fn
@[simp] theorem sa3_c_cmpW (t pd a b fn) : sa3_c (cmpW t pd a b fn) = b := cmpW_b_pack t pd a b fn
@[simp] theorem sa3_fn_plogW (t pd na pa nb pb fn) : sa3_fn (plogW t pd na pa nb pb fn) = fn :=
  plogW_fn_pack t pd na pa nb pb fn
@[simp] theorem sa3_b_pbrxW (z b a sb fn) : sa3_b (pbrxW z b a sb fn) = a := pbrxW_a_pack z b a sb fn
@[simp] theorem sa3_c_pbrxW (z b a sb fn) : sa3_c (pbrxW z b a sb fn) = sb := pbrxW_sb_pack z b a sb fn
@[simp] theorem sa3_fn_pbrxW (z b a sb fn) : sa3_fn (pbrxW z b a sb fn) = fn := pbrxW_fn_pack z b a sb fn
@[simp] theorem sa3_a_brdecW (d z b sb fn) : sa3_a (brdecW d z b sb fn) = d := brdecW_d_pack d z b sb fn
@[simp] theorem sa3_c_brdecW (d z b sb fn) : sa3_c (brdecW d z b sb fn) = sb := brdecW_sb_pack d z b sb fn
@[simp] theorem sa3_fn_brdecW (d z b sb fn) : sa3_fn (brdecW d z b sb fn) = fn := brdecW_fn_pack d z b sb fn
@[simp] theorem sa3_a_chkPW (d z pa y pb fn) : sa3_a (chkPW d z pa y pb fn) = d := chkPW_d_pack d z pa y pb fn
@[simp] theorem sa3_fn_chkPW (d z pa y pb fn) : sa3_fn (chkPW d z pa y pb fn) = fn := chkPW_fn_pack d z pa y pb fn
@[simp] theorem sa3_c_chkVW (h z l b fn) : sa3_c (chkVW h z l b fn) = b := chkVW_b_pack h z l b fn
@[simp] theorem sa3_fn_chkVW (h z l b fn) : sa3_fn (chkVW h z l b fn) = fn := chkVW_fn_pack h z l b fn
@[simp] theorem sa3_a_chkBW (d z ba y bb fn) : sa3_a (chkBW d z ba y bb fn) = d := chkBW_d_pack d z ba y bb fn
@[simp] theorem sa3_fn_chkBW (d z ba y bb fn) : sa3_fn (chkBW d z ba y bb fn) = fn := chkBW_fn_pack d z ba y bb fn
@[simp] theorem sa3_a_ms1 (d a z off) : sa3_a (ms1 d a z off) = d := ms1_d_pack d a z off
@[simp] theorem sa3_b_ms1 (d a z off) : sa3_b (ms1 d a z off) = a := ms1_a_pack d a z off

@[simp] theorem top_of_four (a : BitVec 1) (b : BitVec 3) : (a ++ b).extractLsb' 3 1 = a := by
  simp (disch := omega) only [BitVec.extractLsb'_append_eq_of_le, Nat.sub_self, BitVec.extractLsb'_eq_self]
@[simp] theorem rest_of_four (a : BitVec 1) (b : BitVec 3) : (a ++ b).extractLsb' 0 3 = b := by
  simp (disch := omega) only [BitVec.extractLsb'_append_eq_of_add_le, BitVec.extractLsb'_eq_self]
@[simp] theorem top_of_twelve (a : BitVec 10) (b : BitVec 2) : (a ++ b).extractLsb' 2 10 = a := by
  simp (disch := omega) only [BitVec.extractLsb'_append_eq_of_le, Nat.sub_self, BitVec.extractLsb'_eq_self]
@[simp] theorem rest_of_twelve (a : BitVec 10) (b : BitVec 2) : (a ++ b).extractLsb' 0 2 = b := by
  simp (disch := omega) only [BitVec.extractLsb'_append_eq_of_add_le, BitVec.extractLsb'_eq_self]
theorem halves_of_nine (v : BitVec 9) : v.extractLsb' 4 5 ++ v.extractLsb' 0 4 = v := by
  ext i hi; simp only [BitVec.getElem_append, BitVec.getElem_extractLsb']; split <;> rw [← BitVec.getLsbD_eq_getElem] <;> (congr 1 <;> omega)
theorem halves_of_word (v : BitVec 64) : v.extractLsb' 32 32 ++ v.extractLsb' 0 32 = v := by
  ext i hi; simp only [BitVec.getElem_append, BitVec.getElem_extractLsb']; split <;> rw [← BitVec.getLsbD_eq_getElem] <;> (congr 1 <;> omega)
@[simp] theorem sweepOpOf_zero : sweepOpOf 0#4 = some .fadd := rfl

end Dec
end Sys2Proof
end

