-- ==== Sys2Proof/Laws/PerInstr.lean ====
section
/-! SUPPORT. The family RoundTrip: a well-formed instruction, laid out by the encoder, is read back from its slot (R278 to
R295); one lemma for each instruction. -/

set_option linter.unusedSimpArgs false

namespace Sys2Proof.Laws.RoundTrip

/-- R278 to R295: the slot of a well-formed instruction, read by its prefix and its words, gives the instruction back. An
event has no slot, so this says nothing of it. -/
def Statement (i : Instr) : Prop :=
  i.wf = true → ∀ s, i.slot = some s →
    Dec.slotInstr .task s (Dec.prefixWord i.pre) (i.words.getD 0 0) (i.words.getD 1 0) (i.words.getD 2 0) = .ok i

theorem kind_ofX (r : Dec.OpRow) (x : Option Fmt) (h : r.x = true) : Dec.kindOk r (Dec.prefixWord (Dec.ofX x)) = true := by
  cases x <;> simp [Dec.kindOk, Dec.ofX, Dec.prefixWord, h]
theorem kind_ofM (r : Dec.OpRow) (x : Option Mod) (h : r.m = true) : Dec.kindOk r (Dec.prefixWord (Dec.ofM x)) = true := by
  cases x <;> simp [Dec.kindOk, Dec.ofM, Dec.prefixWord, h]
theorem kind_mx (r : Dec.OpRow) (x : Prefix) (h : r.m = true) (h' : r.x = true) :
    Dec.kindOk r (Dec.prefixWord x) = true := by cases x <;> simp [Dec.kindOk, Dec.prefixWord, h, h']
theorem amoCode_ne (f : AmoForm) : Dec.amoFormCode f ≠ 10#4 := by cases f <;> decide

theorem no_slot {s : Slot} {p : Prop} (h : none = some s) : p := nomatch h

/-- What a slot takes: a row of its map, a length and a prefix the row allows, and fields that give the instruction. -/
theorem slotInstr_head {c s l op g b pre w2 w3 r x i} (hr : Dec.opRow c s op.toNat b = some r)
    (hl : Dec.lenOk s r op.toNat l.toNat b = true) (hk : Dec.kindOk r pre = true) (hx : Dec.prefixOfWord pre = some x)
    (hf : Dec.fields c s op.toNat l.toNat g x b w2 w3 = some i) (hw : i.wf = true) :
    Dec.slotInstr c s pre (Dec.head l op g b) w2 w3 = .ok i := by
  simp [Dec.slotInstr, hr, hl, hk, hx, hf, hw]

end Sys2Proof.Laws.RoundTrip

open Sys2Proof Sys2Proof.Dec Sys2Proof.Laws.RoundTrip

theorem Sys2Proof.Laws.RoundTrip.nop (g) : Statement (.nop g) := by
  intro h s hs
  obtain rfl : Slot.sc = s := Option.some.inj hs
  refine slotInstr_head (s := .sc) (l := 0#2) (x := .none) (w2 := 0#32) (w3 := 0#32)
    rfl rfl rfl rfl ?_ h
  simp [fields, fieldsSC, ck]
theorem Sys2Proof.Laws.RoundTrip.add (g a1 d a b) : Statement (.add g a1 d a b) := by
  intro h s hs
  obtain rfl : Slot.sc = s := Option.some.inj hs
  refine slotInstr_head (s := .sc) (l := 0#2) (x := ofX a1) (w2 := 0#32) (w3 := 0#32)
    rfl rfl (kind_ofX _ _ rfl) (prefixOfWord_word _) ?_ h
  change ck _ _ = _; simp [ck]
theorem Sys2Proof.Laws.RoundTrip.sub (g a1 d a b) : Statement (.sub g a1 d a b) := by
  intro h s hs
  obtain rfl : Slot.sc = s := Option.some.inj hs
  refine slotInstr_head (s := .sc) (l := 0#2) (x := ofX a1) (w2 := 0#32) (w3 := 0#32)
    rfl rfl (kind_ofX _ _ rfl) (prefixOfWord_word _) ?_ h
  change ck _ _ = _; simp [ck]
theorem Sys2Proof.Laws.RoundTrip.addi (g a1 d a imm) : Statement (.addi g a1 d a imm) := by
  intro h s hs
  obtain rfl : Slot.sc = s := Option.some.inj hs
  refine slotInstr_head (s := .sc) (l := 0#2) (x := ofX a1) (w2 := 0#32) (w3 := 0#32)
    rfl rfl (kind_ofX _ _ rfl) (prefixOfWord_word _) ?_ h
  change some _ = some _; simp
theorem Sys2Proof.Laws.RoundTrip.addiLong (g a1 d a imm) : Statement (.addiLong g a1 d a imm) := by
  intro h s hs
  obtain rfl : Slot.sc = s := Option.some.inj hs
  refine slotInstr_head (s := .sc) (l := 1#2) (x := ofX a1) (w2 := imm) (w3 := 0#32)
    rfl rfl (kind_ofX _ _ rfl) (prefixOfWord_word _) ?_ h
  change ck _ _ = _; simp [ck]
theorem Sys2Proof.Laws.RoundTrip.mul (g a1 d a b) : Statement (.mul g a1 d a b) := by
  intro h s hs
  obtain rfl : Slot.sc = s := Option.some.inj hs
  refine slotInstr_head (s := .sc) (l := 0#2) (x := ofX a1) (w2 := 0#32) (w3 := 0#32)
    rfl rfl (kind_ofX _ _ rfl) (prefixOfWord_word _) ?_ h
  change ck _ _ = _; simp [ck]
theorem Sys2Proof.Laws.RoundTrip.mulh (g a1 u d a b) : Statement (.mulh g a1 u d a b) := by
  intro h s hs
  obtain rfl : Slot.sc = s := Option.some.inj hs
  refine slotInstr_head (s := .sc) (l := 0#2) (x := ofX a1) (w2 := 0#32) (w3 := 0#32)
    rfl rfl (kind_ofX _ _ rfl) (prefixOfWord_word _) ?_ h
  change Option.map _ _ = _; simp
theorem Sys2Proof.Laws.RoundTrip.div (g a1 f d a b) : Statement (.div g a1 f d a b) := by
  intro h s hs
  obtain rfl : Slot.sc = s := Option.some.inj hs
  refine slotInstr_head (s := .sc) (l := 0#2) (x := ofX a1) (w2 := 0#32) (w3 := 0#32)
    rfl rfl (kind_ofX _ _ rfl) (prefixOfWord_word _) ?_ h
  change Option.map _ _ = _; simp
theorem Sys2Proof.Laws.RoundTrip.and (g a1 d a b) : Statement (.and g a1 d a b) := by
  intro h s hs
  obtain rfl : Slot.sc = s := Option.some.inj hs
  refine slotInstr_head (s := .sc) (l := 0#2) (x := ofX a1) (w2 := 0#32) (w3 := 0#32)
    rfl rfl (kind_ofX _ _ rfl) (prefixOfWord_word _) ?_ h
  change ck _ _ = _; simp [ck]
theorem Sys2Proof.Laws.RoundTrip.or (g a1 d a b) : Statement (.or g a1 d a b) := by
  intro h s hs
  obtain rfl : Slot.sc = s := Option.some.inj hs
  refine slotInstr_head (s := .sc) (l := 0#2) (x := ofX a1) (w2 := 0#32) (w3 := 0#32)
    rfl rfl (kind_ofX _ _ rfl) (prefixOfWord_word _) ?_ h
  change ck _ _ = _; simp [ck]
theorem Sys2Proof.Laws.RoundTrip.xor (g a1 d a b) : Statement (.xor g a1 d a b) := by
  intro h s hs
  obtain rfl : Slot.sc = s := Option.some.inj hs
  refine slotInstr_head (s := .sc) (l := 0#2) (x := ofX a1) (w2 := 0#32) (w3 := 0#32)
    rfl rfl (kind_ofX _ _ rfl) (prefixOfWord_word _) ?_ h
  change ck _ _ = _; simp [ck]
theorem Sys2Proof.Laws.RoundTrip.andn (g a1 d a b) : Statement (.andn g a1 d a b) := by
  intro h s hs
  obtain rfl : Slot.sc = s := Option.some.inj hs
  refine slotInstr_head (s := .sc) (l := 0#2) (x := ofX a1) (w2 := 0#32) (w3 := 0#32)
    rfl rfl (kind_ofX _ _ rfl) (prefixOfWord_word _) ?_ h
  change ck _ _ = _; simp [ck]
theorem Sys2Proof.Laws.RoundTrip.shl (g a1 d a b) : Statement (.shl g a1 d a b) := by
  intro h s hs
  obtain rfl : Slot.sc = s := Option.some.inj hs
  refine slotInstr_head (s := .sc) (l := 0#2) (x := ofX a1) (w2 := 0#32) (w3 := 0#32)
    rfl rfl (kind_ofX _ _ rfl) (prefixOfWord_word _) ?_ h
  change ck _ _ = _; simp [ck]
theorem Sys2Proof.Laws.RoundTrip.shr (g a1 d a b) : Statement (.shr g a1 d a b) := by
  intro h s hs
  obtain rfl : Slot.sc = s := Option.some.inj hs
  refine slotInstr_head (s := .sc) (l := 0#2) (x := ofX a1) (w2 := 0#32) (w3 := 0#32)
    rfl rfl (kind_ofX _ _ rfl) (prefixOfWord_word _) ?_ h
  change ck _ _ = _; simp [ck]
theorem Sys2Proof.Laws.RoundTrip.sra (g a1 d a b) : Statement (.sra g a1 d a b) := by
  intro h s hs
  obtain rfl : Slot.sc = s := Option.some.inj hs
  refine slotInstr_head (s := .sc) (l := 0#2) (x := ofX a1) (w2 := 0#32) (w3 := 0#32)
    rfl rfl (kind_ofX _ _ rfl) (prefixOfWord_word _) ?_ h
  change ck _ _ = _; simp [ck]
theorem Sys2Proof.Laws.RoundTrip.rot (g a1 u d a b) : Statement (.rot g a1 u d a b) := by
  intro h s hs
  obtain rfl : Slot.sc = s := Option.some.inj hs
  refine slotInstr_head (s := .sc) (l := 0#2) (x := ofX a1) (w2 := 0#32) (w3 := 0#32)
    rfl rfl (kind_ofX _ _ rfl) (prefixOfWord_word _) ?_ h
  change Option.map _ _ = _; simp
theorem Sys2Proof.Laws.RoundTrip.min (g a1 u d a b) : Statement (.min g a1 u d a b) := by
  intro h s hs
  obtain rfl : Slot.sc = s := Option.some.inj hs
  refine slotInstr_head (s := .sc) (l := 0#2) (x := ofX a1) (w2 := 0#32) (w3 := 0#32)
    rfl rfl (kind_ofX _ _ rfl) (prefixOfWord_word _) ?_ h
  change Option.map _ _ = _; simp
theorem Sys2Proof.Laws.RoundTrip.max (g a1 u d a b) : Statement (.max g a1 u d a b) := by
  intro h s hs
  obtain rfl : Slot.sc = s := Option.some.inj hs
  refine slotInstr_head (s := .sc) (l := 0#2) (x := ofX a1) (w2 := 0#32) (w3 := 0#32)
    rfl rfl (kind_ofX _ _ rfl) (prefixOfWord_word _) ?_ h
  change Option.map _ _ = _; simp
theorem Sys2Proof.Laws.RoundTrip.bit (g a1 f d a) : Statement (.bit g a1 f d a) := by
  intro h s hs
  obtain rfl : Slot.sc = s := Option.some.inj hs
  refine slotInstr_head (s := .sc) (l := 0#2) (x := ofX a1) (w2 := 0#32) (w3 := 0#32)
    rfl rfl (kind_ofX _ _ rfl) (prefixOfWord_word _) ?_ h
  change Option.bind _ _ = _; simp [ck]
theorem Sys2Proof.Laws.RoundTrip.ext (g a1 d a sx len pos) : Statement (.ext g a1 d a sx len pos) := by
  intro h s hs
  obtain rfl : Slot.sc = s := Option.some.inj hs
  refine slotInstr_head (s := .sc) (l := 1#2) (x := ofX a1) (w2 := fld 0#19 (oneBit sx) len pos) (w3 := 0#32)
    rfl rfl (kind_ofX _ _ rfl) (prefixOfWord_word _) ?_ h
  change ck _ _ = _; simp [ck]
theorem Sys2Proof.Laws.RoundTrip.ins (g a1 d a len pos) : Statement (.ins g a1 d a len pos) := by
  intro h s hs
  obtain rfl : Slot.sc = s := Option.some.inj hs
  refine slotInstr_head (s := .sc) (l := 1#2) (x := ofX a1) (w2 := fld 0#19 0#1 len pos) (w3 := 0#32)
    rfl rfl (kind_ofX _ _ rfl) (prefixOfWord_word _) ?_ h
  change ck _ _ = _; simp [ck]
theorem Sys2Proof.Laws.RoundTrip.sel (g d a b) : Statement (.sel g d a b) := by
  intro h s hs
  obtain rfl : Slot.sc = s := Option.some.inj hs
  refine slotInstr_head (s := .sc) (l := 0#2) (x := .none) (w2 := 0#32) (w3 := 0#32)
    rfl rfl rfl rfl ?_ h
  change ck _ _ = _; simp [ck]
theorem Sys2Proof.Laws.RoundTrip.mov (g d a) : Statement (.mov g d a) := by
  intro h s hs
  obtain rfl : Slot.sc = s := Option.some.inj hs
  refine slotInstr_head (s := .sc) (l := 0#2) (x := .none) (w2 := 0#32) (w3 := 0#32)
    rfl rfl rfl rfl ?_ h
  change ck _ _ = _; simp [ck]
theorem Sys2Proof.Laws.RoundTrip.movi (g d imm) : Statement (.movi g d imm) := by
  intro h s hs
  obtain rfl : Slot.sc = s := Option.some.inj hs
  refine slotInstr_head (s := .sc) (l := 0#2) (x := .none) (w2 := 0#32) (w3 := 0#32)
    rfl rfl rfl rfl ?_ h
  change some _ = _; simp
theorem Sys2Proof.Laws.RoundTrip.moviLong (g t d imm) : Statement (.moviLong g t d imm) := by
  intro h s hs
  obtain rfl : Slot.sc = s := Option.some.inj hs
  refine slotInstr_head (s := .sc) (l := 1#2) (x := .none) (w2 := imm) (w3 := 0#32)
    rfl rfl rfl rfl ?_ h
  change Option.bind _ _ = _; simp [ck]
theorem Sys2Proof.Laws.RoundTrip.moviWide (g raw d imm) : Statement (.moviWide g raw d imm) := by
  intro h s hs
  obtain rfl : Slot.sc = s := Option.some.inj hs
  refine slotInstr_head (s := .sc) (l := 2#2) (x := .none) (w2 := imm.extractLsb' 32 32) (w3 := imm.extractLsb' 0 32)
    rfl rfl rfl rfl ?_ h
  cases raw <;> (change ite _ _ _ = _; simp [ck, halves_of_word])
theorem Sys2Proof.Laws.RoundTrip.lea (g a1 d imm) : Statement (.lea g a1 d imm) := by
  intro h s hs
  obtain rfl : Slot.sc = s := Option.some.inj hs
  refine slotInstr_head (s := .sc) (l := 0#2) (x := ofX a1) (w2 := 0#32) (w3 := 0#32)
    rfl rfl (kind_ofX _ _ rfl) (prefixOfWord_word _) ?_ h
  change ck _ _ = _; simp [ck]
theorem Sys2Proof.Laws.RoundTrip.leaLong (g a1 d a imm) : Statement (.leaLong g a1 d a imm) := by
  intro h s hs
  obtain rfl : Slot.sc = s := Option.some.inj hs
  refine slotInstr_head (s := .sc) (l := 1#2) (x := ofX a1) (w2 := imm) (w3 := 0#32)
    rfl rfl (kind_ofX _ _ rfl) (prefixOfWord_word _) ?_ h
  change ck _ _ = _; simp [ck]
theorem Sys2Proof.Laws.RoundTrip.cmp (g a1 r pd a b) : Statement (.cmp g a1 r pd a b) := by
  intro h s hs
  obtain rfl : Slot.sc = s := Option.some.inj hs
  refine slotInstr_head (s := .sc) (l := 0#2) (x := ofX a1) (w2 := 0#32) (w3 := 0#32)
    rfl rfl (kind_ofX _ _ rfl) (prefixOfWord_word _) ?_ h
  change Option.bind _ _ = _; simp [ck]
theorem Sys2Proof.Laws.RoundTrip.cmpi (g a1 lt pd a imm) : Statement (.cmpi g a1 lt pd a imm) := by
  intro h s hs
  obtain rfl : Slot.sc = s := Option.some.inj hs
  refine slotInstr_head (s := .sc) (l := 0#2) (x := ofX a1) (w2 := 0#32) (w3 := 0#32)
    rfl rfl (kind_ofX _ _ rfl) (prefixOfWord_word _) ?_ h
  change some _ = some _; simp
theorem Sys2Proof.Laws.RoundTrip.cmpiLong (g a1 r pd a imm) : Statement (.cmpiLong g a1 r pd a imm) := by
  intro h s hs
  obtain rfl : Slot.sc = s := Option.some.inj hs
  refine slotInstr_head (s := .sc) (l := 1#2) (x := ofX a1) (w2 := imm) (w3 := 0#32)
    rfl rfl (kind_ofX _ _ rfl) (prefixOfWord_word _) ?_ h
  change Option.bind _ _ = _; simp [ck]
theorem Sys2Proof.Laws.RoundTrip.plog (g op pd na pa nb pb) : Statement (.plog g op pd na pa nb pb) := by
  intro h s hs
  obtain rfl : Slot.sc = s := Option.some.inj hs
  refine slotInstr_head (s := .sc) (l := 0#2) (x := .none) (w2 := 0#32) (w3 := 0#32)
    rfl rfl rfl rfl ?_ h
  change Option.bind _ _ = _; simp [ck]
theorem Sys2Proof.Laws.RoundTrip.fop (g a1 f d a b) : Statement (.fop g a1 f d a b) := by
  intro h s hs
  obtain rfl : Slot.sc = s := Option.some.inj hs
  refine slotInstr_head (s := .sc) (l := 0#2) (x := a1) (w2 := 0#32) (w3 := 0#32)
    rfl rfl (kind_mx _ _ rfl rfl) (prefixOfWord_word _) ?_ h
  change Option.map _ _ = _; simp
theorem Sys2Proof.Laws.RoundTrip.fma (g a1 f d a b) : Statement (.fma g a1 f d a b) := by
  intro h s hs
  obtain rfl : Slot.sc = s := Option.some.inj hs
  refine slotInstr_head (s := .sc) (l := 0#2) (x := a1) (w2 := 0#32) (w3 := 0#32)
    rfl rfl (kind_mx _ _ rfl rfl) (prefixOfWord_word _) ?_ h
  change Option.map _ _ = _; simp
theorem Sys2Proof.Laws.RoundTrip.fcmp (g a1 r pd a b) : Statement (.fcmp g a1 r pd a b) := by
  intro h s hs
  obtain rfl : Slot.sc = s := Option.some.inj hs
  refine slotInstr_head (s := .sc) (l := 0#2) (x := a1) (w2 := 0#32) (w3 := 0#32)
    rfl rfl (kind_mx _ _ rfl rfl) (prefixOfWord_word _) ?_ h
  change Option.bind _ _ = _; simp [ck]
theorem Sys2Proof.Laws.RoundTrip.fcvt (g a1 f d a) : Statement (.fcvt g a1 f d a) := by
  intro h s hs
  obtain rfl : Slot.sc = s := Option.some.inj hs
  refine slotInstr_head (s := .sc) (l := 0#2) (x := a1) (w2 := 0#32) (w3 := 0#32)
    rfl rfl (kind_mx _ _ rfl rfl) (prefixOfWord_word _) ?_ h
  change Option.bind _ _ = _; simp [ck]
theorem Sys2Proof.Laws.RoundTrip.rdc (g l d) : Statement (.rdc g l d) := by
  intro h s hs
  obtain rfl : Slot.sc = s := Option.some.inj hs
  refine slotInstr_head (s := .sc) (l := 0#2) (x := .none) (w2 := 0#32) (w3 := 0#32)
    rfl rfl rfl rfl ?_ h
  change Option.bind _ _ = _; simp [ck]
theorem Sys2Proof.Laws.RoundTrip.rdw (g d level) : Statement (.rdw g d level) := by
  intro h s hs
  obtain rfl : Slot.sc = s := Option.some.inj hs
  refine slotInstr_head (s := .sc) (l := 0#2) (x := .none) (w2 := 0#32) (w3 := 0#32)
    rfl rfl rfl rfl ?_ h
  change ck _ _ = _; simp [ck]
theorem Sys2Proof.Laws.RoundTrip.rds (g d num) : Statement (.rds g d num) := by
  intro h s hs
  obtain rfl : Slot.sc = s := Option.some.inj hs
  refine slotInstr_head (s := .sc) (l := 1#2) (x := .none) (w2 := num) (w3 := 0#32)
    rfl rfl rfl rfl ?_ h
  change ck _ _ = _; simp [ck, specialIn]
theorem Sys2Proof.Laws.RoundTrip.wrs (g num a) : Statement (.wrs g num a) := by
  intro h s hs
  obtain rfl : Slot.sc = s := Option.some.inj hs
  refine slotInstr_head (s := .sc) (l := 1#2) (x := .none) (w2 := num) (w3 := 0#32)
    rfl rfl rfl rfl ?_ h
  change ck _ _ = _; simp [ck, specialIn]
theorem Sys2Proof.Laws.RoundTrip.pbr (g b imm) : Statement (.pbr g b imm) := by
  intro h s hs
  obtain rfl : Slot.sy = s := Option.some.inj hs
  refine slotInstr_head (s := .sy) (l := 0#2) (x := .none) (w2 := 0#32) (w3 := 0#32)
    rfl rfl rfl rfl ?_ h
  change some _ = some _; simp
theorem Sys2Proof.Laws.RoundTrip.pbrx (g b a) : Statement (.pbrx g b a) := by
  intro h s hs
  obtain rfl : Slot.sy = s := Option.some.inj hs
  refine slotInstr_head (s := .sy) (l := 0#2) (x := .none) (w2 := 0#32) (w3 := 0#32)
    rfl rfl rfl rfl ?_ h
  change ck _ _ = _; simp [ck]
theorem Sys2Proof.Laws.RoundTrip.br (g b) : Statement (.br g b) := by
  intro h s hs
  obtain rfl : Slot.sy = s := Option.some.inj hs
  refine slotInstr_head (s := .sy) (l := 0#2) (x := .none) (w2 := 0#32) (w3 := 0#32)
    rfl rfl rfl rfl ?_ h
  change ck _ _ = _; simp [ck]
theorem Sys2Proof.Laws.RoundTrip.call (g b) : Statement (.call g b) := by
  intro h s hs
  obtain rfl : Slot.sy = s := Option.some.inj hs
  refine slotInstr_head (s := .sy) (l := 0#2) (x := .none) (w2 := 0#32) (w3 := 0#32)
    rfl rfl rfl rfl ?_ h
  change ck _ _ = _; simp [ck]
theorem Sys2Proof.Laws.RoundTrip.ret (g b) : Statement (.ret g b) := by
  intro h s hs
  obtain rfl : Slot.sy = s := Option.some.inj hs
  refine slotInstr_head (s := .sy) (l := 0#2) (x := .none) (w2 := 0#32) (w3 := 0#32)
    rfl rfl rfl rfl ?_ h
  change ck _ _ = _; simp [ck]
theorem Sys2Proof.Laws.RoundTrip.brdec (g d b) : Statement (.brdec g d b) := by
  intro h s hs
  obtain rfl : Slot.sy = s := Option.some.inj hs
  refine slotInstr_head (s := .sy) (l := 0#2) (x := .none) (w2 := 0#32) (w3 := 0#32)
    rfl rfl rfl rfl ?_ h
  change ck _ _ = _; simp [ck]
theorem Sys2Proof.Laws.RoundTrip.waitc (g a) : Statement (.waitc g a) := by
  intro h s hs
  obtain rfl : Slot.sy = s := Option.some.inj hs
  refine slotInstr_head (s := .sy) (l := 0#2) (x := .none) (w2 := 0#32) (w3 := 0#32)
    rfl rfl rfl rfl ?_ h
  change ck _ _ = _; simp [ck]
theorem Sys2Proof.Laws.RoundTrip.waitcLong (g a imm) : Statement (.waitcLong g a imm) := by
  intro h s hs
  obtain rfl : Slot.sy = s := Option.some.inj hs
  refine slotInstr_head (s := .sy) (l := 1#2) (x := .none) (w2 := imm) (w3 := 0#32)
    rfl rfl rfl rfl ?_ h
  change ck _ _ = _; simp [ck]
theorem Sys2Proof.Laws.RoundTrip.waitn (g n) : Statement (.waitn g n) := by
  intro h s hs
  obtain rfl : Slot.sy = s := Option.some.inj hs
  refine slotInstr_head (s := .sy) (l := 0#2) (x := .none) (w2 := 0#32) (w3 := 0#32)
    rfl rfl rfl rfl ?_ h
  change ck _ _ = _; simp [ck]
theorem Sys2Proof.Laws.RoundTrip.waitnLong (g n) : Statement (.waitnLong g n) := by
  intro h s hs
  obtain rfl : Slot.sy = s := Option.some.inj hs
  refine slotInstr_head (s := .sy) (l := 1#2) (x := .none) (w2 := n) (w3 := 0#32)
    rfl rfl rfl rfl ?_ h
  change some _ = some _; simp
theorem Sys2Proof.Laws.RoundTrip.bar (g a level off) : Statement (.bar g a level off) := by
  intro h s hs
  obtain rfl : Slot.sy = s := Option.some.inj hs
  refine slotInstr_head (s := .sy) (l := 1#2) (x := .none) (w2 := lvl level off) (w3 := 0#32)
    rfl rfl rfl rfl ?_ h
  change ck _ _ = _; simp [ck]
theorem Sys2Proof.Laws.RoundTrip.chk (g a b) : Statement (.chk g a b) := by
  intro h s hs
  obtain rfl : Slot.sy = s := Option.some.inj hs
  refine slotInstr_head (s := .sy) (l := 0#2) (x := .none) (w2 := 0#32) (w3 := 0#32)
    rfl rfl rfl rfl ?_ h
  change ite _ _ _ = _; simp [ck]
theorem Sys2Proof.Laws.RoundTrip.chkP (g pa pb) : Statement (.chkP g pa pb) := by
  intro h s hs
  obtain rfl : Slot.sy = s := Option.some.inj hs
  refine slotInstr_head (s := .sy) (l := 0#2) (x := .none) (w2 := 0#32) (w3 := 0#32)
    rfl rfl rfl rfl ?_ h
  change ite _ _ _ = _; simp [ck]
theorem Sys2Proof.Laws.RoundTrip.chkV (g v) : Statement (.chkV g v) := by
  intro h s hs
  obtain rfl : Slot.sy = s := Option.some.inj hs
  refine slotInstr_head (s := .sy) (l := 0#2) (x := .none) (w2 := 0#32) (w3 := 0#32)
    rfl rfl rfl rfl ?_ h
  change ite _ _ _ = _; simp [ck, halves_of_nine]
theorem Sys2Proof.Laws.RoundTrip.chkB (g ba bb) : Statement (.chkB g ba bb) := by
  intro h s hs
  obtain rfl : Slot.sy = s := Option.some.inj hs
  refine slotInstr_head (s := .sy) (l := 0#2) (x := .none) (w2 := 0#32) (w3 := 0#32)
    rfl rfl rfl rfl ?_ h
  change ite _ _ _ = _; simp [ck]
theorem Sys2Proof.Laws.RoundTrip.drain (g level n) : Statement (.drain g level n) := by
  intro h s hs
  obtain rfl : Slot.sy = s := Option.some.inj hs
  refine slotInstr_head (s := .sy) (l := 0#2) (x := .none) (w2 := 0#32) (w3 := 0#32)
    rfl rfl rfl rfl ?_ h
  change ck _ _ = _; simp [ck]
theorem Sys2Proof.Laws.RoundTrip.drainLong (g a level off) : Statement (.drainLong g a level off) := by
  intro h s hs
  obtain rfl : Slot.sy = s := Option.some.inj hs
  refine slotInstr_head (s := .sy) (l := 1#2) (x := .none) (w2 := lvl level off) (w3 := 0#32)
    rfl rfl rfl rfl ?_ h
  change ck _ _ = _; simp [ck]
theorem Sys2Proof.Laws.RoundTrip.endTask (g) : Statement (.endTask g) := by
  intro h s hs
  obtain rfl : Slot.sy = s := Option.some.inj hs
  refine slotInstr_head (s := .sy) (l := 0#2) (x := .none) (w2 := 0#32) (w3 := 0#32)
    rfl rfl rfl rfl ?_ h
  change some _ = some _; simp
theorem Sys2Proof.Laws.RoundTrip.trap (g n) : Statement (.trap g n) := by
  intro h s hs
  obtain rfl : Slot.sy = s := Option.some.inj hs
  refine slotInstr_head (s := .sy) (l := 0#2) (x := .none) (w2 := 0#32) (w3 := 0#32)
    rfl rfl rfl rfl ?_ h
  change ck _ _ = _; simp [ck]
theorem Sys2Proof.Laws.RoundTrip.sysc (g n) : Statement (.sysc g n) := by
  intro h s hs
  obtain rfl : Slot.sy = s := Option.some.inj hs
  refine slotInstr_head (s := .sy) (l := 0#2) (x := .none) (w2 := 0#32) (w3 := 0#32)
    rfl rfl rfl rfl ?_ h
  change ck _ _ = _; simp [ck]
theorem Sys2Proof.Laws.RoundTrip.align (g d) : Statement (.align g d) := by
  intro h s hs
  obtain rfl : Slot.sy = s := Option.some.inj hs
  refine slotInstr_head (s := .sy) (l := 0#2) (x := .none) (w2 := 0#32) (w3 := 0#32)
    rfl rfl rfl rfl ?_ h
  change ck _ _ = _; simp [ck]
theorem Sys2Proof.Laws.RoundTrip.frz (g d) : Statement (.frz g d) := by
  intro h s hs
  obtain rfl : Slot.sy = s := Option.some.inj hs
  refine slotInstr_head (s := .sy) (l := 0#2) (x := .none) (w2 := 0#32) (w3 := 0#32)
    rfl rfl rfl rfl ?_ h
  change ck _ _ = _; simp [ck]
theorem Sys2Proof.Laws.RoundTrip.rfz (g kill d) : Statement (.rfz g kill d) := by
  intro h s hs
  obtain rfl : Slot.sy = s := Option.some.inj hs
  refine slotInstr_head (s := .sy) (l := 0#2) (x := .none) (w2 := 0#32) (w3 := 0#32)
    rfl rfl rfl rfl ?_ h
  change Option.bind _ _ = _; simp [ck]
theorem Sys2Proof.Laws.RoundTrip.ltf (g sp d a off) : Statement (.ltf g sp d a off) := by
  intro h s hs
  obtain rfl : Slot.sy = s := Option.some.inj hs
  refine slotInstr_head (s := .sy) (l := 1#2) (x := .none) (w2 := off) (w3 := 0#32)
    rfl rfl rfl rfl ?_ h
  change Option.bind _ _ = _; simp [ck]
theorem Sys2Proof.Laws.RoundTrip.stf (g sp d a off) : Statement (.stf g sp d a off) := by
  intro h s hs
  obtain rfl : Slot.sy = s := Option.some.inj hs
  refine slotInstr_head (s := .sy) (l := 1#2) (x := .none) (w2 := off) (w3 := 0#32)
    rfl rfl rfl rfl ?_ h
  have k : (sp != Space.frec) = true := h; change Option.bind (spaceOf _) _ = _
  simp only [sa3_fn_pack, spaceOf_code, Option.bind_some, k]; simp [ck]
theorem Sys2Proof.Laws.RoundTrip.vadd (g a1 v vd va vb) : Statement (.vadd g a1 v vd va vb) := by
  intro h s hs
  obtain rfl : Slot.va = s := Option.some.inj hs
  refine slotInstr_head (s := .va) (l := 1#2) (x := a1) (w2 := va2 vd va vb 0#5) (w3 := 0#32)
    rfl rfl (kind_mx _ _ rfl rfl) (prefixOfWord_word _) ?_ h
  change ite _ _ _ = _; simp [ck]
theorem Sys2Proof.Laws.RoundTrip.vaddLit (g a1 v vd va lit) : Statement (.vaddLit g a1 v vd va lit) := by
  intro h s hs
  obtain rfl : Slot.va = s := Option.some.inj hs
  refine slotInstr_head (s := .va) (l := 2#2) (x := a1) (w2 := va2 vd va 0#9 0#5) (w3 := lit)
    rfl rfl (kind_mx _ _ rfl rfl) (prefixOfWord_word _) ?_ h
  change ite _ _ _ = _; simp [ck]
theorem Sys2Proof.Laws.RoundTrip.vsub (g a1 v vd va vb) : Statement (.vsub g a1 v vd va vb) := by
  intro h s hs
  obtain rfl : Slot.va = s := Option.some.inj hs
  refine slotInstr_head (s := .va) (l := 1#2) (x := a1) (w2 := va2 vd va vb 0#5) (w3 := 0#32)
    rfl rfl (kind_mx _ _ rfl rfl) (prefixOfWord_word _) ?_ h
  change ite _ _ _ = _; simp [ck]
theorem Sys2Proof.Laws.RoundTrip.vsubLit (g a1 v vd va lit) : Statement (.vsubLit g a1 v vd va lit) := by
  intro h s hs
  obtain rfl : Slot.va = s := Option.some.inj hs
  refine slotInstr_head (s := .va) (l := 2#2) (x := a1) (w2 := va2 vd va 0#9 0#5) (w3 := lit)
    rfl rfl (kind_mx _ _ rfl rfl) (prefixOfWord_word _) ?_ h
  change ite _ _ _ = _; simp [ck]
theorem Sys2Proof.Laws.RoundTrip.vmul (g a1 v vd va vb) : Statement (.vmul g a1 v vd va vb) := by
  intro h s hs
  obtain rfl : Slot.va = s := Option.some.inj hs
  refine slotInstr_head (s := .va) (l := 1#2) (x := a1) (w2 := va2 vd va vb 0#5) (w3 := 0#32)
    rfl rfl (kind_mx _ _ rfl rfl) (prefixOfWord_word _) ?_ h
  change ite _ _ _ = _; simp [ck]
theorem Sys2Proof.Laws.RoundTrip.vmulLit (g a1 v vd va lit) : Statement (.vmulLit g a1 v vd va lit) := by
  intro h s hs
  obtain rfl : Slot.va = s := Option.some.inj hs
  refine slotInstr_head (s := .va) (l := 2#2) (x := a1) (w2 := va2 vd va 0#9 0#5) (w3 := lit)
    rfl rfl (kind_mx _ _ rfl rfl) (prefixOfWord_word _) ?_ h
  change ite _ _ _ = _; simp [ck]
theorem Sys2Proof.Laws.RoundTrip.vfma (g a1 v vd va vb) : Statement (.vfma g a1 v vd va vb) := by
  intro h s hs
  obtain rfl : Slot.va = s := Option.some.inj hs
  refine slotInstr_head (s := .va) (l := 1#2) (x := a1) (w2 := va2 vd va vb 0#5) (w3 := 0#32)
    rfl rfl (kind_mx _ _ rfl rfl) (prefixOfWord_word _) ?_ h
  change ite _ _ _ = _; simp [ck]
theorem Sys2Proof.Laws.RoundTrip.vfmaLit (g a1 v vd va lit) : Statement (.vfmaLit g a1 v vd va lit) := by
  intro h s hs
  obtain rfl : Slot.va = s := Option.some.inj hs
  refine slotInstr_head (s := .va) (l := 2#2) (x := a1) (w2 := va2 vd va 0#9 0#5) (w3 := lit)
    rfl rfl (kind_mx _ _ rfl rfl) (prefixOfWord_word _) ?_ h
  change ite _ _ _ = _; simp [ck]
theorem Sys2Proof.Laws.RoundTrip.vfms (g a1 v vd va vb) : Statement (.vfms g a1 v vd va vb) := by
  intro h s hs
  obtain rfl : Slot.va = s := Option.some.inj hs
  refine slotInstr_head (s := .va) (l := 1#2) (x := a1) (w2 := va2 vd va vb 0#5) (w3 := 0#32)
    rfl rfl (kind_mx _ _ rfl rfl) (prefixOfWord_word _) ?_ h
  change ite _ _ _ = _; simp [ck]
theorem Sys2Proof.Laws.RoundTrip.vfmsLit (g a1 v vd va lit) : Statement (.vfmsLit g a1 v vd va lit) := by
  intro h s hs
  obtain rfl : Slot.va = s := Option.some.inj hs
  refine slotInstr_head (s := .va) (l := 2#2) (x := a1) (w2 := va2 vd va 0#9 0#5) (w3 := lit)
    rfl rfl (kind_mx _ _ rfl rfl) (prefixOfWord_word _) ?_ h
  change ite _ _ _ = _; simp [ck]
theorem Sys2Proof.Laws.RoundTrip.vfnm (g a1 v vd va vb) : Statement (.vfnm g a1 v vd va vb) := by
  intro h s hs
  obtain rfl : Slot.va = s := Option.some.inj hs
  refine slotInstr_head (s := .va) (l := 1#2) (x := a1) (w2 := va2 vd va vb 0#5) (w3 := 0#32)
    rfl rfl (kind_mx _ _ rfl rfl) (prefixOfWord_word _) ?_ h
  change ite _ _ _ = _; simp [ck]
theorem Sys2Proof.Laws.RoundTrip.vfnmLit (g a1 v vd va lit) : Statement (.vfnmLit g a1 v vd va lit) := by
  intro h s hs
  obtain rfl : Slot.va = s := Option.some.inj hs
  refine slotInstr_head (s := .va) (l := 2#2) (x := a1) (w2 := va2 vd va 0#9 0#5) (w3 := lit)
    rfl rfl (kind_mx _ _ rfl rfl) (prefixOfWord_word _) ?_ h
  change ite _ _ _ = _; simp [ck]
theorem Sys2Proof.Laws.RoundTrip.vmin (g a1 v vd va vb) : Statement (.vmin g a1 v vd va vb) := by
  intro h s hs
  obtain rfl : Slot.va = s := Option.some.inj hs
  refine slotInstr_head (s := .va) (l := 1#2) (x := a1) (w2 := va2 vd va vb 0#5) (w3 := 0#32)
    rfl rfl (kind_mx _ _ rfl rfl) (prefixOfWord_word _) ?_ h
  change ite _ _ _ = _; simp [ck]
theorem Sys2Proof.Laws.RoundTrip.vminLit (g a1 v vd va lit) : Statement (.vminLit g a1 v vd va lit) := by
  intro h s hs
  obtain rfl : Slot.va = s := Option.some.inj hs
  refine slotInstr_head (s := .va) (l := 2#2) (x := a1) (w2 := va2 vd va 0#9 0#5) (w3 := lit)
    rfl rfl (kind_mx _ _ rfl rfl) (prefixOfWord_word _) ?_ h
  change ite _ _ _ = _; simp [ck]
theorem Sys2Proof.Laws.RoundTrip.vmax (g a1 v vd va vb) : Statement (.vmax g a1 v vd va vb) := by
  intro h s hs
  obtain rfl : Slot.va = s := Option.some.inj hs
  refine slotInstr_head (s := .va) (l := 1#2) (x := a1) (w2 := va2 vd va vb 0#5) (w3 := 0#32)
    rfl rfl (kind_mx _ _ rfl rfl) (prefixOfWord_word _) ?_ h
  change ite _ _ _ = _; simp [ck]
theorem Sys2Proof.Laws.RoundTrip.vmaxLit (g a1 v vd va lit) : Statement (.vmaxLit g a1 v vd va lit) := by
  intro h s hs
  obtain rfl : Slot.va = s := Option.some.inj hs
  refine slotInstr_head (s := .va) (l := 2#2) (x := a1) (w2 := va2 vd va 0#9 0#5) (w3 := lit)
    rfl rfl (kind_mx _ _ rfl rfl) (prefixOfWord_word _) ?_ h
  change ite _ _ _ = _; simp [ck]
theorem Sys2Proof.Laws.RoundTrip.vun (g a1 v f vd va vb) : Statement (.vun g a1 v f vd va vb) := by
  intro h s hs
  obtain rfl : Slot.va = s := Option.some.inj hs
  refine slotInstr_head (s := .va) (l := 1#2) (x := ofX a1) (w2 := va2 vd va vb 0#5) (w3 := 0#32)
    rfl rfl (kind_ofX _ _ rfl) (prefixOfWord_word _) ?_ h
  change Option.bind _ _ = _; simp [ck]
theorem Sys2Proof.Laws.RoundTrip.vsf (g a1 v f vd va) : Statement (.vsf g a1 v f vd va) := by
  intro h s hs
  obtain rfl : Slot.va = s := Option.some.inj hs
  refine slotInstr_head (s := .va) (l := 1#2) (x := a1) (w2 := va2 vd va 0#9 0#5) (w3 := 0#32)
    rfl rfl (kind_mx _ _ rfl rfl) (prefixOfWord_word _) ?_ h
  change Option.bind _ _ = _; simp [ck]
theorem Sys2Proof.Laws.RoundTrip.vcmp (g a1 v r vd va vb) : Statement (.vcmp g a1 v r vd va vb) := by
  intro h s hs
  obtain rfl : Slot.va = s := Option.some.inj hs
  refine slotInstr_head (s := .va) (l := 1#2) (x := a1) (w2 := va2 vd va vb (vRelCode r)) (w3 := 0#32)
    rfl rfl (kind_mx _ _ rfl rfl) (prefixOfWord_word _) ?_ h
  change Option.bind _ _ = _; simp [ck]
theorem Sys2Proof.Laws.RoundTrip.vcmpLit (g a1 v r vd va lit) : Statement (.vcmpLit g a1 v r vd va lit) := by
  intro h s hs
  obtain rfl : Slot.va = s := Option.some.inj hs
  refine slotInstr_head (s := .va) (l := 2#2) (x := a1) (w2 := va2 vd va 0#9 (vRelCode r)) (w3 := lit)
    rfl rfl (kind_mx _ _ rfl rfl) (prefixOfWord_word _) ?_ h
  change Option.bind _ _ = _; simp [ck]
theorem Sys2Proof.Laws.RoundTrip.vsel (g a1 r vd va vb vn) : Statement (.vsel g a1 r vd va vb vn) := by
  intro h s hs
  obtain rfl : Slot.va = s := Option.some.inj hs
  refine slotInstr_head (s := .va) (l := 1#2) (x := ofX a1) (w2 := va2 vd va vb 0#5) (w3 := 0#32)
    rfl rfl (kind_ofX _ _ rfl) (prefixOfWord_word _) ?_ h
  change Option.bind _ _ = _; simp [ck]
theorem Sys2Proof.Laws.RoundTrip.vand (g a1 v vd va vb) : Statement (.vand g a1 v vd va vb) := by
  intro h s hs
  obtain rfl : Slot.va = s := Option.some.inj hs
  refine slotInstr_head (s := .va) (l := 1#2) (x := ofX a1) (w2 := va2 vd va vb 0#5) (w3 := 0#32)
    rfl rfl (kind_ofX _ _ rfl) (prefixOfWord_word _) ?_ h
  change ite _ _ _ = _; simp [ck]
theorem Sys2Proof.Laws.RoundTrip.vandLit (g a1 v vd va lit) : Statement (.vandLit g a1 v vd va lit) := by
  intro h s hs
  obtain rfl : Slot.va = s := Option.some.inj hs
  refine slotInstr_head (s := .va) (l := 2#2) (x := ofX a1) (w2 := va2 vd va 0#9 0#5) (w3 := lit)
    rfl rfl (kind_ofX _ _ rfl) (prefixOfWord_word _) ?_ h
  change ite _ _ _ = _; simp [ck]
theorem Sys2Proof.Laws.RoundTrip.vor (g a1 v vd va vb) : Statement (.vor g a1 v vd va vb) := by
  intro h s hs
  obtain rfl : Slot.va = s := Option.some.inj hs
  refine slotInstr_head (s := .va) (l := 1#2) (x := ofX a1) (w2 := va2 vd va vb 0#5) (w3 := 0#32)
    rfl rfl (kind_ofX _ _ rfl) (prefixOfWord_word _) ?_ h
  change ite _ _ _ = _; simp [ck]
theorem Sys2Proof.Laws.RoundTrip.vorLit (g a1 v vd va lit) : Statement (.vorLit g a1 v vd va lit) := by
  intro h s hs
  obtain rfl : Slot.va = s := Option.some.inj hs
  refine slotInstr_head (s := .va) (l := 2#2) (x := ofX a1) (w2 := va2 vd va 0#9 0#5) (w3 := lit)
    rfl rfl (kind_ofX _ _ rfl) (prefixOfWord_word _) ?_ h
  change ite _ _ _ = _; simp [ck]
theorem Sys2Proof.Laws.RoundTrip.vxor (g a1 v vd va vb) : Statement (.vxor g a1 v vd va vb) := by
  intro h s hs
  obtain rfl : Slot.va = s := Option.some.inj hs
  refine slotInstr_head (s := .va) (l := 1#2) (x := ofX a1) (w2 := va2 vd va vb 0#5) (w3 := 0#32)
    rfl rfl (kind_ofX _ _ rfl) (prefixOfWord_word _) ?_ h
  change ite _ _ _ = _; simp [ck]
theorem Sys2Proof.Laws.RoundTrip.vxorLit (g a1 v vd va lit) : Statement (.vxorLit g a1 v vd va lit) := by
  intro h s hs
  obtain rfl : Slot.va = s := Option.some.inj hs
  refine slotInstr_head (s := .va) (l := 2#2) (x := ofX a1) (w2 := va2 vd va 0#9 0#5) (w3 := lit)
    rfl rfl (kind_ofX _ _ rfl) (prefixOfWord_word _) ?_ h
  change ite _ _ _ = _; simp [ck]
theorem Sys2Proof.Laws.RoundTrip.vandn (g a1 v vd va vb) : Statement (.vandn g a1 v vd va vb) := by
  intro h s hs
  obtain rfl : Slot.va = s := Option.some.inj hs
  refine slotInstr_head (s := .va) (l := 1#2) (x := ofX a1) (w2 := va2 vd va vb 0#5) (w3 := 0#32)
    rfl rfl (kind_ofX _ _ rfl) (prefixOfWord_word _) ?_ h
  change ite _ _ _ = _; simp [ck]
theorem Sys2Proof.Laws.RoundTrip.vandnLit (g a1 v vd va lit) : Statement (.vandnLit g a1 v vd va lit) := by
  intro h s hs
  obtain rfl : Slot.va = s := Option.some.inj hs
  refine slotInstr_head (s := .va) (l := 2#2) (x := ofX a1) (w2 := va2 vd va 0#9 0#5) (w3 := lit)
    rfl rfl (kind_ofX _ _ rfl) (prefixOfWord_word _) ?_ h
  change ite _ _ _ = _; simp [ck]
theorem Sys2Proof.Laws.RoundTrip.vshl (g a1 v vd va vb) : Statement (.vshl g a1 v vd va vb) := by
  intro h s hs
  obtain rfl : Slot.va = s := Option.some.inj hs
  refine slotInstr_head (s := .va) (l := 1#2) (x := a1) (w2 := va2 vd va vb 0#5) (w3 := 0#32)
    rfl rfl (kind_mx _ _ rfl rfl) (prefixOfWord_word _) ?_ h
  change ite _ _ _ = _; simp [ck]
theorem Sys2Proof.Laws.RoundTrip.vshlLit (g a1 v vd va lit) : Statement (.vshlLit g a1 v vd va lit) := by
  intro h s hs
  obtain rfl : Slot.va = s := Option.some.inj hs
  refine slotInstr_head (s := .va) (l := 2#2) (x := a1) (w2 := va2 vd va 0#9 0#5) (w3 := lit)
    rfl rfl (kind_mx _ _ rfl rfl) (prefixOfWord_word _) ?_ h
  change ite _ _ _ = _; simp [ck]
theorem Sys2Proof.Laws.RoundTrip.vshr (g a1 v f vd va vb) : Statement (.vshr g a1 v f vd va vb) := by
  intro h s hs
  obtain rfl : Slot.va = s := Option.some.inj hs
  refine slotInstr_head (s := .va) (l := 1#2) (x := a1) (w2 := va2 vd va vb 0#5) (w3 := 0#32)
    rfl rfl (kind_mx _ _ rfl rfl) (prefixOfWord_word _) ?_ h
  change Option.bind _ _ = _; simp [ck]
theorem Sys2Proof.Laws.RoundTrip.vshrLit (g a1 v f vd va lit) : Statement (.vshrLit g a1 v f vd va lit) := by
  intro h s hs
  obtain rfl : Slot.va = s := Option.some.inj hs
  refine slotInstr_head (s := .va) (l := 2#2) (x := a1) (w2 := va2 vd va 0#9 0#5) (w3 := lit)
    rfl rfl (kind_mx _ _ rfl rfl) (prefixOfWord_word _) ?_ h
  change Option.bind _ _ = _; simp [ck]
theorem Sys2Proof.Laws.RoundTrip.viadd (g a1 v f vd va vb) : Statement (.viadd g a1 v f vd va vb) := by
  intro h s hs
  obtain rfl : Slot.va = s := Option.some.inj hs
  refine slotInstr_head (s := .va) (l := 1#2) (x := a1) (w2 := va2 vd va vb 0#5) (w3 := 0#32)
    rfl rfl (kind_mx _ _ rfl rfl) (prefixOfWord_word _) ?_ h
  change Option.bind _ _ = _; simp [ck]
theorem Sys2Proof.Laws.RoundTrip.viaddLit (g a1 v f vd va lit) : Statement (.viaddLit g a1 v f vd va lit) := by
  intro h s hs
  obtain rfl : Slot.va = s := Option.some.inj hs
  refine slotInstr_head (s := .va) (l := 2#2) (x := a1) (w2 := va2 vd va 0#9 0#5) (w3 := lit)
    rfl rfl (kind_mx _ _ rfl rfl) (prefixOfWord_word _) ?_ h
  change Option.bind _ _ = _; simp [ck]
theorem Sys2Proof.Laws.RoundTrip.vimul (g a1 v f vd va vb) : Statement (.vimul g a1 v f vd va vb) := by
  intro h s hs
  obtain rfl : Slot.va = s := Option.some.inj hs
  refine slotInstr_head (s := .va) (l := 1#2) (x := a1) (w2 := va2 vd va vb 0#5) (w3 := 0#32)
    rfl rfl (kind_mx _ _ rfl rfl) (prefixOfWord_word _) ?_ h
  change Option.bind _ _ = _; simp [ck]
theorem Sys2Proof.Laws.RoundTrip.vimulLit (g a1 v f vd va lit) : Statement (.vimulLit g a1 v f vd va lit) := by
  intro h s hs
  obtain rfl : Slot.va = s := Option.some.inj hs
  refine slotInstr_head (s := .va) (l := 2#2) (x := a1) (w2 := va2 vd va 0#9 0#5) (w3 := lit)
    rfl rfl (kind_mx _ _ rfl rfl) (prefixOfWord_word _) ?_ h
  change Option.bind _ _ = _; simp [ck]
theorem Sys2Proof.Laws.RoundTrip.vimm (g a1 v f vd va vb) : Statement (.vimm g a1 v f vd va vb) := by
  intro h s hs
  obtain rfl : Slot.va = s := Option.some.inj hs
  refine slotInstr_head (s := .va) (l := 1#2) (x := ofX a1) (w2 := va2 vd va vb 0#5) (w3 := 0#32)
    rfl rfl (kind_ofX _ _ rfl) (prefixOfWord_word _) ?_ h
  change Option.bind _ _ = _; simp [ck]
theorem Sys2Proof.Laws.RoundTrip.vimmLit (g a1 v f vd va lit) : Statement (.vimmLit g a1 v f vd va lit) := by
  intro h s hs
  obtain rfl : Slot.va = s := Option.some.inj hs
  refine slotInstr_head (s := .va) (l := 2#2) (x := ofX a1) (w2 := va2 vd va 0#9 0#5) (w3 := lit)
    rfl rfl (kind_ofX _ _ rfl) (prefixOfWord_word _) ?_ h
  change Option.bind _ _ = _; simp [ck]
theorem Sys2Proof.Laws.RoundTrip.vcvt (g a1 v t p vd va) : Statement (.vcvt g a1 v t p vd va) := by
  intro h s hs
  obtain rfl : Slot.va = s := Option.some.inj hs
  refine slotInstr_head (s := .va) (l := 1#2) (x := a1) (w2 := va2 vd va 0#9 (tgtCode t)) (w3 := 0#32)
    rfl rfl (kind_mx _ _ rfl rfl) (prefixOfWord_word _) ?_ h
  change Option.bind _ _ = _; simp [ck]
theorem Sys2Proof.Laws.RoundTrip.vqnt (g a1 v t p soff vd va) : Statement (.vqnt g a1 v t p soff vd va) := by
  intro h s hs
  obtain rfl : Slot.va = s := Option.some.inj hs
  refine slotInstr_head (s := .va) (l := 1#2) (x := a1) (w2 := va2 vd va soff (tgtCode t)) (w3 := 0#32)
    rfl rfl (kind_mx _ _ rfl rfl) (prefixOfWord_word _) ?_ h
  change Option.bind _ _ = _; simp [ck]
theorem Sys2Proof.Laws.RoundTrip.vdq (g a1 v t p soff vd va) : Statement (.vdq g a1 v t p soff vd va) := by
  intro h s hs
  obtain rfl : Slot.va = s := Option.some.inj hs
  refine slotInstr_head (s := .va) (l := 1#2) (x := a1) (w2 := va2 vd va soff (tgtCode t)) (w3 := 0#32)
    rfl rfl (kind_mx _ _ rfl rfl) (prefixOfWord_word _) ?_ h
  change Option.bind _ _ = _; simp [ck]
theorem Sys2Proof.Laws.RoundTrip.vred (g a1 v op vd va) : Statement (.vred g a1 v op vd va) := by
  intro h s hs
  obtain rfl : Slot.va = s := Option.some.inj hs
  refine slotInstr_head (s := .va) (l := 1#2) (x := a1) (w2 := va2 vd va 0#9 0#5) (w3 := 0#32)
    rfl rfl (kind_mx _ _ rfl rfl) (prefixOfWord_word _) ?_ h
  change Option.bind _ _ = _; simp [ck]
theorem Sys2Proof.Laws.RoundTrip.vscan (g a1 v op ex vd va) : Statement (.vscan g a1 v op ex vd va) := by
  intro h s hs
  obtain rfl : Slot.va = s := Option.some.inj hs
  refine slotInstr_head (s := .va) (l := 1#2) (x := a1) (w2 := va2 vd va 0#9 0#5) (w3 := 0#32)
    rfl rfl (kind_mx _ _ rfl rfl) (prefixOfWord_word _) ?_ h
  change Option.bind _ _ = _; simp [ck]
theorem Sys2Proof.Laws.RoundTrip.vperm (g a1 v wrap vd va vb) : Statement (.vperm g a1 v wrap vd va vb) := by
  intro h s hs
  obtain rfl : Slot.va = s := Option.some.inj hs
  refine slotInstr_head (s := .va) (l := 1#2) (x := ofX a1) (w2 := va2 vd va vb 0#5) (w3 := 0#32)
    rfl rfl (kind_ofX _ _ rfl) (prefixOfWord_word _) ?_ h
  change Option.bind _ _ = _; simp [ck]
theorem Sys2Proof.Laws.RoundTrip.vshuf (g a1 v f vd va vb) : Statement (.vshuf g a1 v f vd va vb) := by
  intro h s hs
  obtain rfl : Slot.va = s := Option.some.inj hs
  refine slotInstr_head (s := .va) (l := 1#2) (x := ofX a1) (w2 := va2 vd va vb (shufX5 f)) (w3 := 0#32)
    rfl rfl (kind_ofX _ _ rfl) (prefixOfWord_word _) ?_ h
  change Option.bind _ _ = _; simp [ck]
theorem Sys2Proof.Laws.RoundTrip.vbcL (g v vd va k) : Statement (.vbcL g v vd va k) := by
  intro h s hs
  obtain rfl : Slot.va = s := Option.some.inj hs
  refine slotInstr_head (s := .va) (l := 1#2) (x := .none) (w2 := va2 vd va (byteField k) 0#5) (w3 := 0#32)
    rfl (by simp [lenOk]; rfl) rfl rfl ?_ h
  change ite _ _ _ = _; simp [ck]
theorem Sys2Proof.Laws.RoundTrip.vbcI (g v t vd lit) : Statement (.vbcI g v t vd lit) := by
  intro h s hs
  obtain rfl : Slot.va = s := Option.some.inj hs
  refine slotInstr_head (s := .va) (l := 2#2) (x := .none) (w2 := va2 vd 0#9 0#9 (tgtCode t)) (w3 := lit)
    rfl (by simp [lenOk]; rfl) rfl rfl ?_ h
  change ite _ _ _ = _; simp [ck]
theorem Sys2Proof.Laws.RoundTrip.vext (g a1 r d va k) : Statement (.vext g a1 r d va k) := by
  intro h s hs
  obtain rfl : Slot.va = s := Option.some.inj hs
  refine slotInstr_head (s := .va) (l := 1#2) (x := ofX a1) (w2 := va2 (scalarField d) va (byteField k) 0#5) (w3 := 0#32)
    rfl rfl (kind_ofX _ _ rfl) (prefixOfWord_word _) ?_ h
  change Option.bind _ _ = _; simp [ck]
theorem Sys2Proof.Laws.RoundTrip.vins (g a1 r vd a k) : Statement (.vins g a1 r vd a k) := by
  intro h s hs
  obtain rfl : Slot.va = s := Option.some.inj hs
  refine slotInstr_head (s := .va) (l := 1#2) (x := ofX a1) (w2 := va2 vd (scalarField a) (byteField k) 0#5) (w3 := 0#32)
    rfl rfl (kind_ofX _ _ rfl) (prefixOfWord_word _) ?_ h
  change Option.bind _ _ = _; simp [ck]
theorem Sys2Proof.Laws.RoundTrip.vmov (g v vd va) : Statement (.vmov g v vd va) := by
  intro h s hs
  obtain rfl : Slot.va = s := Option.some.inj hs
  refine slotInstr_head (s := .va) (l := 1#2) (x := .none) (w2 := va2 vd va 0#9 0#5) (w3 := 0#32)
    rfl rfl rfl rfl ?_ h
  change Option.bind _ _ = _; simp [ck]
theorem Sys2Proof.Laws.RoundTrip.viota (g v t vd base) : Statement (.viota g v t vd base) := by
  intro h s hs
  obtain rfl : Slot.va = s := Option.some.inj hs
  refine slotInstr_head (s := .va) (l := 1#2) (x := .none) (w2 := va2 vd 0#9 base (tgtCode t)) (w3 := 0#32)
    rfl rfl rfl rfl ?_ h
  change Option.bind _ _ = _; simp [ck]
theorem Sys2Proof.Laws.RoundTrip.vcmul (g a1 v conj vd va vb) : Statement (.vcmul g a1 v conj vd va vb) := by
  intro h s hs
  obtain rfl : Slot.va = s := Option.some.inj hs
  refine slotInstr_head (s := .va) (l := 1#2) (x := a1) (w2 := va2 vd va vb 0#5) (w3 := 0#32)
    rfl rfl (kind_mx _ _ rfl rfl) (prefixOfWord_word _) ?_ h
  change Option.bind _ _ = _; simp [ck]
theorem Sys2Proof.Laws.RoundTrip.vbfly (g a1 v dif vd va vb) : Statement (.vbfly g a1 v dif vd va vb) := by
  intro h s hs
  obtain rfl : Slot.va = s := Option.some.inj hs
  refine slotInstr_head (s := .va) (l := 1#2) (x := a1) (w2 := va2 vd va vb 0#5) (w3 := 0#32)
    rfl rfl (kind_mx _ _ rfl rfl) (prefixOfWord_word _) ?_ h
  change Option.bind _ _ = _; simp [ck]
theorem Sys2Proof.Laws.RoundTrip.vcls (g a1 v cls vd va) : Statement (.vcls g a1 v cls vd va) := by
  intro h s hs
  obtain rfl : Slot.va = s := Option.some.inj hs
  refine slotInstr_head (s := .va) (l := 1#2) (x := ofX a1) (w2 := va2 vd va 0#9 0#5) (w3 := 0#32)
    rfl rfl (kind_ofX _ _ rfl) (prefixOfWord_word _) ?_ h
  change Option.bind _ _ = _; simp [ck]
theorem Sys2Proof.Laws.RoundTrip.vtag (g v t vd va) : Statement (.vtag g v t vd va) := by
  intro h s hs
  obtain rfl : Slot.va = s := Option.some.inj hs
  refine slotInstr_head (s := .va) (l := 1#2) (x := .none) (w2 := va2 vd va 0#9 (tgtCode t)) (w3 := 0#32)
    rfl rfl rfl rfl ?_ h
  change Option.bind _ _ = _; simp [ck]
theorem Sys2Proof.Laws.RoundTrip.vmsk (g a1 r f d va) : Statement (.vmsk g a1 r f d va) := by
  intro h s hs
  obtain rfl : Slot.va = s := Option.some.inj hs
  refine slotInstr_head (s := .va) (l := 1#2) (x := ofX a1) (w2 := va2 (scalarField d) va 0#9 0#5) (w3 := 0#32)
    rfl rfl (kind_ofX _ _ rfl) (prefixOfWord_word _) ?_ h
  change Option.bind _ _ = _; simp [ck]
theorem Sys2Proof.Laws.RoundTrip.mma (g z acc nk fa fb) : Statement (.mma g z acc nk fa fb) := by
  intro h s hs
  obtain rfl : Slot.mx = s := Option.some.inj hs
  refine slotInstr_head (s := .mx) (l := 1#2) (x := .none) (w2 := mm2 0#9 0#9 0#5 31#5 (twoCode 4 z)) (w3 := 0#32)
    rfl rfl rfl rfl ?_ h
  change Option.bind _ _ = _; simp [ck]
theorem Sys2Proof.Laws.RoundTrip.mmas (g z acc nk fa fb vsa vsb) : Statement (.mmas g z acc nk fa fb vsa vsb) := by
  intro h s hs
  obtain rfl : Slot.mx = s := Option.some.inj hs
  refine slotInstr_head (s := .mx) (l := 1#2) (x := .none) (w2 := mm2 vsa vsb 0#5 31#5 (twoCode 4 z)) (w3 := 0#32)
    rfl rfl rfl rfl ?_ h
  change Option.bind _ _ = _; simp [ck]
theorem Sys2Proof.Laws.RoundTrip.mzero (g acc fp r0 nr) : Statement (.mzero g acc fp r0 nr) := by
  intro h s hs
  obtain rfl : Slot.mx = s := Option.some.inj hs
  refine slotInstr_head (s := .mx) (l := 1#2) (x := .none) (w2 := mm2 0#9 0#9 r0 nr 0#4) (w3 := 0#32)
    rfl rfl rfl rfl ?_ h
  change Option.bind _ _ = _; simp [ck]
theorem Sys2Proof.Laws.RoundTrip.amv (g a1 acc t vd r0 nr) : Statement (.amv g a1 acc t vd r0 nr) := by
  intro h s hs
  obtain rfl : Slot.mx = s := Option.some.inj hs
  refine slotInstr_head (s := .mx) (l := 1#2) (x := ofM a1) (w2 := mm2 vd 0#9 r0 nr 0#4) (w3 := 0#32)
    rfl rfl (kind_ofM _ _ rfl) (prefixOfWord_word _) ?_ h
  change Option.bind _ _ = _; simp [ck]
theorem Sys2Proof.Laws.RoundTrip.amvt (g a1 acc t vd c0 nc) : Statement (.amvt g a1 acc t vd c0 nc) := by
  intro h s hs
  obtain rfl : Slot.mx = s := Option.some.inj hs
  refine slotInstr_head (s := .mx) (l := 1#2) (x := ofM a1) (w2 := mm2 vd 0#9 c0 nc 0#4) (w3 := 0#32)
    rfl rfl (kind_ofM _ _ rfl) (prefixOfWord_word _) ?_ h
  change Option.bind _ _ = _; simp [ck]
theorem Sys2Proof.Laws.RoundTrip.ald (g acc fp vs r0 nr) : Statement (.ald g acc fp vs r0 nr) := by
  intro h s hs
  obtain rfl : Slot.mx = s := Option.some.inj hs
  refine slotInstr_head (s := .mx) (l := 1#2) (x := .none) (w2 := mm2 vs 0#9 r0 nr 0#4) (w3 := 0#32)
    rfl rfl rfl rfl ?_ h
  change Option.bind _ _ = _; simp [ck]
theorem Sys2Proof.Laws.RoundTrip.aadd (g acc fp vs r0 nr) : Statement (.aadd g acc fp vs r0 nr) := by
  intro h s hs
  obtain rfl : Slot.mx = s := Option.some.inj hs
  refine slotInstr_head (s := .mx) (l := 1#2) (x := .none) (w2 := mm2 vs 0#9 r0 nr 0#4) (w3 := 0#32)
    rfl rfl rfl rfl ?_ h
  change Option.bind _ _ = _; simp [ck]
theorem Sys2Proof.Laws.RoundTrip.ld (g r t base v off) : Statement (.ld g r t base v off) := by
  intro h s hs
  obtain rfl : Slot.ld = s := Option.some.inj hs
  refine slotInstr_head (s := .ld) (l := 1#2) (x := .none) (w2 := mr2 v off) (w3 := 0#32)
    rfl rfl rfl rfl ?_ h
  simp [fields, fieldsLD, fieldsST, ck, mrBody, msForms]
theorem Sys2Proof.Laws.RoundTrip.lds (g r t base v off) : Statement (.lds g r t base v off) := by
  intro h s hs
  obtain rfl : Slot.ld = s := Option.some.inj hs
  refine slotInstr_head (s := .ld) (l := 1#2) (x := .none) (w2 := mr2 v off) (w3 := 0#32)
    rfl rfl rfl rfl ?_ h
  simp [fields, fieldsLD, fieldsST, ck, mrBody, msForms]
theorem Sys2Proof.Laws.RoundTrip.ldt (g r t base v stride) : Statement (.ldt g r t base v stride) := by
  intro h s hs
  obtain rfl : Slot.ld = s := Option.some.inj hs
  refine slotInstr_head (s := .ld) (l := 1#2) (x := .none) (w2 := mr2 v stride) (w3 := 0#32)
    rfl rfl rfl rfl ?_ h
  simp [fields, fieldsLD, fieldsST, ck, mrBody, msForms]
theorem Sys2Proof.Laws.RoundTrip.ldg (g d a b dl fl sz) : Statement (.ldg g d a b dl fl sz) := by
  intro h s hs
  obtain rfl : Slot.ld = s := Option.some.inj hs
  refine slotInstr_head (s := .ld) (l := 1#2) (x := .none) (w2 := gm2 dl fl.scope (oneBit fl.acq) (oneBit fl.rel) (gmSizeCode sz)) (w3 := 0#32)
    rfl rfl rfl rfl ?_ h
  change Option.bind _ _ = _; simp [ck]
theorem Sys2Proof.Laws.RoundTrip.ldw (g d a sz off) : Statement (.ldw g d a sz off) := by
  intro h s hs
  obtain rfl : Slot.ld = s := Option.some.inj hs
  refine slotInstr_head (s := .ld) (l := 0#2) (x := .none) (w2 := 0#32) (w3 := 0#32)
    rfl rfl rfl rfl ?_ h
  change Option.bind _ _ = _; simp [ck]
theorem Sys2Proof.Laws.RoundTrip.ldwLong (g d a sz off) : Statement (.ldwLong g d a sz off) := by
  intro h s hs
  obtain rfl : Slot.ld = s := Option.some.inj hs
  refine slotInstr_head (s := .ld) (l := 1#2) (x := .none) (w2 := off) (w3 := 0#32)
    rfl rfl rfl rfl ?_ h
  change Option.bind _ _ = _; simp [ck]
theorem Sys2Proof.Laws.RoundTrip.ldws (g d a sz off) : Statement (.ldws g d a sz off) := by
  intro h s hs
  obtain rfl : Slot.ld = s := Option.some.inj hs
  refine slotInstr_head (s := .ld) (l := 0#2) (x := .none) (w2 := 0#32) (w3 := 0#32)
    rfl rfl rfl rfl ?_ h
  change Option.bind _ _ = _; simp [ck]
theorem Sys2Proof.Laws.RoundTrip.ldwsLong (g d a sz off) : Statement (.ldwsLong g d a sz off) := by
  intro h s hs
  obtain rfl : Slot.ld = s := Option.some.inj hs
  refine slotInstr_head (s := .ld) (l := 1#2) (x := .none) (w2 := off) (w3 := 0#32)
    rfl rfl rfl rfl ?_ h
  change Option.bind _ _ = _; simp [ck]
theorem Sys2Proof.Laws.RoundTrip.ldb (g d a sz off) : Statement (.ldb g d a sz off) := by
  intro h s hs
  obtain rfl : Slot.ld = s := Option.some.inj hs
  refine slotInstr_head (s := .ld) (l := 0#2) (x := .none) (w2 := 0#32) (w3 := 0#32)
    rfl rfl rfl rfl ?_ h
  change Option.bind _ _ = _; simp [ck]
theorem Sys2Proof.Laws.RoundTrip.ldbLong (g d a sz off) : Statement (.ldbLong g d a sz off) := by
  intro h s hs
  obtain rfl : Slot.ld = s := Option.some.inj hs
  refine slotInstr_head (s := .ld) (l := 1#2) (x := .none) (w2 := off) (w3 := 0#32)
    rfl rfl rfl rfl ?_ h
  change Option.bind _ _ = _; simp [ck]
theorem Sys2Proof.Laws.RoundTrip.recv (g v port) : Statement (.recv g v port) := by
  intro h s hs
  obtain rfl : Slot.ld = s := Option.some.inj hs
  refine slotInstr_head (s := .ld) (l := 1#2) (x := .none) (w2 := 0#32) (w3 := 0#32)
    rfl rfl rfl rfl ?_ h
  change Option.bind _ _ = _; simp [ck]
theorem Sys2Proof.Laws.RoundTrip.st (g r base v off) : Statement (.st g r base v off) := by
  intro h s hs
  obtain rfl : Slot.st = s := Option.some.inj hs
  refine slotInstr_head (s := .st) (l := 1#2) (x := .none) (w2 := mr2 v off) (w3 := 0#32)
    rfl rfl rfl rfl ?_ h
  simp [fields, fieldsLD, fieldsST, ck, mrBody, msForms]
theorem Sys2Proof.Laws.RoundTrip.stt (g r t base v off) : Statement (.stt g r t base v off) := by
  intro h s hs
  obtain rfl : Slot.st = s := Option.some.inj hs
  refine slotInstr_head (s := .st) (l := 1#2) (x := .none) (w2 := mr2 v off) (w3 := 0#32)
    rfl rfl rfl rfl ?_ h
  simp [fields, fieldsLD, fieldsST, ck, mrBody, msForms]
theorem Sys2Proof.Laws.RoundTrip.sct (g r base v off) : Statement (.sct g r base v off) := by
  intro h s hs
  obtain rfl : Slot.st = s := Option.some.inj hs
  refine slotInstr_head (s := .st) (l := 1#2) (x := .none) (w2 := mr2 v off) (w3 := 0#32)
    rfl rfl rfl rfl ?_ h
  simp [fields, fieldsLD, fieldsST, ck, mrBody, msForms]
theorem Sys2Proof.Laws.RoundTrip.stw (g d a sz off) : Statement (.stw g d a sz off) := by
  intro h s hs
  obtain rfl : Slot.st = s := Option.some.inj hs
  refine slotInstr_head (s := .st) (l := 0#2) (x := .none) (w2 := 0#32) (w3 := 0#32)
    rfl rfl rfl rfl ?_ h
  change Option.bind _ _ = _; simp [ck]
theorem Sys2Proof.Laws.RoundTrip.stwLong (g d a sz off) : Statement (.stwLong g d a sz off) := by
  intro h s hs
  obtain rfl : Slot.st = s := Option.some.inj hs
  refine slotInstr_head (s := .st) (l := 1#2) (x := .none) (w2 := off) (w3 := 0#32)
    rfl rfl rfl rfl ?_ h
  change Option.bind _ _ = _; simp [ck]
theorem Sys2Proof.Laws.RoundTrip.send (g v dx dy yx) : Statement (.send g v dx dy yx) := by
  intro h s hs
  obtain rfl : Slot.st = s := Option.some.inj hs
  refine slotInstr_head (s := .st) (l := 1#2) (x := .none) (w2 := fb2 dx dy (oneBit yx) 0#14) (w3 := 0#32)
    rfl rfl rfl rfl ?_ h
  change ck _ _ = _; simp [ck]
theorem Sys2Proof.Laws.RoundTrip.gst (g d a b dl fl sz) : Statement (.gst g d a b dl fl sz) := by
  intro h s hs
  obtain rfl : Slot.st = s := Option.some.inj hs
  refine slotInstr_head (s := .st) (l := 1#2) (x := .none) (w2 := gm2 dl fl.scope (oneBit fl.acq) (oneBit fl.rel) (gmSizeCode sz)) (w3 := 0#32)
    rfl rfl rfl rfl ?_ h
  change Option.bind _ _ = _; simp [ck]
theorem Sys2Proof.Laws.RoundTrip.amo (g f d a b dl fl dbl) : Statement (.amo g f d a b dl fl dbl) := by
  intro h s hs
  obtain rfl : Slot.st = s := Option.some.inj hs
  refine slotInstr_head (s := .st) (l := 1#2) (x := .none) (w2 := gm2 dl fl.scope (oneBit fl.acq) (oneBit fl.rel) (amoSizeCode dbl)) (w3 := 0#32)
    rfl (by simp [lenOk, amoCode_ne]; rfl) rfl rfl ?_ h
  change Option.bind (amoSizeOf _) _ = _; simp [amoCode_ne]
theorem Sys2Proof.Laws.RoundTrip.amoCas (g d a b dl fl dbl k) : Statement (.amoCas g d a b dl fl dbl k) := by
  intro h s hs
  obtain rfl : Slot.st = s := Option.some.inj hs
  refine slotInstr_head (s := .st) (l := 2#2) (x := .none) (w2 := gm2 dl fl.scope (oneBit fl.acq) (oneBit fl.rel) (amoSizeCode dbl)) (w3 := k)
    rfl (by simp [lenOk]; rfl) rfl rfl ?_ h
  change Option.bind _ _ = _; simp [ck]
theorem Sys2Proof.Laws.RoundTrip.wake (g a b scope rel) : Statement (.wake g a b scope rel) := by
  intro h s hs
  obtain rfl : Slot.st = s := Option.some.inj hs
  refine slotInstr_head (s := .st) (l := 1#2) (x := .none) (w2 := gm2 0#16 scope 0#1 (oneBit rel) 2#8) (w3 := 0#32)
    rfl rfl rfl rfl ?_ h
  change ck _ _ = _; simp [ck]
theorem Sys2Proof.Laws.RoundTrip.cpy (g da sa rows side kind) : Statement (.cpy g da sa rows side kind) := by
  intro h s hs
  obtain rfl : Slot.cp = s := Option.some.inj hs
  refine slotInstr_head (s := .cp) (l := 1#2) (x := .none) (w2 := ec2 0#6 0#1 0#1 rows 0#1 (oneBit side) (swzCode kind) 0#12) (w3 := 0#32)
    rfl rfl rfl rfl ?_ h
  change Option.bind _ _ = _; simp [ck]
theorem Sys2Proof.Laws.RoundTrip.cpz (g da rows) : Statement (.cpz g da rows) := by
  intro h s hs
  obtain rfl : Slot.cp = s := Option.some.inj hs
  refine slotInstr_head (s := .cp) (l := 1#2) (x := .none) (w2 := ec2 0#6 0#1 0#1 rows 0#1 0#1 0#2 0#12) (w3 := 0#32)
    rfl rfl rfl rfl ?_ h
  change ck _ _ = _; simp [ck]
theorem Sys2Proof.Laws.RoundTrip.cpt (g b sa sb rows side kind) : Statement (.cpt g b sa sb rows side kind) := by
  intro h s hs
  obtain rfl : Slot.cp = s := Option.some.inj hs
  refine slotInstr_head (s := .cp) (l := 1#2) (x := .none) (w2 := ec2 0#6 0#1 0#1 (rows6Field rows) 0#1 (oneBit side) (swzCode kind) (twoCode 12 b)) (w3 := 0#32)
    rfl rfl rfl rfl ?_ h
  change Option.bind _ _ = _; simp [ck]
theorem Sys2Proof.Laws.RoundTrip.cptFollow (g b sa sb rows side kind sc f) : Statement (.cptFollow g b sa sb rows side kind sc f) := by
  intro h s hs
  obtain rfl : Slot.cp = s := Option.some.inj hs
  refine slotInstr_head (s := .cp) (l := 2#2) (x := .none) (w2 := ec2 0#6 0#1 0#1 (rows6Field rows) 0#1 (oneBit side) (swzCode kind) (twoCode 12 b)) (w3 := followWord f)
    rfl rfl rfl rfl ?_ h
  change Option.bind _ _ = _; simp [ck]
theorem Sys2Proof.Laws.RoundTrip.cpn (g dir da sa rows) : Statement (.cpn g dir da sa rows) := by
  intro h s hs
  obtain rfl : Slot.cp = s := Option.some.inj hs
  refine slotInstr_head (s := .cp) (l := 1#2) (x := .none) (w2 := ec2 0#6 0#1 0#1 rows 0#1 0#1 0#2 (0#10 ++ sideCode dir)) (w3 := 0#32)
    rfl rfl rfl rfl ?_ h
  change Option.bind _ _ = _; simp [ck]
theorem Sys2Proof.Laws.RoundTrip.stg (g sa sb sc fl dl) : Statement (.stg g sa sb sc fl dl) := by
  intro h s hs
  obtain rfl : Slot.cp = s := Option.some.inj hs
  refine slotInstr_head (s := .cp) (l := 2#2) (x := .none) (w2 := ec2 fl.scope (oneBit fl.acq) (oneBit fl.rel) 0#8 0#1 0#1 0#2 0#12) (w3 := dl)
    rfl rfl rfl rfl ?_ h
  change ck _ _ = _; simp [ck]
theorem Sys2Proof.Laws.RoundTrip.stp (g sa sb sc fl dl) : Statement (.stp g sa sb sc fl dl) := by
  intro h s hs
  obtain rfl : Slot.cp = s := Option.some.inj hs
  refine slotInstr_head (s := .cp) (l := 2#2) (x := .none) (w2 := ec2 fl.scope (oneBit fl.acq) (oneBit fl.rel) 0#8 0#1 0#1 0#2 0#12) (w3 := dl)
    rfl rfl rfl rfl ?_ h
  change ck _ _ = _; simp [ck]
theorem Sys2Proof.Laws.RoundTrip.acp (g inn i32 acc sa r0 nr) : Statement (.acp g inn i32 acc sa r0 nr) := by
  intro h s hs
  obtain rfl : Slot.cp = s := Option.some.inj hs
  refine slotInstr_head (s := .cp) (l := 1#2) (x := .none) (w2 := ec2 0#6 0#1 0#1 (rows5Field nr) 0#1 0#1 0#2 (acpF 0#2 r0 (oneBit i32) (oneBit inn) acc)) (w3 := 0#32)
    rfl rfl rfl rfl ?_ h
  change Option.bind _ _ = _; simp [ck]
theorem Sys2Proof.Laws.RoundTrip.cav (g op vd vs scope) : Statement (.cav g op vd vs scope) := by
  intro h s hs
  obtain rfl : Slot.cp = s := Option.some.inj hs
  refine slotInstr_head (s := .cp) (l := 1#2) (x := .none) (w2 := sw2 scope 0#2 (sweepOpCode op) 0#11 vs) (w3 := 0#32)
    rfl rfl rfl rfl ?_ h
  change ite _ _ _ = _; simp [ck]
theorem Sys2Proof.Laws.RoundTrip.ard (g op vd vs scope) : Statement (.ard g op vd vs scope) := by
  intro h s hs
  obtain rfl : Slot.cp = s := Option.some.inj hs
  refine slotInstr_head (s := .cp) (l := 1#2) (x := .none) (w2 := sw2 scope 0#2 (sweepOpCode op) 0#11 vs) (w3 := 0#32)
    rfl rfl rfl rfl ?_ h
  change ite _ _ _ = _; simp [ck]
theorem Sys2Proof.Laws.RoundTrip.scn (g ex op vd vs scope) : Statement (.scn g ex op vd vs scope) := by
  intro h s hs
  obtain rfl : Slot.cp = s := Option.some.inj hs
  refine slotInstr_head (s := .cp) (l := 1#2) (x := .none) (w2 := sw2 scope 0#2 (sweepOpCode op) 0#11 vs) (w3 := 0#32)
    rfl rfl rfl rfl ?_ h
  change Option.bind _ _ = _; simp [ck]
theorem Sys2Proof.Laws.RoundTrip.bcs (g vd vs sr scope) : Statement (.bcs g vd vs sr scope) := by
  intro h s hs
  obtain rfl : Slot.cp = s := Option.some.inj hs
  refine slotInstr_head (s := .cp) (l := 1#2) (x := .none) (w2 := sw2 scope 0#2 0#4 0#11 vs) (w3 := 0#32)
    rfl rfl rfl rfl ?_ h
  change ite _ _ _ = _; simp [ck]
theorem Sys2Proof.Laws.RoundTrip.crdy (g a scope rel) : Statement (.crdy g a scope rel) := by
  intro h s hs
  obtain rfl : Slot.cp = s := Option.some.inj hs
  refine slotInstr_head (s := .cp) (l := 1#2) (x := .none) (w2 := ec2 scope 0#1 (oneBit rel) 0#8 0#1 0#1 0#2 0#12) (w3 := 0#32)
    rfl rfl rfl rfl ?_ h
  change ck _ _ = _; simp [ck]
theorem Sys2Proof.Laws.RoundTrip.resultLanding a0 : Statement (.resultLanding a0) :=
  fun _ _ h => no_slot h
theorem Sys2Proof.Laws.RoundTrip.waitResume a0 : Statement (.waitResume a0) :=
  fun _ _ h => no_slot h
theorem Sys2Proof.Laws.RoundTrip.barDeadline a0 a1 : Statement (.barDeadline a0 a1) :=
  fun _ _ h => no_slot h
theorem Sys2Proof.Laws.RoundTrip.drainDeadline a0 a1 : Statement (.drainDeadline a0 a1) :=
  fun _ _ h => no_slot h
theorem Sys2Proof.Laws.RoundTrip.replyDelivery a0 a1 : Statement (.replyDelivery a0 a1) :=
  fun _ _ h => no_slot h
theorem Sys2Proof.Laws.RoundTrip.deadlineCheck a0 a1 : Statement (.deadlineCheck a0 a1) :=
  fun _ _ h => no_slot h
theorem Sys2Proof.Laws.RoundTrip.fabricHop a0 a1 a2 : Statement (.fabricHop a0 a1 a2) :=
  fun _ _ h => no_slot h
theorem Sys2Proof.Laws.RoundTrip.wordArrival a0 a1 a2 : Statement (.wordArrival a0 a1 a2) :=
  fun _ _ h => no_slot h
theorem Sys2Proof.Laws.RoundTrip.burstRowLanding a0 a1 : Statement (.burstRowLanding a0 a1) :=
  fun _ _ h => no_slot h
theorem Sys2Proof.Laws.RoundTrip.copyRow a0 a1 a2 : Statement (.copyRow a0 a1 a2) :=
  fun _ _ h => no_slot h
theorem Sys2Proof.Laws.RoundTrip.troughPush a0 a1 a2 : Statement (.troughPush a0 a1 a2) :=
  fun _ _ h => no_slot h
theorem Sys2Proof.Laws.RoundTrip.troughPop a0 a1 : Statement (.troughPop a0 a1) :=
  fun _ _ h => no_slot h
theorem Sys2Proof.Laws.RoundTrip.scaleRead a0 a1 : Statement (.scaleRead a0 a1) :=
  fun _ _ h => no_slot h
theorem Sys2Proof.Laws.RoundTrip.accRowFinal a0 a1 : Statement (.accRowFinal a0 a1) :=
  fun _ _ h => no_slot h
theorem Sys2Proof.Laws.RoundTrip.followOnIssue a0 a1 a2 : Statement (.followOnIssue a0 a1 a2) :=
  fun _ _ h => no_slot h
theorem Sys2Proof.Laws.RoundTrip.sweepWord a0 a1 : Statement (.sweepWord a0 a1) :=
  fun _ _ h => no_slot h
theorem Sys2Proof.Laws.RoundTrip.sweepResult a0 a1 : Statement (.sweepResult a0 a1) :=
  fun _ _ h => no_slot h
theorem Sys2Proof.Laws.RoundTrip.stagingComplete a0 a1 a2 : Statement (.stagingComplete a0 a1 a2) :=
  fun _ _ h => no_slot h
theorem Sys2Proof.Laws.RoundTrip.sliceAccess a0 a1 a2 : Statement (.sliceAccess a0 a1 a2) :=
  fun _ _ h => no_slot h
theorem Sys2Proof.Laws.RoundTrip.bulkMessage a0 : Statement (.bulkMessage a0) :=
  fun _ _ h => no_slot h
theorem Sys2Proof.Laws.RoundTrip.hbmSlot a0 a1 : Statement (.hbmSlot a0 a1) :=
  fun _ _ h => no_slot h
theorem Sys2Proof.Laws.RoundTrip.flitReceive a0 a1 : Statement (.flitReceive a0 a1) :=
  fun _ _ h => no_slot h
theorem Sys2Proof.Laws.RoundTrip.replay a0 a1 : Statement (.replay a0 a1) :=
  fun _ _ h => no_slot h
theorem Sys2Proof.Laws.RoundTrip.parityFlit a0 a1 : Statement (.parityFlit a0 a1) :=
  fun _ _ h => no_slot h
theorem Sys2Proof.Laws.RoundTrip.laneSwitch a0 : Statement (.laneSwitch a0) :=
  fun _ _ h => no_slot h
theorem Sys2Proof.Laws.RoundTrip.reservationRelay a0 : Statement (.reservationRelay a0) :=
  fun _ _ h => no_slot h
theorem Sys2Proof.Laws.RoundTrip.collectiveDataFrame a0 a1 : Statement (.collectiveDataFrame a0 a1) :=
  fun _ _ h => no_slot h
theorem Sys2Proof.Laws.RoundTrip.ackFrame a0 a1 : Statement (.ackFrame a0 a1) :=
  fun _ _ h => no_slot h
theorem Sys2Proof.Laws.RoundTrip.wakeFrame a0 a1 : Statement (.wakeFrame a0 a1) :=
  fun _ _ h => no_slot h
theorem Sys2Proof.Laws.RoundTrip.abortFrame a0 a1 : Statement (.abortFrame a0 a1) :=
  fun _ _ h => no_slot h
theorem Sys2Proof.Laws.RoundTrip.retransmitTimeout a0 a1 a2 : Statement (.retransmitTimeout a0 a1 a2) :=
  fun _ _ h => no_slot h
theorem Sys2Proof.Laws.RoundTrip.seqFire a0 a1 : Statement (.seqFire a0 a1) :=
  fun _ _ h => no_slot h
theorem Sys2Proof.Laws.RoundTrip.seqEntryEnd a0 : Statement (.seqEntryEnd a0) :=
  fun _ _ h => no_slot h
theorem Sys2Proof.Laws.RoundTrip.bucketDecay  : Statement (.bucketDecay ) :=
  fun _ _ h => no_slot h
theorem Sys2Proof.Laws.RoundTrip.uncorrectableError a0 : Statement (.uncorrectableError a0) :=
  fun _ _ h => no_slot h
theorem Sys2Proof.Laws.RoundTrip.alignMarker a0 a1 a2 : Statement (.alignMarker a0 a1 a2) :=
  fun _ _ h => no_slot h
theorem Sys2Proof.Laws.RoundTrip.fieldRealigned a0 : Statement (.fieldRealigned a0) :=
  fun _ _ h => no_slot h
theorem Sys2Proof.Laws.RoundTrip.powerUpStandby  : Statement (.powerUpStandby ) :=
  fun _ _ h => no_slot h
theorem Sys2Proof.Laws.RoundTrip.powerOff a0 a1 : Statement (.powerOff a0 a1) :=
  fun _ _ h => no_slot h
theorem Sys2Proof.Laws.RoundTrip.thermalTrip a0 : Statement (.thermalTrip a0) :=
  fun _ _ h => no_slot h
theorem Sys2Proof.Laws.RoundTrip.portReset a0 : Statement (.portReset a0) :=
  fun _ _ h => no_slot h
theorem Sys2Proof.Laws.RoundTrip.smbusAccess a0 : Statement (.smbusAccess a0) :=
  fun _ _ h => no_slot h
theorem Sys2Proof.Laws.RoundTrip.entryTake a0 : Statement (.entryTake a0) :=
  fun _ _ h => no_slot h
theorem Sys2Proof.Laws.RoundTrip.dependenceRecheck a0 : Statement (.dependenceRecheck a0) :=
  fun _ _ h => no_slot h
theorem Sys2Proof.Laws.RoundTrip.launch a0 a1 : Statement (.launch a0 a1) :=
  fun _ _ h => no_slot h
theorem Sys2Proof.Laws.RoundTrip.wait a0 a1 : Statement (.wait a0 a1) :=
  fun _ _ h => no_slot h
theorem Sys2Proof.Laws.RoundTrip.signal a0 a1 : Statement (.signal a0 a1) :=
  fun _ _ h => no_slot h
theorem Sys2Proof.Laws.RoundTrip.signalWrite a0 a1 : Statement (.signalWrite a0 a1) :=
  fun _ _ h => no_slot h
theorem Sys2Proof.Laws.RoundTrip.fence a0 a1 : Statement (.fence a0 a1) :=
  fun _ _ h => no_slot h
theorem Sys2Proof.Laws.RoundTrip.receipt a0 a1 : Statement (.receipt a0 a1) :=
  fun _ _ h => no_slot h
theorem Sys2Proof.Laws.RoundTrip.receiptWrite a0 a1 : Statement (.receiptWrite a0 a1) :=
  fun _ _ h => no_slot h
theorem Sys2Proof.Laws.RoundTrip.scheduleCommit a0 : Statement (.scheduleCommit a0) :=
  fun _ _ h => no_slot h
theorem Sys2Proof.Laws.RoundTrip.launchStart a0 : Statement (.launchStart a0) :=
  fun _ _ h => no_slot h
theorem Sys2Proof.Laws.RoundTrip.launchRetire a0 : Statement (.launchRetire a0) :=
  fun _ _ h => no_slot h
theorem Sys2Proof.Laws.RoundTrip.preemptRequest a0 : Statement (.preemptRequest a0) :=
  fun _ _ h => no_slot h
theorem Sys2Proof.Laws.RoundTrip.watchdog a0 : Statement (.watchdog a0) :=
  fun _ _ h => no_slot h
theorem Sys2Proof.Laws.RoundTrip.freezeStop a0 : Statement (.freezeStop a0) :=
  fun _ _ h => no_slot h
theorem Sys2Proof.Laws.RoundTrip.freezeCaptured a0 : Statement (.freezeCaptured a0) :=
  fun _ _ h => no_slot h
theorem Sys2Proof.Laws.RoundTrip.trapRecordWrite a0 : Statement (.trapRecordWrite a0) :=
  fun _ _ h => no_slot h
theorem Sys2Proof.Laws.RoundTrip.resume a0 : Statement (.resume a0) :=
  fun _ _ h => no_slot h
theorem Sys2Proof.Laws.RoundTrip.stabling a0 : Statement (.stabling a0) :=
  fun _ _ h => no_slot h
theorem Sys2Proof.Laws.RoundTrip.restore a0 : Statement (.restore a0) :=
  fun _ _ h => no_slot h
theorem Sys2Proof.Laws.RoundTrip.pllLockLoss a0 : Statement (.pllLockLoss a0) :=
  fun _ _ h => no_slot h
theorem Sys2Proof.Laws.RoundTrip.firmwareContextRestart a0 a1 : Statement (.firmwareContextRestart a0 a1) :=
  fun _ _ h => no_slot h
theorem Sys2Proof.Laws.RoundTrip.frontEndServiceRequest a0 : Statement (.frontEndServiceRequest a0) :=
  fun _ _ h => no_slot h
theorem Sys2Proof.Laws.RoundTrip.sliceRemap a0 a1 a2 : Statement (.sliceRemap a0 a1 a2) :=
  fun _ _ h => no_slot h
theorem Sys2Proof.Laws.RoundTrip.wakeWrite a0 a1 a2 : Statement (.wakeWrite a0 a1 a2) :=
  fun _ _ h => no_slot h
theorem Sys2Proof.Laws.RoundTrip.pcreate a0 : Statement (.pcreate a0) :=
  fun _ _ h => no_slot h
theorem Sys2Proof.Laws.RoundTrip.pdestroy a0 : Statement (.pdestroy a0) :=
  fun _ _ h => no_slot h
theorem Sys2Proof.Laws.RoundTrip.passign a0 : Statement (.passign a0) :=
  fun _ _ h => no_slot h
theorem Sys2Proof.Laws.RoundTrip.retire a0 : Statement (.retire a0) :=
  fun _ _ h => no_slot h
theorem Sys2Proof.Laws.RoundTrip.loan a0 : Statement (.loan a0) :=
  fun _ _ h => no_slot h
theorem Sys2Proof.Laws.RoundTrip.mpowerOn a0 : Statement (.mpowerOn a0) :=
  fun _ _ h => no_slot h
theorem Sys2Proof.Laws.RoundTrip.mpowerStandby a0 : Statement (.mpowerStandby a0) :=
  fun _ _ h => no_slot h
theorem Sys2Proof.Laws.RoundTrip.moduleReady  : Statement (.moduleReady ) :=
  fun _ _ h => no_slot h
theorem Sys2Proof.Laws.RoundTrip.ppowerActive a0 : Statement (.ppowerActive a0) :=
  fun _ _ h => no_slot h
theorem Sys2Proof.Laws.RoundTrip.ppowerIdle a0 : Statement (.ppowerIdle a0) :=
  fun _ _ h => no_slot h
theorem Sys2Proof.Laws.RoundTrip.ppowerRetain a0 : Statement (.ppowerRetain a0) :=
  fun _ _ h => no_slot h
theorem Sys2Proof.Laws.RoundTrip.ppowerDark a0 : Statement (.ppowerDark a0) :=
  fun _ _ h => no_slot h
theorem Sys2Proof.Laws.RoundTrip.powerTransitionDone a0 : Statement (.powerTransitionDone a0) :=
  fun _ _ h => no_slot h
theorem Sys2Proof.Laws.RoundTrip.qresume a0 : Statement (.qresume a0) :=
  fun _ _ h => no_slot h
theorem Sys2Proof.Laws.RoundTrip.sqown a0 : Statement (.sqown a0) :=
  fun _ _ h => no_slot h
theorem Sys2Proof.Laws.RoundTrip.sqownRelease a0 : Statement (.sqownRelease a0) :=
  fun _ _ h => no_slot h
theorem Sys2Proof.Laws.RoundTrip.unknownCmdop a0 a1 : Statement (.unknownCmdop a0 a1) :=
  fun _ _ h => no_slot h
theorem Sys2Proof.Laws.RoundTrip.ownsemAcquire a0 : Statement (.ownsemAcquire a0) :=
  fun _ _ h => no_slot h
theorem Sys2Proof.Laws.RoundTrip.ownsemRelease a0 : Statement (.ownsemRelease a0) :=
  fun _ _ h => no_slot h
theorem Sys2Proof.Laws.RoundTrip.queueEnable a0 a1 : Statement (.queueEnable a0 a1) :=
  fun _ _ h => no_slot h
theorem Sys2Proof.Laws.RoundTrip.queueDisable a0 a1 : Statement (.queueDisable a0 a1) :=
  fun _ _ h => no_slot h
theorem Sys2Proof.Laws.RoundTrip.qportChange a0 a1 : Statement (.qportChange a0 a1) :=
  fun _ _ h => no_slot h
theorem Sys2Proof.Laws.RoundTrip.evtailWrite a0 a1 : Statement (.evtailWrite a0 a1) :=
  fun _ _ h => no_slot h
theorem Sys2Proof.Laws.RoundTrip.evovfClear a0 : Statement (.evovfClear a0) :=
  fun _ _ h => no_slot h
theorem Sys2Proof.Laws.RoundTrip.dropcntClear a0 a1 : Statement (.dropcntClear a0 a1) :=
  fun _ _ h => no_slot h
theorem Sys2Proof.Laws.RoundTrip.tqackWrite a0 a1 a2 : Statement (.tqackWrite a0 a1 a2) :=
  fun _ _ h => no_slot h
theorem Sys2Proof.Laws.RoundTrip.tqlostRead a0 a1 : Statement (.tqlostRead a0 a1) :=
  fun _ _ h => no_slot h
theorem Sys2Proof.Laws.RoundTrip.mgrpWrite a0 a1 a2 : Statement (.mgrpWrite a0 a1 a2) :=
  fun _ _ h => no_slot h
theorem Sys2Proof.Laws.RoundTrip.hctlMode a0 a1 a2 : Statement (.hctlMode a0 a1 a2) :=
  fun _ _ h => no_slot h
theorem Sys2Proof.Laws.RoundTrip.hctlRepapply a0 a1 : Statement (.hctlRepapply a0 a1) :=
  fun _ _ h => no_slot h
theorem Sys2Proof.Laws.RoundTrip.herrClear a0 a1 : Statement (.herrClear a0 a1) :=
  fun _ _ h => no_slot h
theorem Sys2Proof.Laws.RoundTrip.hstatRead a0 a1 : Statement (.hstatRead a0 a1) :=
  fun _ _ h => no_slot h
theorem Sys2Proof.Laws.RoundTrip.ucieStatusRead a0 : Statement (.ucieStatusRead a0) :=
  fun _ _ h => no_slot h
theorem Sys2Proof.Laws.RoundTrip.susClear a0 a1 : Statement (.susClear a0 a1) :=
  fun _ _ h => no_slot h
theorem Sys2Proof.Laws.RoundTrip.registerWrite a0 a1 a2 a3 : Statement (.registerWrite a0 a1 a2 a3) :=
  fun _ _ h => no_slot h
theorem Sys2Proof.Laws.RoundTrip.bar4Read a0 a1 a2 : Statement (.bar4Read a0 a1 a2) :=
  fun _ _ h => no_slot h
theorem Sys2Proof.Laws.RoundTrip.bar4Write a0 a1 a2 a3 : Statement (.bar4Write a0 a1 a2 a3) :=
  fun _ _ h => no_slot h
theorem Sys2Proof.Laws.RoundTrip.seqHostFire a0 a1 : Statement (.seqHostFire a0 a1) :=
  fun _ _ h => no_slot h
theorem Sys2Proof.Laws.RoundTrip.slotTableWrite a0 a1 a2 : Statement (.slotTableWrite a0 a1 a2) :=
  fun _ _ h => no_slot h
end

