-- ==== Sys2Proof/Laws/Sparse.lean ====
section
/-! SUPPORT. What the operations of sparse maps do: reads after writes, and the canonical form kept. -/

namespace Sys2Proof.Machine

variable {α : Type}

theorem sget_sdel_same (d : α) (m : Sparse α) (n : Nat) : sget d (sdel m n) n = d := by
  induction m with
  | nil => rfl
  | cons e m ih =>
    obtain ⟨k, v⟩ := e
    by_cases h : n = k
    · simp only [sdel, if_pos h, ih]
    · simp only [sdel, if_neg h, sget, ih]

theorem sget_sdel_other (d : α) (m : Sparse α) {n a : Nat} (ha : a ≠ n) : sget d (sdel m n) a = sget d m a := by
  induction m with
  | nil => rfl
  | cons e m ih =>
    obtain ⟨k, v⟩ := e
    by_cases h : n = k
    · simp only [sdel, if_pos h, ih, sget, if_neg (h ▸ ha)]
    · simp only [sdel, if_neg h, sget, ih]

theorem sget_sins_same (d : α) (m : Sparse α) (n : Nat) (v : α) (h : ∀ e ∈ m, e.1 ≠ n) :
    sget d (sins m n v) n = v := by
  induction m with
  | nil => simp [sins, sget]
  | cons e m ih =>
    obtain ⟨k, w⟩ := e
    have hk : n ≠ k := fun hh => h (k, w) (by simp) hh.symm
    by_cases hlt : n < k
    · simp [sins, hlt, sget]
    · simp only [sins, if_neg hlt, sget, if_neg hk]
      exact ih fun e he => h e (List.mem_cons_of_mem _ he)

theorem sget_sins_other (d : α) (m : Sparse α) {n a : Nat} (v : α) (ha : a ≠ n) :
    sget d (sins m n v) a = sget d m a := by
  induction m with
  | nil => simp [sins, sget, ha]
  | cons e m ih =>
    obtain ⟨k, w⟩ := e
    by_cases hlt : n < k
    · simp [sins, hlt, sget, ha]
    · simp only [sins, if_neg hlt, sget, ih]

theorem sdel_no_key (m : Sparse α) (n : Nat) : ∀ e ∈ sdel m n, e.1 ≠ n := by
  induction m with
  | nil => simp [sdel]
  | cons e m ih =>
    obtain ⟨k, v⟩ := e
    by_cases h : n = k
    · rw [sdel, if_pos h]; exact ih
    · simp only [sdel, if_neg h, List.mem_cons]
      rintro e (rfl | he)
      · exact fun hh => h hh.symm
      · exact ih e he

variable [DecidableEq α]

/-- Reading the key written gives the value written. -/
@[simp] theorem sget_sset_same (d : α) (m : Sparse α) (n : Nat) (v : α) : sget d (sset d m n v) n = v := by
  by_cases h : v = d
  · rw [sset, if_pos h, sget_sdel_same, h]
  · rw [sset, if_neg h, sget_sins_same d _ n v (sdel_no_key m n)]

/-- A write leaves every other key alone. -/
theorem sget_sset_other (d : α) (m : Sparse α) {n a : Nat} (v : α) (ha : a ≠ n) :
    sget d (sset d m n v) a = sget d m a := by
  by_cases h : v = d
  · rw [sset, if_pos h, sget_sdel_other d m ha]
  · rw [sset, if_neg h, sget_sins_other d _ v ha, sget_sdel_other d m ha]

/-- Both cases of a read after a write. -/
theorem sget_sset (d : α) (m : Sparse α) (n a : Nat) (v : α) :
    sget d (sset d m n v) a = if a = n then v else sget d m a := by
  by_cases h : a = n
  · subst h; simp
  · simp [h, sget_sset_other d m v h]

theorem swfFrom_mono (d : α) {a b : Nat} (hab : b ≤ a) {m : Sparse α} (h : swfFrom d a m = true) :
    swfFrom d b m = true := by
  cases m with
  | nil => rfl
  | cons e m =>
    obtain ⟨k, v⟩ := e
    simp only [swfFrom, Bool.and_eq_true, decide_eq_true_eq] at h ⊢
    exact ⟨⟨by omega, h.1.2⟩, h.2⟩

theorem swfFrom_sdel (d : α) (n : Nat) {a : Nat} {m : Sparse α} (h : swfFrom d a m = true) :
    swfFrom d a (sdel m n) = true := by
  induction m generalizing a with
  | nil => rfl
  | cons e m ih =>
    obtain ⟨k, v⟩ := e
    simp only [swfFrom, Bool.and_eq_true, decide_eq_true_eq] at h
    by_cases hk : n = k
    · simp only [sdel, if_pos hk]
      exact swfFrom_mono d (by omega) (ih h.2)
    · simp only [sdel, if_neg hk, swfFrom, Bool.and_eq_true, decide_eq_true_eq]
      exact ⟨h.1, ih h.2⟩

theorem swfFrom_sins (d : α) {n : Nat} {v : α} (hv : v ≠ d) {a : Nat} (ha : a ≤ n) {m : Sparse α}
    (h : swfFrom d a m = true) (hn : ∀ e ∈ m, e.1 ≠ n) : swfFrom d a (sins m n v) = true := by
  induction m generalizing a with
  | nil => simp [sins, swfFrom, ha, hv]
  | cons e m ih =>
    obtain ⟨k, w⟩ := e
    have hk : k ≠ n := hn (k, w) (by simp)
    simp only [swfFrom, Bool.and_eq_true, decide_eq_true_eq] at h
    by_cases hlt : n < k
    · simp only [sins, if_pos hlt, swfFrom, Bool.and_eq_true, decide_eq_true_eq]
      exact ⟨⟨ha, hv⟩, ⟨⟨by omega, h.1.2⟩, h.2⟩⟩
    · simp only [sins, if_neg hlt, swfFrom, Bool.and_eq_true, decide_eq_true_eq]
      exact ⟨h.1, ih (by omega) h.2 fun e he => hn e (List.mem_cons_of_mem _ he)⟩

/-- A write keeps the canonical form. -/
theorem swf_sset (d : α) {m : Sparse α} (h : swf d m = true) (n : Nat) (v : α) : swf d (sset d m n v) = true := by
  by_cases hv : v = d
  · rw [sset, if_pos hv]; exact swfFrom_sdel d n h
  · rw [sset, if_neg hv]; exact swfFrom_sins d hv (Nat.zero_le n) (swfFrom_sdel d n h) (sdel_no_key m n)

/-- Writing a list keeps the canonical form. -/
theorem swf_swrite (d : α) (vs : List α) {m : Sparse α} (h : swf d m = true) (k : Nat) :
    swf d (swrite d m k vs) = true := by
  induction vs generalizing m k with
  | nil => exact h
  | cons v vs ih => exact ih (swf_sset d h k v) (k + 1)

theorem swfFrom_sclear (d : α) (k n : Nat) {a : Nat} {m : Sparse α} (h : swfFrom d a m = true) :
    swfFrom d a (sclear m k n) = true := by
  induction m generalizing a with
  | nil => rfl
  | cons e m ih =>
    obtain ⟨j, v⟩ := e
    simp only [swfFrom, Bool.and_eq_true, decide_eq_true_eq] at h
    by_cases hk : j < k ∨ k + n ≤ j
    · simp only [sclear, if_pos hk, swfFrom, Bool.and_eq_true, decide_eq_true_eq]
      exact ⟨h.1, ih h.2⟩
    · simp only [sclear, if_neg hk]
      exact swfFrom_mono d (by omega) (ih h.2)

/-- Clearing a range keeps the canonical form. -/
theorem swf_sclear (d : α) {m : Sparse α} (h : swf d m = true) (k n : Nat) : swf d (sclear m k n) = true :=
  swfFrom_sclear d k n h

/-- Writing a list leaves every key outside its range alone. -/
theorem sget_swrite_other (d : α) (vs : List α) (m : Sparse α) (k a : Nat) (h : a < k ∨ k + vs.length ≤ a) :
    sget d (swrite d m k vs) a = sget d m a := by
  induction vs generalizing m k with
  | nil => rfl
  | cons v vs ih =>
    simp only [List.length_cons] at h
    rw [swrite, ih _ _ (by omega), sget_sset_other d m v (by omega)]

/-- Writing a list puts each of its values at its key. -/
theorem sget_swrite (d : α) (vs : List α) (m : Sparse α) (k i : Nat) (h : i < vs.length) :
    sget d (swrite d m k vs) (k + i) = vs[i] := by
  induction vs generalizing m k i with
  | nil => simp at h
  | cons v vs ih =>
    cases i with
    | zero => rw [swrite, sget_swrite_other d vs _ _ _ (by omega)]; simp
    | succ i =>
      have := ih (sset d m k v) (k + 1) i (by simpa using h)
      simpa [swrite, Nat.add_assoc, Nat.add_comm 1 i] using this

end Sys2Proof.Machine
end

