-- ==== Sys2Proof/Laws/State.lean ====
section
/-! SUPPORT. Reads after writes of the state: tiles, contexts, partitions, and which fields each update leaves. -/

namespace Sys2Proof.Machine

/-! ## Tiles -/

@[simp] theorem tile_setTile_same (s : State) (k : Nat) (t : Tile) : (s.setTile k t).tile k = t := by
  simp [State.tile, State.setTile]
theorem tile_setTile_other (s : State) {k j : Nat} (t : Tile) (h : j ≠ k) : (s.setTile k t).tile j = s.tile j := by
  simp [State.tile, State.setTile, sget_sset_other _ _ _ h]
theorem tile_setTile (s : State) (k j : Nat) (t : Tile) : (s.setTile k t).tile j = if j = k then t else s.tile j := by
  by_cases h : j = k
  · subst h; simp
  · simp [h, tile_setTile_other]
theorem tile_modTile (s : State) (k j : Nat) (f : Tile → Tile) :
    (s.modTile k f).tile j = if j = k then f (s.tile k) else s.tile j := tile_setTile s k j _
@[simp] theorem tile_modTile_same (s : State) (k : Nat) (f : Tile → Tile) : (s.modTile k f).tile k = f (s.tile k) := by
  simp [tile_modTile]

@[simp] theorem setTile_cores (s : State) (k : Nat) (t : Tile) : (s.setTile k t).cores = s.cores := rfl
@[simp] theorem setTile_parts (s : State) (k : Nat) (t : Tile) : (s.setTile k t).parts = s.parts := rfl
@[simp] theorem setTile_dev (s : State) (k : Nat) (t : Tile) : (s.setTile k t).dev = s.dev := rfl
@[simp] theorem setTile_devPoi (s : State) (k : Nat) (t : Tile) : (s.setTile k t).devPoi = s.devPoi := rfl
@[simp] theorem setTile_host (s : State) (k : Nat) (t : Tile) : (s.setTile k t).host = s.host := rfl
@[simp] theorem setTile_image (s : State) (k : Nat) (t : Tile) : (s.setTile k t).image = s.image := rfl
@[simp] theorem setTile_gcyc (s : State) (k : Nat) (t : Tile) : (s.setTile k t).gcyc = s.gcyc := rfl
@[simp] theorem setTile_cur (s : State) (k : Nat) (t : Tile) : (s.setTile k t).cur = s.cur := rfl
@[simp] theorem setTile_part (s : State) (k p : Nat) (t : Tile) : (s.setTile k t).part p = s.part p := rfl
@[simp] theorem setTile_myKey (s : State) (k : Nat) (t : Tile) : (s.setTile k t).myKey = s.myKey := rfl
@[simp] theorem modTile_cores (s : State) (k : Nat) (f : Tile → Tile) : (s.modTile k f).cores = s.cores := rfl
@[simp] theorem modTile_parts (s : State) (k : Nat) (f : Tile → Tile) : (s.modTile k f).parts = s.parts := rfl
@[simp] theorem modTile_dev (s : State) (k : Nat) (f : Tile → Tile) : (s.modTile k f).dev = s.dev := rfl
@[simp] theorem modTile_devPoi (s : State) (k : Nat) (f : Tile → Tile) : (s.modTile k f).devPoi = s.devPoi := rfl
@[simp] theorem modTile_host (s : State) (k : Nat) (f : Tile → Tile) : (s.modTile k f).host = s.host := rfl
@[simp] theorem modTile_image (s : State) (k : Nat) (f : Tile → Tile) : (s.modTile k f).image = s.image := rfl
@[simp] theorem modTile_gcyc (s : State) (k : Nat) (f : Tile → Tile) : (s.modTile k f).gcyc = s.gcyc := rfl
@[simp] theorem modTile_cur (s : State) (k : Nat) (f : Tile → Tile) : (s.modTile k f).cur = s.cur := rfl
@[simp] theorem modTile_part (s : State) (k p : Nat) (f : Tile → Tile) : (s.modTile k f).part p = s.part p := rfl
@[simp] theorem modTile_myKey (s : State) (k : Nat) (f : Tile → Tile) : (s.modTile k f).myKey = s.myKey := rfl

/-! ## Partitions -/

@[simp] theorem part_setPart_same (s : State) (p : Nat) (q : Part) : (s.setPart p q).part p = some q := by
  simp [State.part, State.setPart]
theorem part_setPart (s : State) (p j : Nat) (q : Part) : (s.setPart p q).part j = if j = p then some q else s.part j := by
  simp [State.part, State.setPart, sget_sset]
@[simp] theorem setPart_tile (s : State) (p k : Nat) (q : Part) : (s.setPart p q).tile k = s.tile k := rfl
@[simp] theorem setPart_tiles (s : State) (p : Nat) (q : Part) : (s.setPart p q).tiles = s.tiles := rfl
@[simp] theorem setPart_cores (s : State) (p : Nat) (q : Part) : (s.setPart p q).cores = s.cores := rfl
@[simp] theorem setPart_dev (s : State) (p : Nat) (q : Part) : (s.setPart p q).dev = s.dev := rfl
@[simp] theorem setPart_devPoi (s : State) (p : Nat) (q : Part) : (s.setPart p q).devPoi = s.devPoi := rfl
@[simp] theorem setPart_host (s : State) (p : Nat) (q : Part) : (s.setPart p q).host = s.host := rfl
@[simp] theorem setPart_image (s : State) (p : Nat) (q : Part) : (s.setPart p q).image = s.image := rfl
@[simp] theorem setPart_gcyc (s : State) (p : Nat) (q : Part) : (s.setPart p q).gcyc = s.gcyc := rfl
@[simp] theorem setPart_cur (s : State) (p : Nat) (q : Part) : (s.setPart p q).cur = s.cur := rfl
@[simp] theorem setPart_ctxAt (s : State) (p : Nat) (q : Part) (w : Who) : (s.setPart p q).ctxAt w = s.ctxAt w := by
  cases w <;> rfl

theorem modPart_eq (s : State) (p : Nat) (f : Part → Part) :
    s.modPart p f = s ∨ ∃ q, s.part p = some q ∧ s.modPart p f = s.setPart p (f q) := by
  unfold State.modPart
  cases h : s.part p with
  | none => exact .inl rfl
  | some q => exact .inr ⟨q, rfl, rfl⟩
theorem modPart_some {s : State} {p : Nat} {q : Part} (h : s.part p = some q) (f : Part → Part) :
    s.modPart p f = s.setPart p (f q) := by
  simp [State.modPart, h]
@[simp] theorem modPart_tile (s : State) (p k : Nat) (f : Part → Part) : (s.modPart p f).tile k = s.tile k := by
  rcases modPart_eq s p f with h | ⟨q, -, h⟩ <;> rw [h] <;> rfl
@[simp] theorem modPart_tiles (s : State) (p : Nat) (f : Part → Part) : (s.modPart p f).tiles = s.tiles := by
  rcases modPart_eq s p f with h | ⟨q, -, h⟩ <;> rw [h] <;> rfl
@[simp] theorem modPart_cores (s : State) (p : Nat) (f : Part → Part) : (s.modPart p f).cores = s.cores := by
  rcases modPart_eq s p f with h | ⟨q, -, h⟩ <;> rw [h] <;> rfl
@[simp] theorem modPart_dev (s : State) (p : Nat) (f : Part → Part) : (s.modPart p f).dev = s.dev := by
  rcases modPart_eq s p f with h | ⟨q, -, h⟩ <;> rw [h] <;> rfl
@[simp] theorem modPart_devPoi (s : State) (p : Nat) (f : Part → Part) : (s.modPart p f).devPoi = s.devPoi := by
  rcases modPart_eq s p f with h | ⟨q, -, h⟩ <;> rw [h] <;> rfl
@[simp] theorem modPart_host (s : State) (p : Nat) (f : Part → Part) : (s.modPart p f).host = s.host := by
  rcases modPart_eq s p f with h | ⟨q, -, h⟩ <;> rw [h] <;> rfl
@[simp] theorem modPart_image (s : State) (p : Nat) (f : Part → Part) : (s.modPart p f).image = s.image := by
  rcases modPart_eq s p f with h | ⟨q, -, h⟩ <;> rw [h] <;> rfl
@[simp] theorem modPart_gcyc (s : State) (p : Nat) (f : Part → Part) : (s.modPart p f).gcyc = s.gcyc := by
  rcases modPart_eq s p f with h | ⟨q, -, h⟩ <;> rw [h] <;> rfl
@[simp] theorem modPart_cur (s : State) (p : Nat) (f : Part → Part) : (s.modPart p f).cur = s.cur := by
  rcases modPart_eq s p f with h | ⟨q, -, h⟩ <;> rw [h] <;> rfl
@[simp] theorem modPart_ctxAt (s : State) (p : Nat) (f : Part → Part) (w : Who) : (s.modPart p f).ctxAt w = s.ctxAt w := by
  rcases modPart_eq s p f with h | ⟨q, -, h⟩ <;> rw [h] <;> cases w <;> rfl

theorem modPartOf_some {s : State} {k p : Nat} (h : (s.tile k).part = some p) (f : Part → Part) :
    s.modPartOf k f = s.modPart p f := by
  simp [State.modPartOf, h]
theorem modPartOf_eq (s : State) (k : Nat) (f : Part → Part) :
    s.modPartOf k f = s ∨ ∃ p, (s.tile k).part = some p ∧ s.modPartOf k f = s.modPart p f := by
  unfold State.modPartOf
  cases h : (s.tile k).part with
  | none => exact .inl rfl
  | some p => exact .inr ⟨p, rfl, rfl⟩
@[simp] theorem modPartOf_tile (s : State) (k j : Nat) (f : Part → Part) : (s.modPartOf k f).tile j = s.tile j := by
  rcases modPartOf_eq s k f with h | ⟨p, -, h⟩ <;> simp [h]
@[simp] theorem modPartOf_cores (s : State) (k : Nat) (f : Part → Part) : (s.modPartOf k f).cores = s.cores := by
  rcases modPartOf_eq s k f with h | ⟨p, -, h⟩ <;> simp [h]
@[simp] theorem modPartOf_dev (s : State) (k : Nat) (f : Part → Part) : (s.modPartOf k f).dev = s.dev := by
  rcases modPartOf_eq s k f with h | ⟨p, -, h⟩ <;> simp [h]
@[simp] theorem modPartOf_devPoi (s : State) (k : Nat) (f : Part → Part) : (s.modPartOf k f).devPoi = s.devPoi := by
  rcases modPartOf_eq s k f with h | ⟨p, -, h⟩ <;> simp [h]
@[simp] theorem modPartOf_host (s : State) (k : Nat) (f : Part → Part) : (s.modPartOf k f).host = s.host := by
  rcases modPartOf_eq s k f with h | ⟨p, -, h⟩ <;> simp [h]
@[simp] theorem modPartOf_image (s : State) (k : Nat) (f : Part → Part) : (s.modPartOf k f).image = s.image := by
  rcases modPartOf_eq s k f with h | ⟨p, -, h⟩ <;> simp [h]
@[simp] theorem modPartOf_gcyc (s : State) (k : Nat) (f : Part → Part) : (s.modPartOf k f).gcyc = s.gcyc := by
  rcases modPartOf_eq s k f with h | ⟨p, -, h⟩ <;> simp [h]
@[simp] theorem modPartOf_cur (s : State) (k : Nat) (f : Part → Part) : (s.modPartOf k f).cur = s.cur := by
  rcases modPartOf_eq s k f with h | ⟨p, -, h⟩ <;> simp [h]
@[simp] theorem modPartOf_ctxAt (s : State) (k : Nat) (f : Part → Part) (w : Who) : (s.modPartOf k f).ctxAt w = s.ctxAt w := by
  rcases modPartOf_eq s k f with h | ⟨p, -, h⟩ <;> simp [h]

/-! ## Contexts -/

@[simp] theorem ctxAt_setCtxAt_same (s : State) (w : Who) (c : Ctx) : (s.setCtxAt w c).ctxAt w = c := by
  cases w <;> simp [State.setCtxAt, State.ctxAt]
@[simp] theorem setCtxAt_parts (s : State) (w : Who) (c : Ctx) : (s.setCtxAt w c).parts = s.parts := by cases w <;> rfl
@[simp] theorem setCtxAt_part (s : State) (w : Who) (c : Ctx) (p : Nat) : (s.setCtxAt w c).part p = s.part p := by
  cases w <;> rfl
@[simp] theorem setCtxAt_dev (s : State) (w : Who) (c : Ctx) : (s.setCtxAt w c).dev = s.dev := by cases w <;> rfl
@[simp] theorem setCtxAt_devPoi (s : State) (w : Who) (c : Ctx) : (s.setCtxAt w c).devPoi = s.devPoi := by cases w <;> rfl
@[simp] theorem setCtxAt_host (s : State) (w : Who) (c : Ctx) : (s.setCtxAt w c).host = s.host := by cases w <;> rfl
@[simp] theorem setCtxAt_image (s : State) (w : Who) (c : Ctx) : (s.setCtxAt w c).image = s.image := by cases w <;> rfl
@[simp] theorem setCtxAt_gcyc (s : State) (w : Who) (c : Ctx) : (s.setCtxAt w c).gcyc = s.gcyc := by cases w <;> rfl
@[simp] theorem setCtxAt_cur (s : State) (w : Who) (c : Ctx) : (s.setCtxAt w c).cur = s.cur := by cases w <;> rfl
@[simp] theorem setCtxAt_fields (s : State) (w : Who) (c : Ctx) : (s.setCtxAt w c).fields = s.fields := by cases w <;> rfl

@[simp] theorem modCtx_cur (s : State) (f : Ctx → Ctx) : (s.modCtx f).cur = s.cur := setCtxAt_cur ..
@[simp] theorem modCtx_ctx (s : State) (f : Ctx → Ctx) : (s.modCtx f).ctx = f s.ctx := by
  simp [State.modCtx, State.ctx]
@[simp] theorem modCtx_parts (s : State) (f : Ctx → Ctx) : (s.modCtx f).parts = s.parts := setCtxAt_parts ..
@[simp] theorem modCtx_part (s : State) (f : Ctx → Ctx) (p : Nat) : (s.modCtx f).part p = s.part p := setCtxAt_part ..
@[simp] theorem modCtx_dev (s : State) (f : Ctx → Ctx) : (s.modCtx f).dev = s.dev := setCtxAt_dev ..
@[simp] theorem modCtx_devPoi (s : State) (f : Ctx → Ctx) : (s.modCtx f).devPoi = s.devPoi := setCtxAt_devPoi ..
@[simp] theorem modCtx_host (s : State) (f : Ctx → Ctx) : (s.modCtx f).host = s.host := setCtxAt_host ..
@[simp] theorem modCtx_image (s : State) (f : Ctx → Ctx) : (s.modCtx f).image = s.image := setCtxAt_image ..
@[simp] theorem modCtx_gcyc (s : State) (f : Ctx → Ctx) : (s.modCtx f).gcyc = s.gcyc := setCtxAt_gcyc ..

@[simp] theorem push_cur (s : State) (l : Latch) : (s.push l).cur = s.cur := modCtx_cur ..
@[simp] theorem push_ctx (s : State) (l : Latch) : (s.push l).ctx = s.ctx.push l := modCtx_ctx ..
@[simp] theorem push_parts (s : State) (l : Latch) : (s.push l).parts = s.parts := modCtx_parts ..
@[simp] theorem push_part (s : State) (l : Latch) (p : Nat) : (s.push l).part p = s.part p := modCtx_part ..
@[simp] theorem push_dev (s : State) (l : Latch) : (s.push l).dev = s.dev := modCtx_dev ..
@[simp] theorem push_devPoi (s : State) (l : Latch) : (s.push l).devPoi = s.devPoi := modCtx_devPoi ..
@[simp] theorem push_host (s : State) (l : Latch) : (s.push l).host = s.host := modCtx_host ..
@[simp] theorem push_image (s : State) (l : Latch) : (s.push l).image = s.image := modCtx_image ..
@[simp] theorem push_gcyc (s : State) (l : Latch) : (s.push l).gcyc = s.gcyc := modCtx_gcyc ..

/-! ## Fields, links, queues, ports, channels, entries and runs -/

theorem field_modField (s : State) (n j : Nat) (f : FieldSt → FieldSt) :
    (s.modField n f).field j = if j = n then f (s.field n) else s.field j := by simp [State.field, State.modField, sget_sset]
@[simp] theorem field_modField_same (s : State) (n : Nat) (f : FieldSt → FieldSt) : (s.modField n f).field n = f (s.field n) := by
  simp [field_modField]
@[simp] theorem modField_tile (s : State) (n : Nat) (f : FieldSt → FieldSt) (k : Nat) : (s.modField n f).tile k = s.tile k := rfl
@[simp] theorem modField_part (s : State) (n : Nat) (f : FieldSt → FieldSt) (k : Nat) : (s.modField n f).part k = s.part k := rfl
@[simp] theorem modField_agenda (s : State) (n : Nat) (f : FieldSt → FieldSt) : (s.modField n f).agenda = s.agenda := rfl
@[simp] theorem modField_gcyc (s : State) (n : Nat) (f : FieldSt → FieldSt) : (s.modField n f).gcyc = s.gcyc := rfl
@[simp] theorem modField_cur (s : State) (n : Nat) (f : FieldSt → FieldSt) : (s.modField n f).cur = s.cur := rfl
@[simp] theorem modField_dev (s : State) (n : Nat) (f : FieldSt → FieldSt) : (s.modField n f).dev = s.dev := rfl
@[simp] theorem modField_host (s : State) (n : Nat) (f : FieldSt → FieldSt) : (s.modField n f).host = s.host := rfl
theorem link_modLink (s : State) (n j : Nat) (f : Ucie → Ucie) :
    (s.modLink n f).link j = if j = n then f (s.link n) else s.link j := by simp [State.link, State.modLink, sget_sset]
@[simp] theorem link_modLink_same (s : State) (n : Nat) (f : Ucie → Ucie) : (s.modLink n f).link n = f (s.link n) := by
  simp [link_modLink]
@[simp] theorem modLink_tile (s : State) (n : Nat) (f : Ucie → Ucie) (k : Nat) : (s.modLink n f).tile k = s.tile k := rfl
@[simp] theorem modLink_part (s : State) (n : Nat) (f : Ucie → Ucie) (k : Nat) : (s.modLink n f).part k = s.part k := rfl
@[simp] theorem modLink_agenda (s : State) (n : Nat) (f : Ucie → Ucie) : (s.modLink n f).agenda = s.agenda := rfl
@[simp] theorem modLink_gcyc (s : State) (n : Nat) (f : Ucie → Ucie) : (s.modLink n f).gcyc = s.gcyc := rfl
@[simp] theorem modLink_cur (s : State) (n : Nat) (f : Ucie → Ucie) : (s.modLink n f).cur = s.cur := rfl
@[simp] theorem modLink_dev (s : State) (n : Nat) (f : Ucie → Ucie) : (s.modLink n f).dev = s.dev := rfl
@[simp] theorem modLink_host (s : State) (n : Nat) (f : Ucie → Ucie) : (s.modLink n f).host = s.host := rfl
theorem queue_modQueue (s : State) (n j : Nat) (f : Queue → Queue) :
    (s.modQueue n f).queue j = if j = n then f (s.queue n) else s.queue j := by simp [State.queue, State.modQueue, sget_sset]
@[simp] theorem queue_modQueue_same (s : State) (n : Nat) (f : Queue → Queue) : (s.modQueue n f).queue n = f (s.queue n) := by
  simp [queue_modQueue]
@[simp] theorem modQueue_tile (s : State) (n : Nat) (f : Queue → Queue) (k : Nat) : (s.modQueue n f).tile k = s.tile k := rfl
@[simp] theorem modQueue_part (s : State) (n : Nat) (f : Queue → Queue) (k : Nat) : (s.modQueue n f).part k = s.part k := rfl
@[simp] theorem modQueue_agenda (s : State) (n : Nat) (f : Queue → Queue) : (s.modQueue n f).agenda = s.agenda := rfl
@[simp] theorem modQueue_gcyc (s : State) (n : Nat) (f : Queue → Queue) : (s.modQueue n f).gcyc = s.gcyc := rfl
@[simp] theorem modQueue_cur (s : State) (n : Nat) (f : Queue → Queue) : (s.modQueue n f).cur = s.cur := rfl
@[simp] theorem modQueue_dev (s : State) (n : Nat) (f : Queue → Queue) : (s.modQueue n f).dev = s.dev := rfl
@[simp] theorem modQueue_host (s : State) (n : Nat) (f : Queue → Queue) : (s.modQueue n f).host = s.host := rfl
theorem port_modPort (s : State) (n j : Nat) (f : Port → Port) :
    (s.modPort n f).port j = if j = n then f (s.port n) else s.port j := by simp [State.port, State.modPort, sget_sset]
@[simp] theorem port_modPort_same (s : State) (n : Nat) (f : Port → Port) : (s.modPort n f).port n = f (s.port n) := by
  simp [port_modPort]
@[simp] theorem modPort_tile (s : State) (n : Nat) (f : Port → Port) (k : Nat) : (s.modPort n f).tile k = s.tile k := rfl
@[simp] theorem modPort_part (s : State) (n : Nat) (f : Port → Port) (k : Nat) : (s.modPort n f).part k = s.part k := rfl
@[simp] theorem modPort_agenda (s : State) (n : Nat) (f : Port → Port) : (s.modPort n f).agenda = s.agenda := rfl
@[simp] theorem modPort_gcyc (s : State) (n : Nat) (f : Port → Port) : (s.modPort n f).gcyc = s.gcyc := rfl
@[simp] theorem modPort_cur (s : State) (n : Nat) (f : Port → Port) : (s.modPort n f).cur = s.cur := rfl
@[simp] theorem modPort_dev (s : State) (n : Nat) (f : Port → Port) : (s.modPort n f).dev = s.dev := rfl
@[simp] theorem modPort_host (s : State) (n : Nat) (f : Port → Port) : (s.modPort n f).host = s.host := rfl
theorem chan_modChan (s : State) (n j : Nat) (f : HChan → HChan) :
    (s.modChan n f).chan j = if j = n then f (s.chan n) else s.chan j := by simp [State.chan, State.modChan, sget_sset]
@[simp] theorem chan_modChan_same (s : State) (n : Nat) (f : HChan → HChan) : (s.modChan n f).chan n = f (s.chan n) := by
  simp [chan_modChan]
@[simp] theorem modChan_tile (s : State) (n : Nat) (f : HChan → HChan) (k : Nat) : (s.modChan n f).tile k = s.tile k := rfl
@[simp] theorem modChan_part (s : State) (n : Nat) (f : HChan → HChan) (k : Nat) : (s.modChan n f).part k = s.part k := rfl
@[simp] theorem modChan_agenda (s : State) (n : Nat) (f : HChan → HChan) : (s.modChan n f).agenda = s.agenda := rfl
@[simp] theorem modChan_gcyc (s : State) (n : Nat) (f : HChan → HChan) : (s.modChan n f).gcyc = s.gcyc := rfl
@[simp] theorem modChan_cur (s : State) (n : Nat) (f : HChan → HChan) : (s.modChan n f).cur = s.cur := rfl
@[simp] theorem modChan_dev (s : State) (n : Nat) (f : HChan → HChan) : (s.modChan n f).dev = s.dev := rfl
@[simp] theorem modChan_host (s : State) (n : Nat) (f : HChan → HChan) : (s.modChan n f).host = s.host := rfl
theorem entry_setEntry (s : State) (n j : Nat) (e : BitVec 512) : (s.setEntry n e).entry j = if j = n then e else s.entry j := by
  simp [State.entry, State.setEntry, sget_sset]
@[simp] theorem entry_setEntry_same (s : State) (n : Nat) (e : BitVec 512) : (s.setEntry n e).entry n = e := by
  simp [entry_setEntry]
@[simp] theorem setEntry_run (s : State) (n j : Nat) (e : BitVec 512) : (s.setEntry n e).run? j = s.run? j := rfl
@[simp] theorem setEntry_tile (s : State) (n k : Nat) (e : BitVec 512) : (s.setEntry n e).tile k = s.tile k := rfl
theorem run_setRun (s : State) (n j : Nat) (r : SeqRun) : (s.setRun n r).run? j = if j = n then some r else s.run? j := by
  simp [State.run?, State.setRun, sget_sset]
@[simp] theorem run_setRun_same (s : State) (n : Nat) (r : SeqRun) : (s.setRun n r).run? n = some r := by simp [run_setRun]
@[simp] theorem setRun_entry (s : State) (n j : Nat) (r : SeqRun) : (s.setRun n r).entry j = s.entry j := rfl
@[simp] theorem setRun_tile (s : State) (n k : Nat) (r : SeqRun) : (s.setRun n r).tile k = s.tile k := rfl
@[simp] theorem tile_modHealth_same (s : State) (k : Nat) (f : Health → Health) :
    (s.modHealth k f).tile k = { s.tile k with health := f (s.tile k).health } := by simp [State.modHealth]
@[simp] theorem modHealth_parts (s : State) (k : Nat) (f : Health → Health) : (s.modHealth k f).parts = s.parts := rfl

/-! ## Registers (R257) -/

@[simp] theorem Ctx.readS_zero (c : Ctx) : c.readS 0 = Scalar.zero := rfl
@[simp] theorem Ctx.writeS_zero (c : Ctx) (v : Scalar) : c.writeS 0 v = c := rfl
theorem Ctx.readS_writeS (c : Ctx) (r q : Nat) (v : Scalar) :
    (c.writeS r v).readS q = if r ≠ 0 ∧ q = r then v else c.readS q := by
  by_cases hr : r = 0
  · subst hr; simp
  · by_cases hq : q = 0
    · have : ¬ (q = r) := fun h => hr (h ▸ hq)
      simp [Ctx.readS, hq, Ne.symm hr]
    · simp [Ctx.readS, Ctx.writeS, hr, hq, sget_sset]
@[simp] theorem Ctx.readP_zero (c : Ctx) : c.readP 0 = ⟨true, false⟩ := rfl
@[simp] theorem Ctx.writeP_zero (c : Ctx) (v : Pred) : c.writeP 0 v = c := rfl
theorem Ctx.readP_writeP (c : Ctx) (r q : Nat) (v : Pred) :
    (c.writeP r v).readP q = if r ≠ 0 ∧ q = r then v else c.readP q := by
  by_cases hr : r = 0
  · subst hr; simp
  · by_cases hq : q = 0
    · simp [Ctx.readP, hq, Ne.symm hr]
    · simp [Ctx.readP, Ctx.writeP, hr, hq, sget_sset]
theorem Ctx.readB_writeB (c : Ctx) (r q : Nat) (v : Btgt) : (c.writeB r v).readB q = if q = r then v else c.readB q := by
  simp [Ctx.readB, Ctx.writeB, sget_sset]
theorem Tile.readV_writeV (t : Tile) (r q : Nat) (v : RowReg) : (t.writeV r v).readV q = if q = r then v else t.readV q := by
  simp [Tile.readV, Tile.writeV, sget_sset]

@[simp] theorem Ctx.push_s (c : Ctx) (l : Latch) : (c.push l).s = c.s := rfl
@[simp] theorem Ctx.push_p (c : Ctx) (l : Latch) : (c.push l).p = c.p := rfl
@[simp] theorem Ctx.push_b (c : Ctx) (l : Latch) : (c.push l).b = c.b := rfl
@[simp] theorem Ctx.push_latches (c : Ctx) (l : Latch) : (c.push l).latches = c.latches ++ [l] := rfl

/-! ## Memory (R10) -/

/-- Writing keeps the canonical form. -/
theorem Memory.wf_write {m : List Host.Cell} (h : Memory.wf m = true) (a : Nat) (bs : List Byte) :
    Memory.wf (Memory.write m a bs) = true := swf_swrite 0#8 bs h a
/-- Clearing keeps the canonical form. -/
theorem Memory.wf_clear {m : List Host.Cell} (h : Memory.wf m = true) (a n : Nat) : Memory.wf (Memory.clear m a n) = true :=
  swf_sclear 0#8 h a n
/-- A byte outside the bytes written reads as before. -/
theorem Memory.read_write_other (m : List Host.Cell) (a b : Nat) (bs : List Byte) (h : b < a ∨ a + bs.length ≤ b) :
    Memory.read (Memory.write m a bs) b = Memory.read m b := sget_swrite_other 0#8 bs m a b h
/-- A byte written reads as written. -/
theorem Memory.read_write (m : List Host.Cell) (a i : Nat) (bs : List Byte) (h : i < bs.length) :
    Memory.read (Memory.write m a bs) (a + i) = bs[i] := sget_swrite 0#8 bs m a i h
/-- Memory after reset has the canonical form. -/
theorem Memory.wf_reset : Memory.wf State.reset.dev = true ∧ Memory.wf State.reset.host = true := by decide
/-- A write to a tile's SRAM keeps the canonical form. -/
theorem Tile.wf_writeSram {t : Tile} (h : Memory.wf t.sram = true) (a : Nat) (bs : List Byte) (poi : Bool) :
    Memory.wf (t.writeSram a bs poi).sram = true := Memory.wf_write h a bs

/-! ## The order of writes (R9) -/

theorem RemOp.meets_comm (a b : RemOp) : a.meets b = b.meets a := by simp [RemOp.meets, Bool.and_comm]
/-- Of two writes no more than one goes before the other. -/
theorem RemOp.goesBefore_asymm {y o : RemOp} {j k : Nat} (h : y.goesBefore j o k = true) : o.goesBefore k y j = false := by
  rw [← Bool.not_eq_true]
  simp only [RemOp.goesBefore, Bool.and_eq_true, Bool.or_eq_true, decide_eq_true_eq, beq_iff_eq] at h ⊢
  omega
/-- All that a rival is. -/
theorem rival_cases {s : State} {k j : Nat} {o y : RemOp} (h : s.rival k o = some (j, y)) :
    ∃ p t, (s.tile k).part = some p ∧ (j, t) ∈ s.tilesOf p ∧ y ∈ t.ops ∧ y.open_ = true ∧ y.late = false ∧
      y.goesBefore j o k = true ∧ s.rootHeld j y = false := by
  unfold State.rival at h
  split at h
  · next p hp =>
    obtain ⟨e, he, h⟩ := List.exists_of_findSome?_eq_some h
    obtain ⟨z, hz, h⟩ := Option.map_eq_some_iff.1 h
    obtain ⟨rfl, rfl⟩ := Prod.mk.inj h
    have hy := List.find?_some hz
    simp only [Bool.and_eq_true, Bool.not_eq_true'] at hy
    exact ⟨p, e.2, hp, he, List.mem_of_find?_eq_some hz, hy.1.1.1, hy.1.1.2, hy.1.2, hy.2⟩
  · cases h

/-! ## Freezes (R84) -/

@[simp] theorem Freeze.displace_bare (z : Freeze) : z.displace.bare = false := rfl
@[simp] theorem Freeze.displace_errors (z : Freeze) : z.displace.errors = if z.bare then z.t :: z.errors else z.errors := rfl
@[simp] theorem Freeze.displace_t (z : Freeze) : z.displace.t = z.t := rfl
@[simp] theorem Freeze.displace_cause (z : Freeze) : z.displace.cause = z.cause := rfl

end Sys2Proof.Machine
end

