-- ==== Sys2Proof/Laws/Slot.lean ====
section
/-! SUPPORT. What the slot rule does (R266, R262, R161), and which formats the checks of R259 let through. -/

namespace Sys2Proof.Machine

theorem guard_on_iff (s : State) (g : Guard) : (s.ctx.guard g).on = true ↔ Acts s g := by
  simp [Ctx.guard, Acts]

@[simp] theorem guard_poi (s : State) (g : Guard) : (s.ctx.guard g).poi = gpoi s g := rfl

/-- A slot that acts and whose checks pass performs its instruction and counts as performed. -/
theorem slot_ok {s t : State} {g : Guard} {ds : List Dest} {act : Bool → State → Try State} (hg : Acts s g)
    (h : act (gpoi s g) s = .ok t) : s.slot g ds act = t.performed := by
  simp only [State.slot, (guard_on_iff s g).2 hg, guard_poi, h, if_true]

/-- A slot that acts and whose checks fail traps or defers, and poisons what it would have written. -/
theorem slot_error {s : State} {g : Guard} {ds : List Dest} {act : Bool → State → Try State} {f : Nat × Nat} (hg : Acts s g)
    (h : act (gpoi s g) s = .error f) : s.slot g ds act = (s.raise f.1 f.2 s.cur.slot).poisonDests ds := by
  simp only [State.slot, (guard_on_iff s g).2 hg, guard_poi, h, if_true]

/-- R266: a slot with a false guard does nothing. -/
theorem slot_idle {s : State} {g : Guard} (ds : List Dest) (act : Bool → State → Try State) (hg : ¬ Acts s g) :
    s.slot g ds act = s := by
  simp only [State.slot, mt (guard_on_iff s g).1 hg]
  rfl

/-- What a slot does to its state is one of three things. -/
theorem slot_cases (s : State) (g : Guard) (ds : List Dest) (act : Bool → State → Try State) :
    s.slot g ds act = s ∨ (∃ t, act (gpoi s g) s = .ok t ∧ s.slot g ds act = t.performed) ∨
      ∃ f, act (gpoi s g) s = .error f ∧ s.slot g ds act = (s.raise f.1 f.2 s.cur.slot).poisonDests ds := by
  by_cases hg : Acts s g
  · cases h : act (gpoi s g) s with
    | ok t => exact .inr (.inl ⟨t, rfl, slot_ok hg h⟩)
    | error f => exact .inr (.inr ⟨f, rfl, slot_error hg h⟩)
  · exact .inl (slot_idle ds act hg)

/-- R245: draws move the stochastic state of the slot's own tile alone. -/
theorem draw_eq (s : State) (n : Nat) : (s.draw n).2 = s ∨
    ∃ la lb, (s.draw n).2 = s.setTile s.myKey { s.tile s.myKey with la := la, lb := lb } := by
  unfold State.draw
  by_cases hn : n = 0
  · exact .inl (by simp [hn])
  · by_cases h2 : s.cur.slot = 2
    · exact .inr ⟨(s.tile s.myKey).la, (draws n (s.tile s.myKey).lb).2, by simp [hn, h2]⟩
    · exact .inr ⟨(draws n (s.tile s.myKey).la).2, (s.tile s.myKey).lb, by simp [hn, h2]⟩
@[simp] theorem draw_cur (s : State) (n : Nat) : (s.draw n).2.cur = s.cur := by
  rcases draw_eq s n with h | ⟨_, _, h⟩ <;> rw [h]; rfl
@[simp] theorem draw_ctx (s : State) (n : Nat) : (s.draw n).2.ctx = s.ctx := by
  rcases draw_eq s n with h | ⟨la, lb, h⟩
  · rw [h]
  · rw [h]; unfold State.ctx State.myKey; rw [setTile_cur]
    cases s.cur.who <;> simp [State.ctxAt, whoKey]
theorem draw_acts {s : State} {g : Guard} (n : Nat) (h : Acts s g) : Acts (s.draw n).2 g := by
  simpa [Acts, draw_ctx] using h
@[simp] theorem draw_gpoi (s : State) (g : Guard) (n : Nat) : gpoi (s.draw n).2 g = gpoi s g := by simp [gpoi]

/-- R245: a vector slot that acts takes its draws first. -/
theorem vslot_ok {s t : State} {g : Guard} {ds : List Dest} {n : Nat} {act : List Nat → Bool → State → Try State}
    (hg : Acts s g) (h : act (s.draw n).1 (gpoi s g) (s.draw n).2 = .ok t) : s.vslot g ds n act = t.performed := by
  have e : s.vslot g ds n act = (s.draw n).2.slot g ds (act (s.draw n).1) := if_pos ((guard_on_iff s g).2 hg)
  rw [e]
  refine slot_ok (draw_acts n hg) ?_
  rw [draw_gpoi]
  exact h

theorem accepts_iff (acc : List Fmt) (x : Option Fmt) (f : Fmt) : accepts acc x f = true ↔ f ∈ acc ∨ x = some f := by
  simp [accepts]

/-- R259, R260: the check passes when every operand is accepted and one of them without the XTAG. -/
theorem checkFmts_ok {acc : List Fmt} {several : Bool} {x : Option Fmt} {ops : List OpTag}
    (h : ∀ o ∈ ops, o.1 ∈ acc ∨ x = some o.1) (hs : several = true → ∃ o ∈ ops, o.1 ∈ acc) :
    checkFmts acc several x ops = .ok () := by
  have hf : (ops.find? fun o => !accepts acc x o.1) = none :=
    List.find?_eq_none.2 fun o ho => by simp [(accepts_iff acc x o.1).2 (h o ho)]
  unfold checkFmts
  rw [hf]
  refine if_neg fun hc => ?_
  simp only [Bool.and_eq_true, Bool.not_eq_true'] at hc
  obtain ⟨⟨hsv, htag⟩, hno⟩ := hc
  obtain ⟨o, ho, hm⟩ := hs hsv
  rcases x with _ | f
  · simp [allTagged] at htag
  · simp only [allTagged, List.all_eq_true, beq_iff_eq] at htag
    rw [htag o ho] at hm
    simp [hm] at hno

/-- R259: the first operand whose format is not accepted is the one that traps. -/
theorem checkFmts_bad {acc : List Fmt} {several : Bool} {x : Option Fmt} {pre post : List OpTag} {o : OpTag}
    (hp : ∀ p ∈ pre, p.1 ∈ acc ∨ x = some p.1) (ho : o.1 ∉ acc ∧ x ≠ some o.1) :
    checkFmts acc several x (pre ++ o :: post) = .error (2, o.2) := by
  have hf : ((pre ++ o :: post).find? fun o => !accepts acc x o.1) = some o := by
    rw [List.find?_append, List.find?_eq_none.2 fun p h => by simp [(accepts_iff acc x p.1).2 (hp p h)]]
    have : accepts acc x o.1 = false := by
      rw [← Bool.not_eq_true, accepts_iff]; simp [ho.1, ho.2]
    simp [this]
  unfold checkFmts
  rw [hf]
  refine if_neg fun hc => ?_
  simp only [Bool.and_eq_true, Bool.not_eq_true'] at hc
  rcases x with _ | f
  · simp [allTagged] at hc
  · have := hc.1.2
    simp only [allTagged, List.all_eq_true, beq_iff_eq] at this
    exact ho.2 (by rw [this o (by simp)])

theorem mem_intFmts {s : State} {a : R5} : IntReg s a ↔ (s.ctx.readS a.toNat).fmt ∈ intFmts := by
  simp [IntReg, sreg, intFmts]

/-- R259, R260: one scalar source of an integer instruction. -/
theorem checkFmts_int1 {s : State} {x : Option Fmt} {a : R5} {several : Bool} (h : IntRead s x [a]) (n : Nat) :
    checkFmts intFmts several x [((s.ctx.readS a.toNat).fmt, n)] = .ok () := by
  obtain ⟨⟨c, hc, hi⟩, hall⟩ := h
  obtain rfl := List.mem_singleton.1 hc
  exact checkFmts_ok (by simp [mem_intFmts.1 hi]) fun _ => ⟨_, List.mem_singleton_self _, mem_intFmts.1 hi⟩

/-- R259, R260: two scalar sources of an integer instruction. -/
theorem checkFmts_int2 {s : State} {x : Option Fmt} {a b : R5} {several : Bool} (h : IntRead s x [a, b]) (n m : Nat) :
    checkFmts intFmts several x [((s.ctx.readS a.toNat).fmt, n), ((s.ctx.readS b.toNat).fmt, m)] = .ok () := by
  obtain ⟨⟨c, hc, hi⟩, hall⟩ := h
  have ha := hall a (by simp)
  have hb := hall b (by simp)
  rw [mem_intFmts] at ha hb hi
  refine checkFmts_ok (by simpa using ⟨ha, hb⟩) fun _ => ?_
  have hc' : c = a ∨ c = b := by simpa using hc
  rcases hc' with rfl | rfl
  · exact ⟨_, List.mem_cons_self, hi⟩
  · exact ⟨_, List.mem_cons_of_mem _ (List.mem_singleton_self _), hi⟩

/-- R259, R260: float sources. -/
theorem checkFmts_fp {x : Prefix} {ops : List OpTag} (h : ∀ o ∈ ops, o.1 = .fp32 ∨ Dec.xOf x = some o.1) :
    checkFmts [.fp32] false (Dec.xOf x) ops = .ok () :=
  checkFmts_ok (by simpa using h) (by simp)

end Sys2Proof.Machine
end

