-- ==== Sys2Proof/Laws/Vector.lean ====
section
/-! SUPPORT. What the shared operations of the scalar and vector slots do when their checks pass. -/

namespace Sys2Proof.Machine

/-- An integer instruction of two scalars. -/
theorem int2_ok {s : State} {g : Guard} {x : Option Fmt} {d a b : R5} (n : Nat) (f : W64 → W64 → W64) (hg : Acts s g)
    (h : IntRead s x [a, b]) : s.int2 g x d a b n f =
      (s.pushS d .i32 (gpoi s g || (sreg s a).poi || (sreg s b).poi) n (f (sreg s a).v (sreg s b).v) 0).performed :=
  slot_ok hg (by simp [checkFmts_int2 h, sreg] <;> rfl)

/-- An integer instruction of one scalar. -/
theorem int1_ok {s : State} {g : Guard} {x : Option Fmt} {d a : R5} (n : Nat) (f : W64 → W64) (hg : Acts s g)
    (h : IntRead s x [a]) :
    s.int1 g x d a n f = (s.pushS d .i32 (gpoi s g || (sreg s a).poi) n (f (sreg s a).v) 0).performed :=
  slot_ok hg (by simp [checkFmts_int1 h, sreg] <;> rfl)

/-- A result without register operands. -/
theorem imm1_ok {s : State} {g : Guard} {d : R5} (f : Fmt) (v : W64) (hg : Acts s g) :
    s.imm1 g d f v = (s.pushS d f (gpoi s g) 1 v 0).performed := slot_ok hg rfl

/-- The state after the draws of a lane-wise instruction, and the draws. -/
def lanesDrawn (s : State) (p : Prefix) (v : VCtl) (acc : List Fmt) (va : R9) (b : VB) (old : Option R9) : List Nat × State :=
  s.draw (laneDraws (modOf p) v.r (opFmt acc (Dec.xOf p) (s.vecTags va b old)))

/-- A lane-wise instruction whose sources, mask and old destination can be read. -/
theorem lanewise_ok {s : State} {g : Guard} {p : Prefix} {v : VCtl} {acc : List Fmt} {vd va : R9} {b : VB} {accu : Bool}
    {lat : Nat} {f : Mod → VIn → Lanes → List Nat → Try (List (Nat × FFlags))} {i : VIn} {m : MaskVal} {po : Bool}
    {vs : List (Nat × FFlags)} (hg : Acts s g)
    (hi : (lanesDrawn s p v acc va b (oldFor v accu vd)).2.vecIn (Dec.xOf p) acc va b (oldFor v accu vd) accu = .ok i)
    (hm : (lanesDrawn s p v acc va b (oldFor v accu vd)).2.maskIn (Dec.xOf p) v.m = .ok m)
    (ho : (lanesDrawn s p v acc va b (oldFor v accu vd)).2.oldIn (Dec.xOf p) v.m vd.toNat i.f = .ok po)
    (hf : f (modOf p) i (lanesOf v.r i.f.width) (lanesDrawn s p v acc va b (oldFor v accu vd)).1 = .ok vs) :
    s.lanewise g p v acc vd va b accu lat f = ((lanesDrawn s p v acc va b (oldFor v accu vd)).2.pushLanes vd.toNat i.f
      (gpoi s g || i.poi || po) lat (lanesOf v.r i.f.width) m vs).performed := by
  unfold State.lanewise
  refine vslot_ok hg ?_
  unfold lanesDrawn at *
  simp only [hi, hm, bind, Except.bind, ho, hf]
  rfl

end Sys2Proof.Machine
end

