-- ==== Sys2Proof/Tests/Slice0.lean ====
section
/-! SUPPORT. Tests: ill-formed instructions, words written out from the spec's encodings, states that meet the
hypotheses of the statements, and single steps on small states. -/

set_option maxRecDepth 100000

namespace Sys2Proof.Tests
open Sys2Proof.Machine

/-! ## Small states -/

/-- A partition of one pen at the corner of the wafer, with nothing running. -/
def pen : Part :=
  { px0 := 0, py0 := 0, w := 1, h := 1, ctl := false, power := .active, trans := none, gen := 0, mgrp := 0,
    save := 0, stablings := 0, tq := [], tqValid := 0, tqLost := false, tseq := 0, lfault := 0, lbase := 0,
    bank := { Bank.zero with nbun := 8, foot := 1, rows := 64 }, run := none, next := none, stab := none, freeze := none,
    links := [], arrivals := [], sweepWords := [], bars := [], ring := none, barFire := none, rr := [], pendRecs := [] }
/-- Its tile (0, 0), running. -/
def one : Tile := { Tile.zero with part := some 1, st := .running, mapped := true }
/-- A launch of it. -/
def job : Launch :=
  ⟨0, 0, 0, 1, 0, pen.bank, some 0, 0, [], [], 0, true, 0, 0, [], [], none⟩
/-- The machine with that partition as number 1, at cycle 100, its slot the task of tile (0, 0). -/
def mach (q : Part) (t : Tile) : State :=
  { State.reset with gcyc := 100, power := .on, parts := [(1, some q)], tiles := [(0, t)] }
/-- The plain one. -/
def m0 : State := mach pen one
/-- The guard that always acts. -/
def g0 : Guard := ⟨0, false⟩
/-- A scalar, predicate or branch target of the task set. -/
def withS (l : Sparse Scalar) : State := mach pen { one with task := { Ctx.zero with s := l } }

/-! ## States that meet the hypotheses: decoding, steps, SC -/

theorem wit_EncodeDecode : (Instr.add g0 none 1 2 3).wf = true ∧ (Instr.add g0 none 1 2 3).slot = some .sc ∧
    (Instr.vtag g0 ⟨⟨.w1024, 0⟩, .none⟩ .fp32 1 2).wf = true ∧ (Instr.vtag g0 ⟨⟨.w1024, 0⟩, .none⟩ .fp32 1 2).slot = some .va ∧
    ((Instr.nop g0).wf = true ∧ ∃ g, Instr.nop g0 = .nop g) := ⟨rfl, rfl, rfl, rfl, rfl, g0, rfl⟩

/-- A launch runs on tile (0, 0), and its bundle at address 0 is one NOP in the SY slot; or its words are what is given. -/
def atBundle (w : List Host.Cell) : State :=
  mach { pen with run := some { job with code := [] } } { one with sram := w, task := { Ctx.zero with on := true, next := 100 } }
/-- The header of a bundle of the SC slot alone, holding NOP. -/
def nopBundle : List Host.Cell := [(0, 1), (3, 0xA0)]

theorem wit_StepRunsDecoded_fetch : (atBundle nopBundle).nextAct = .fetch (.task 0 0) ∧
    ((atBundle nopBundle).bankOf (tileKey 0 0)).inCode ((atBundle nopBundle).ctxAt (.task 0 0)).pc = true ∧
    Dec.bundle (streamOf (.task 0 0)) (Dec.bundleWords ((atBundle nopBundle).bundleBytes (.task 0 0) 0)) =
      ⟨false, false, false, [(.sc, .nop ⟨0, false⟩)], none, []⟩ := ⟨by rfl, by rfl, by rfl⟩
/-- The NOP of the SC slot is still to be performed. -/
def atSlot : State := mach { pen with run := some { job with code := [] } }
  { one with task := { Ctx.zero with on := true, next := 100, todo := [(.sc, .nop g0)] } }
theorem wit_StepRunsDecoded_slot : atSlot.nextAct = .slot (.task 0 0) .sc (.nop g0) := rfl
/-- A freeze stops the partition now. -/
def atStop : State := mach { pen with run := some job, freeze := some { Freeze.announce 0 100 1 1 false with t := 0 } } one
theorem wit_StepRunsDecoded_event : atStop.nextAct = .event (.freezeStop 1) := rfl
theorem wit_StepRunsDecoded_entry :
    ({ State.reset with agenda := [(0, .bucketDecay)] } : State).nextAct = .entry 0 .bucketDecay := rfl
theorem wit_StepRunsDecoded_tick : State.reset.nextAct = .tick ∧ (∀ k, (State.reset.tile k).errs = 0) ∧ State.reset.sliceErrs = [] :=
  ⟨rfl, fun _ => rfl, rfl⟩

theorem wit_BadBundlesTrap :
    (∃ s : State, s.nextAct = .fetch (.task 0 0) ∧ (s.tile (tileKey 0 0)).part = some 1 ∧ (∃ q, s.part 1 = some q ∧ q.freeze = none) ∧
      (s.tile 0).voided = false ∧ (s.tile 0).raise = none ∧ (s.tile 0).deferred = [] ∧ (s.bankOf 0).inCode (s.ctxAt (.task 0 0)).pc = false) ∧
    (∃ s : State, s.nextAct = .fetch (.task 0 0) ∧ (s.tile (tileKey 0 0)).part = some 1 ∧ (∃ q, s.part 1 = some q ∧ q.freeze = none) ∧
      (s.tile 0).voided = false ∧ (s.tile 0).raise = none ∧ (s.tile 0).deferred = [] ∧ (s.bankOf 0).inCode (s.ctxAt (.task 0 0)).pc = true ∧
      (Dec.bundle .task (Dec.bundleWords (s.bundleBytes (.task 0 0) (s.ctxAt (.task 0 0)).pc))).trap = some ⟨4, 1, 0xFF⟩) :=
  ⟨⟨mach { pen with run := some { job with code := [] } }
      { one with task := { Ctx.zero with on := true, next := 100, pc := 512 } },
    rfl, rfl, ⟨_, rfl, rfl⟩, rfl, rfl, rfl, rfl⟩,
   ⟨atBundle [], rfl, rfl, ⟨_, rfl, rfl⟩, rfl, rfl, rfl, rfl, rfl⟩⟩

theorem wit_StepsKeepCanonical : Canonical State.reset ∧ ∃ t, step State.reset = .next t := ⟨⟨rfl, rfl, rfl⟩, _, rfl⟩
theorem wit_StepsKeepSramCanonical : SramCanonical State.reset ∧ ∃ t, step State.reset = .next t :=
  ⟨⟨fun _ => rfl, fun _ _ _ h => nomatch h⟩, _, rfl⟩
theorem wit_FalseGuardsSkip : guardOf (.add ⟨1, false⟩ none 1 2 3) = some ⟨1, false⟩ ∧
    (∀ g d a b, Instr.add ⟨1, false⟩ none 1 2 3 ≠ .sel g d a b) ∧ (preg m0 1).v = false ∧ (preg m0 1).poi = false :=
  ⟨rfl, nofun, rfl, rfl⟩
theorem wit_IssueChangesNoRegister : (Instr.nop g0).slot.isSome = true ∧ InTask m0 0 0 ∧ (∃ t, exec (.nop g0) m0 = .next t) ∧
    (Instr.nop g0).slot ≠ some .mx ∧ (∀ g inn i32 acc sa row0 nr, Instr.nop g0 ≠ .acp g inn i32 acc sa row0 nr) ∧
    (∀ g v port, Instr.nop g0 ≠ .recv g v port) ∧ 1 ≠ tileKey 0 0 :=
  ⟨rfl, rfl, ⟨_, rfl⟩, nofun, nofun, nofun, by decide⟩

theorem acts (s : State) (h : (s.ctx.readP 0).v = true) : Acts s g0 := Or.inl (by rw [show g0.p.toNat = 0 from rfl, h]; decide)

/-- s1 is 3, s2 is RAW, s3 is FP32 1.0, s4 is FP16 and poisoned. -/
def sc : State := withS [(1, ⟨3, .i32, false⟩), (2, ⟨5, .raw, false⟩), (3, ⟨0x3F800000, .fp32, false⟩), (4, ⟨7, .fp16, true⟩)]

theorem wit_ScalarArithmetic : Acts sc g0 ∧ IntRead sc none [1, 2] ∧ IntRead sc (some .fp16) [1, 4] ∧ IntRead sc none [31] :=
  ⟨acts _ rfl, by unfold IntRead IntReg; decide, by unfold IntRead IntReg; decide, by unfold IntRead IntReg; decide⟩
/-- R262: a poisoned guard acts too. -/
theorem wit_Acts_poison : Acts (mach pen { one with task := { Ctx.zero with p := [(1, ⟨false, true⟩)] } }) ⟨1, false⟩ := Or.inr rfl
theorem wit_ScalarDivision : Acts sc g0 ∧ IntRead sc none [1, 0] ∧ (sreg sc 0).v = 0 := ⟨acts _ rfl, by unfold IntRead IntReg; decide, rfl⟩
theorem wit_ScalarBitsAndFields : Acts sc g0 ∧ fieldLegal 63 0 = true ∧ fieldLegal 0 63 = true ∧ IntRead sc none [1] ∧
    IntRead sc none [1, 2] := ⟨acts _ rfl, rfl, rfl, by unfold IntRead IntReg; decide, by unfold IntRead IntReg; decide⟩
theorem wit_ScalarBitwise : Acts sc g0 ∧ ((sreg sc 1).fmt = .i32 ∧ (sreg sc 0).fmt = .i32) ∧
    ((sreg sc 1).fmt = .i32 ∧ (sreg sc 2).fmt = .raw) ∧ ((sreg sc 2).fmt = .raw ∧ (sreg sc 3).fmt = .fp32) :=
  ⟨acts _ rfl, ⟨rfl, rfl⟩, ⟨rfl, rfl⟩, ⟨rfl, rfl⟩⟩
theorem wit_ScalarMoves : Acts m0 g0 := acts _ rfl
theorem wit_ScalarCompares : Acts sc g0 ∧ IntRead sc none [1, 2] ∧ IntRead sc none [2] :=
  ⟨acts _ rfl, by unfold IntRead IntReg; decide, by unfold IntRead IntReg; decide⟩
theorem wit_ScalarFloat : Acts sc g0 ∧ FpRead sc .none 3 ∧ FpRead sc (.xtag .fp16) 4 ∧ IntRead sc (Dec.xOf .none) [1] :=
  ⟨acts _ rfl, Or.inl rfl, Or.inr rfl, by unfold IntRead IntReg; decide⟩
theorem wit_SpecialRegisters : Acts sc g0 ∧ InTask sc 0 0 ∧ sc.lbaseShift (tileKey 0 0) = 0 ∧ (sc.tile 0).part = some 1 ∧
    sc.part 1 = some pen ∧ (∀ e ∈ (sc.tile 0).fwRegs, e.1 ≠ 0x080) ∧ (0x100 ≤ (0x100#32).toNat ∧ (0x1FF#32).toNat < 0x200) ∧
    IntReg sc 1 ∧ ((0x080#32).toNat ∈ [0x032, 0x080] ∧ (0x080#32).toNat ≠ 0x030 ∧ (0x080#32).toNat ≠ 0x031 ∧ (0x080#32).toNat ≠ 0x032) ∧
    (0x200#32).toNat ∉ [0x100, 0x101, 0x102] :=
  ⟨acts _ rfl, rfl, rfl, rfl, rfl, by decide, by decide, Or.inr rfl, by decide, by decide⟩
theorem test_unlisted_special : (let w := fun n : W32 => Dec.slotInstr .task .sc none (Dec.head 1#2 0x22#6 g0 (0#5 ++ 1#5 ++ 0#5 ++ 0#4)) n 0
    w 0x003 = .error 2 ∧ w 0x200 = .error 2) := ⟨rfl, rfl⟩

theorem wit_BranchOnCount : Acts sc g0 ∧ gpoi sc g0 = false ∧ IntReg sc 1 ∧ (sreg sc 1).poi = false ∧ (sreg sc 1).v - 1 ≠ 0 ∧
    ¬ IntReg sc 3 ∧ (breg sc 0).poi = false ∧ (breg sc 0).prep = false ∧ (preg m0 1).v = false ∧ (preg m0 1).poi = false :=
  ⟨acts _ rfl, rfl, Or.inr rfl, rfl, by decide, by unfold IntReg; decide, rfl, rfl, rfl, rfl⟩
/-- s1 is poisoned, s2 is 1, b1 is prepared, b2 poisoned. -/
def sb : State := mach pen { one with
  task := { Ctx.zero with s := [(1, ⟨3, .i32, true⟩), (2, ⟨1, .i32, false⟩)], b := [(1, ⟨4, true, false⟩), (2, ⟨4, true, true⟩)] } }
theorem wit_BranchOnCount_poison : IntReg sb 1 ∧ (sreg sb 1).poi = true ∧ IntReg sb 2 ∧ (sreg sb 2).v - 1 = 0 ∧ (sreg sb 0).v - 1 ≠ 0 ∧
    (sreg sb 0).v = 0 ∧ (breg sb 2).poi = true ∧ (breg sb 1).poi = false ∧ (breg sb 1).prep = true :=
  ⟨Or.inr rfl, rfl, Or.inr rfl, rfl, by decide, rfl, rfl, rfl, rfl⟩
theorem wit_BranchOnCount_guard : (let s : State := mach pen { one with task := { Ctx.zero with p := [(1, ⟨false, true⟩)] } }
    Acts s ⟨1, false⟩ ∧ IntReg s 1 ∧ gpoi s ⟨1, false⟩ = true ∧ (sreg s 1).poi = false) := ⟨Or.inr rfl, Or.inr rfl, rfl, rfl⟩
theorem wit_CheckWords : 3 < ((4#19).extractLsb' 0 4).toNat := by decide
/-- Tile (0, 0) has a firmware context that runs; or its task is voided. -/
def fwm : State := { mach pen { one with st := .frozen, fw := { Ctx.zero with on := true } } with cur := ⟨.fw 0 0, 7⟩ }
theorem wit_TrapWords : Acts m0 g0 ∧ (256#19).extractLsb' 8 11 ≠ 0 ∧
    (let s := mach pen { one with voided := true }; Acts s g0 ∧ InTask s 0 0 ∧ (s.tile (tileKey 0 0)).voided = true) ∧
    (Acts fwm g0 ∧ InFirmware fwm 0 0 ∧ (fwm.tile (tileKey 0 0)).fw.on = true) :=
  ⟨acts _ rfl, by decide, ⟨acts _ rfl, rfl, rfl⟩, acts _ rfl, rfl, rfl⟩

/-! ## SY -/

theorem wit_BranchTargetsPrepared : Acts sb g0 ∧ IntReg sb 1 ∧ (sreg sb 1).poi = true ∧
    (let s := withS [(1, ⟨0x1FFFC0, .i32, false⟩), (2, ⟨0x200000, .i32, false⟩), (3, ⟨63, .i32, false⟩)]
     Acts s g0 ∧ IntReg s 1 ∧ 64 ∣ (sreg s 1).v.toNat ∧ (sreg s 1).v.toNat < 2 ^ 21 ∧
     IntReg s 2 ∧ (sreg s 2).poi = false ∧ 64 ∣ (sreg s 2).v.toNat ∧ 2 ^ 21 ≤ (sreg s 2).v.toNat ∧
     IntReg s 3 ∧ (sreg s 3).poi = false ∧ ¬ 64 ∣ (sreg s 3).v.toNat) :=
  ⟨acts _ rfl, Or.inr rfl, rfl, acts _ rfl, Or.inr rfl, by decide, by decide, Or.inr rfl, rfl, by decide, by decide,
    Or.inr rfl, rfl, by decide⟩
theorem wit_BranchesTaken : Acts sb g0 ∧ gpoi sb g0 = false ∧ (breg sb 1).poi = false ∧ (breg sb 1).prep = true ∧
    IntReg sb 2 ∧ (sreg sb 2).poi = false ∧ (sreg sb 2).v - 1 = 0 ∧ IntReg sb 3 ∧ (sreg sb 3).poi = false ∧ (sreg sb 3).v - 1 ≠ 0 :=
  ⟨acts _ rfl, rfl, rfl, rfl, Or.inr rfl, rfl, rfl, Or.inr rfl, rfl, by decide⟩
theorem wit_BranchTraps : Acts sb g0 ∧ (breg sb 2).poi = true ∧ gpoi sb g0 = false ∧ (breg sb 0).poi = false ∧ (breg sb 0).prep = false ∧
    (let s := mach pen { one with task := { Ctx.zero with p := [(1, ⟨false, true⟩)] } }; Acts s ⟨1, false⟩ ∧ gpoi s ⟨1, false⟩ = true ∧ IntReg s 1) :=
  ⟨acts _ rfl, rfl, rfl, rfl, rfl, Or.inr rfl, rfl, Or.inr rfl⟩
/-- At LCYC 100: s1 is 101, s2 is 100. -/
def sw : State := withS [(1, ⟨101, .i32, false⟩), (2, ⟨100, .i32, true⟩)]
theorem wit_WaitsHoldIssue : Acts sw g0 ∧ InTask sw 0 0 ∧ IntReg sw 1 ∧ sw.lcycSeen (tileKey 0 0) < (sreg sw 1).v.toNat ∧
    IntReg sw 2 ∧ (sreg sw 2).v.toNat ≤ sw.lcycSeen (tileKey 0 0) ∧
    sw.lcycSeen (tileKey 0 0) < (BitVec.ofNat 64 ((sreg sw 2).v.toNat + (1#32).toNat)).toNat ∧
    (BitVec.ofNat 64 ((sreg sw 2).v.toNat + (0#32).toNat)).toNat ≤ sw.lcycSeen (tileKey 0 0) ∧
    sw.lcycSeen (tileKey 0 0) < (BitVec.ofNat 64 ((sreg sw 2).v.toNat + (1#26).toNat)).toNat ∧
    (BitVec.ofNat 64 ((sreg sw 2).v.toNat + (0#26).toNat)).toNat ≤ sw.lcycSeen (tileKey 0 0) ∧ sw.lbaseShift (tileKey 0 0) = 0 :=
  ⟨acts _ rfl, rfl, Or.inr rfl, by decide, Or.inr rfl, by decide, by decide, by decide, by decide, by decide, rfl⟩
theorem wit_BarArrives : Acts sw g0 ∧ InTask sw 0 0 ∧ 0 < 256 ∧ IntReg sw 1 ∧ (sw.tile (tileKey 0 0)).part = some 1 ∧
    (∃ q, sw.part 1 = some q ∧ scopeKind q.bank.tree (0#6).toNat ≠ .spanning) ∧
    sw.lcycSeen (tileKey 0 0) < (BitVec.ofNat 64 ((sreg sw 1).v.toNat + (0#26).toNat)).toNat :=
  ⟨acts _ rfl, rfl, by decide, Or.inr rfl, rfl, ⟨_, rfl, by decide⟩, by decide⟩
/-- A partition whose level 0 spans modules; tile (0, 0) is its one member here. -/
def swide : State := { mach { pen with bank := { pen.bank with wids := [(0, 0)], tree := [⟨1, .node, .ignore, 0⟩] } } one with tiles := sw.tiles }
theorem wit_BarArrives_spanning : Acts swide g0 ∧ InTask swide 0 0 ∧ IntReg swide 1 ∧
    (∃ q, swide.part 1 = some q ∧ scopeKind q.bank.tree (0#6).toNat = .spanning ∧ swide.groupOf 0 0 = [0] ∧
      ∀ m ∈ swide.groupOf 0 0, ∃ b ∈ (q.bars.filter fun b => 100 ≤ b.d) ++ [⟨0, 0, 0, 101, 100⟩], tileKey b.x b.y = m ∧ b.level = 0 ∧ b.d = 101) ∧
    swide.lcycSeen (tileKey 0 0) < (BitVec.ofNat 64 ((sreg swide 1).v.toNat + (0#26).toNat)).toNat :=
  ⟨acts _ rfl, rfl, Or.inr rfl, ⟨_, rfl, by decide, rfl, by decide⟩, by decide⟩
/-- The task or the firmware of tile (0, 0) holds until 100. -/
def holding (k : HoldKind) (ops : List RemOp) (bars : List BarArrival) : State :=
  mach { pen with bank := { pen.bank with wids := [(0, 0)], tree := [⟨1, .pen, .ignore, 0⟩] }, bars := bars }
    { one with task := { Ctx.zero with hold := some ⟨k, 100, 64, 60⟩ }, fw := { Ctx.zero with hold := some ⟨k, 100, 64, 60⟩ }, ops := ops }
/-- A load that is not complete. -/
def pend : RemOp :=
  { id := 1, kind := .ldg, issued := 50, deadline := 100, pa := 0, len := 8, win := 0, data := 0, dest := 3, fmt := .i32, gpoi := false,
    scope := 0, acq := false, rel := false, done := false, doneAt := 0, result := 0, rpoi := false, late := false, mute := false,
    slot := 4, bundle := 64, checked := false, replays := [], pieces := [], turn := 0, kept := false }
theorem wit_HoldsEnd_bar :
    (let s := holding (.bar 0 100) [] [⟨0, 0, 0, 100, 60⟩]; (s.tile (tileKey 0 0)).task.hold = some ⟨.bar 0 100, 100, 64, 60⟩ ∧
      (s.tile (tileKey 0 0)).fw.hold = some ⟨.bar 0 100, 100, 64, 60⟩ ∧ s.barFails (tileKey 0 0) 0 100 = false) ∧
    (let s := holding (.bar 0 100) [] [⟨0, 0, 0, 100, 100⟩]; (s.tile (tileKey 0 0)).task.hold = some ⟨.bar 0 100, 100, 64, 60⟩ ∧
      s.barFails (tileKey 0 0) 0 100 = true) := ⟨⟨rfl, rfl, rfl⟩, rfl, rfl⟩
theorem wit_HoldsEnd_drain :
    (let s := holding (.drain 0 100) [] []; (s.tile (tileKey 0 0)).task.hold = some ⟨.drain 0 100, 100, 64, 60⟩ ∧
      (s.tile (tileKey 0 0)).fw.hold = some ⟨.drain 0 100, 100, 64, 60⟩ ∧ s.drainFails (tileKey 0 0) 0 100 60 = false) ∧
    (let s := holding (.drain 0 100) [{ pend with deadline := 101 }] []; (s.tile (tileKey 0 0)).task.hold = some ⟨.drain 0 100, 100, 64, 60⟩ ∧
      s.drainFails (tileKey 0 0) 0 100 60 = true) := ⟨⟨rfl, rfl, rfl⟩, rfl, rfl⟩
theorem wit_HoldsEnd_wait : (∀ fx fy, Who.core 0 0 ≠ .fw fx fy) ∧
    (let s := holding .wait [] []; ∃ h, (s.ctxAt (.fw 0 0)).hold = some h ∧ h.kind = .wait) := ⟨nofun, _, rfl, rfl⟩
theorem wit_BarMeetsGroup : (holding (.bar 0 100) [] [⟨0, 0, 0, 100, 60⟩]).partOf 0 ≠ none ∧
    (holding (.bar 0 100) [] [⟨0, 0, 0, 100, 60⟩]).allArrived 0 0 100 = true := ⟨by decide, rfl⟩
theorem wit_ChecksOfPoison : Acts sb g0 ∧ sb.rowOk 64 = false ∧ sb.rowOk 63 = true ∧ (rreg sb 63).poi = false :=
  ⟨acts _ rfl, rfl, rfl, rfl⟩
theorem wit_EndStops : Acts m0 g0 ∧ InTask m0 0 0 ∧ (m0.tile (tileKey 0 0)).st = .running ∧ (m0.tile (tileKey 0 0)).ops = [] ∧
    (let s := mach pen { one with ops := [{ pend with kind := .gst }] }
     Acts s g0 ∧ InTask s 0 0 ∧ (s.tile (tileKey 0 0)).st = .running ∧ (∃ o ∈ (s.tile (tileKey 0 0)).ops, o.isChecked = true ∧ o.checked = false ∧
       o.deadline ≤ s.lcycOf (tileKey 0 0) ∧ ¬ (o.mute = true ∨ o.done = true)) ∧ (s.tile (tileKey 0 0)).part = some 1 ∧
       s.part 1 = some pen ∧ pen.freeze = none ∧ (s.tile (tileKey 0 0)).voided = false ∧ (s.tile (tileKey 0 0)).raise = none) ∧
    Acts fwm g0 ∧ InFirmware fwm 0 0 ∧ (let s : State := { m0 with cur := ⟨.core 27 3, 7⟩ }; Acts s g0 ∧ s.cur.who = .core 27 3) :=
  ⟨acts _ rfl, rfl, rfl, rfl, ⟨acts _ rfl, rfl, rfl, by decide, rfl, rfl, rfl, rfl, rfl⟩, acts _ rfl, rfl, acts _ rfl, rfl⟩
theorem wit_TrapsTaken : Acts m0 g0 ∧ InTask m0 0 0 ∧ (m0.tile (tileKey 0 0)).part = some 1 ∧
    (∃ q, m0.part 1 = some q ∧ q.freeze = none) ∧ (m0.tile (tileKey 0 0)).voided = false ∧ (m0.tile (tileKey 0 0)).raise = none ∧
    (m0.tile (tileKey 0 0)).deferred.length < 16 := ⟨acts _ rfl, rfl, rfl, ⟨_, rfl, rfl⟩, rfl, rfl, by decide⟩
theorem wit_FirmwareFaultStops : fwm.cur.who = .fw 0 0 ∧ (∀ x y, Who.fw 0 0 ≠ .task x y) ∧ (fwm.ctxAt (.fw 0 0)).on = true :=
  ⟨rfl, nofun, rfl⟩
theorem wit_PrivilegedInTask : Acts m0 g0 ∧ InTask m0 0 0 := ⟨acts _ rfl, rfl⟩
/-- The firmware of tile (0, 0), with a field, a freeze and a task state. -/
def fwIn (z : FieldSt) (f : Option Freeze) (p : Option Nat) (st : TaskState) : State :=
  { mach { pen with freeze := f } { one with part := p, st := st } with cur := ⟨.fw 0 0, 7⟩, fields := [(0, z)] }
theorem wit_FirmwareServices_align : Acts (fwIn .zero none none .idle) g0 ∧ InFirmware (fwIn .zero none none .idle) 0 0 ∧
    (sget FieldSt.zero (fwIn { FieldSt.zero with outOfService := true } none none .idle).fields 0).outOfService = true ∧
    (let z := sget FieldSt.zero (fwIn { FieldSt.zero with realigning := true } none none .idle).fields 0
     z.outOfService = false ∧ z.realigning = true ∧ z.since ≠ m0.gcyc) ∧
    (let z : FieldSt := { FieldSt.zero with realigning := true, since := 100 }; z.outOfService = false ∧ z.since = m0.gcyc) ∧
    (let z := sget FieldSt.zero (fwIn .zero none none .idle).fields 0; z.outOfService = false ∧ z.realigning = false ∧ z.lost = false) ∧
    (let z := sget FieldSt.zero (fwIn { FieldSt.zero with lost := true } none none .idle).fields 0
     z.outOfService = false ∧ z.realigning = false ∧ z.lost = true) ∧ (1 ∈ neighbours 0 ∧ (m0.field 1).inStep = true) := ⟨acts _ rfl, rfl, rfl, ⟨rfl, rfl, by decide⟩, ⟨rfl, rfl⟩, ⟨rfl, rfl, rfl⟩, ⟨rfl, rfl, rfl⟩, by decide, rfl⟩
theorem wit_FirmwareServices_freeze :
    (let s := fwIn .zero none (some 1) .running; (s.tile (tileKey 0 0)).part = some 1 ∧ (s.tile (tileKey 0 0)).st = .running ∧
      ∃ q, s.part 1 = some q ∧ q.freeze = none) ∧
    (let s := fwIn .zero none (some 1) .frozen; (s.tile (tileKey 0 0)).st ≠ .running ∧ (s.tile (tileKey 0 0)).st ≠ .ended) ∧
    (let s := fwIn .zero (some (.announce 1 40 1 1 false)) (some 1) .frozen
     (s.tile (tileKey 0 0)).st = .frozen ∧ ∃ q w, s.part 1 = some q ∧ q.freeze = some w) ∧
    ((fwIn .zero none none .idle).tile (tileKey 0 0)).part = none ∧ ((fwIn .zero none none .idle).tile (tileKey 0 0)).st ≠ .frozen ∧
    (∀ t ∈ [99, 100], let s := fwIn .zero (some (.announce t 140 1 1 false)) (some 1) .running
      (s.tile (tileKey 0 0)).st = .running ∧ (t = 100 ↔ (Freeze.announce t 140 1 1 false).t = s.lcycOf (tileKey 0 0))) :=
  ⟨⟨rfl, rfl, _, rfl, rfl⟩, ⟨by decide, by decide⟩, ⟨rfl, _, _, rfl, rfl⟩, rfl, by decide, by decide⟩
/-- The firmware's s1 to s3 are the boundaries of the spaces. -/
def fwC : Ctx :=
  { Ctx.zero with on := true, s := [(1, ⟨31, .i32, false⟩), (2, ⟨32, .i32, false⟩), (3, ⟨0x17FFF8, .i32, false⟩)] }
/-- They run on tile (0, 0), whose task has a state. -/
def fwS (st : TaskState) : State := { mach pen { one with st := st, fw := fwC } with cur := ⟨.fw 0 0, 7⟩ }
theorem wit_FirmwareReachesTask : Acts (fwS .frozen) g0 ∧ InFirmware (fwS .frozen) 0 0 ∧ IntReg (fwS .frozen) 1 ∧
    (sreg (fwS .frozen) 1).poi = false ∧
    (BitVec.ofInt 64 ((sreg (fwS .frozen) 1).v.toInt + (0#32).toInt)).toNat < 32 ∧
    32 ≤ (BitVec.ofInt 64 ((sreg (fwS .frozen) 2).v.toInt + (0#32).toInt)).toNat ∧
    (BitVec.ofInt 64 ((sreg (fwS .frozen) 3).v.toInt + (0#32).toInt)).toNat < 0x180000 ∧
    8 ∣ (BitVec.ofInt 64 ((sreg (fwS .frozen) 3).v.toInt + (0#32).toInt)).toNat ∧
    Space.tag ≠ .frec ∧ (sreg (fwS .frozen) 0).v.toNat % 16 < 14 ∧ ((fwS .frozen).tile (tileKey 0 0)).st = .frozen ∧
    ((fwS .idle).tile (tileKey 0 0)).st = .idle ∧ ((fwS .stabled).tile (tileKey 0 0)).st = .stabled ∧
    ((fwS .running).tile (tileKey 0 0)).st = .running ∧ ((fwS .ended).tile (tileKey 0 0)).st = .ended ∧
    ((fwS .loaded).tile (tileKey 0 0)).st = .loaded :=
  ⟨acts _ rfl, rfl, Or.inr rfl, rfl, by decide, by decide, by decide, by decide, by decide, by decide, rfl, rfl, rfl, rfl, rfl, rfl⟩
/-- The firmware of a tile that has lent its bank 63; s1 to s3 are as before. -/
def fwLent : State := { fwS .frozen with tiles := [(0, { one with st := .frozen, fw := fwC, health := { Health.zero with lent := 1 } })] }
theorem wit_FirmwareReachesTask_sram : ¬ (0 + 8 ≤ Health.zero.top ∧ Health.zero.gave (0 / 16 % 64) = true) ∧
    (let h := (fwLent.tile (tileKey 0 0)).health
     ¬ (0x17FFF8 + 8 ≤ h.top ∧ h.gave (0x17FFF8 / 16 % 64) = false) ∧ (1024 + 8 ≤ h.top ∧ h.gave (1024 / 16 % 64) = false)) := by decide

/-! ## VA and VB -/

/-- Rows of the formats that the vector instructions take; v63 is the last granted row. -/
def vs : State := mach pen { one with
  task := { Ctx.zero with s := [(1, ⟨7, .fp32, false⟩), (2, ⟨7, .raw, false⟩), (3, ⟨7, .i32, false⟩)] }
  rows := [(1, ⟨3, .fp32, false⟩), (2, ⟨5, .fp32, false⟩), (3, ⟨7, .i32, false⟩), (4, ⟨1, .msk, false⟩), (5, ⟨9, .raw, false⟩),
    (6, ⟨2, .i8, false⟩), (7, ⟨2, .e4m3, false⟩), (8, ⟨127, .scl, false⟩), (9, ⟨3, .i32, true⟩), (63, ⟨3, .fp32, true⟩)] }
/-- The whole row without a mask, under MERGE and under ZERO of v4. -/
def all : VCtl := ⟨⟨.w1024, 0⟩, .none⟩
/-- The last quarter of a row, under MERGE. -/
def quarter : VCtl := ⟨⟨.w256, 3⟩, .merge 4⟩
/-- A half under ZERO. -/
def half : VCtl := ⟨⟨.w512, 1⟩, .zero 4⟩
/-- What a vector instruction's reads need: the sources, the mask and the old destination. -/
def Reads (x : Prefix) (acc : List Fmt) (v : VCtl) (va : R9) (b : VB) (old : Option R9) (accu : Bool) (vd : R9) (f : Fmt) : Prop :=
  (∃ n, vs.vecIn (Dec.xOf x) acc va b old accu = .ok n ∧ n.f = f) ∧ (∃ mk, vs.maskIn (Dec.xOf x) v.m = .ok mk) ∧
    ∃ po, vs.oldIn (Dec.xOf x) v.m vd.toNat f = .ok po

theorem wit_FloatLaneResults : Acts vs g0 ∧ (VB.row 2 = .row 2 ∨ VB.row 2 = .lit 0) ∧ (VB.lit 5 = .row 2 ∨ VB.lit 5 = .lit 5) ∧
    Reads .none fl3 all 1 (.row 2) none false 10 .fp32 ∧ Reads .none fl3 quarter 1 (.row 63) (some 2) false 2 .fp32 ∧
    Reads .none fl3 half 1 (.lit 5) (some 63) true 63 .fp32 ∧ (vs.draw (drawCount (modOf .none) 32)).2 = vs :=
  ⟨acts _ rfl, Or.inl rfl, Or.inr rfl, ⟨⟨_, rfl, rfl⟩, ⟨_, rfl⟩, _, rfl⟩, ⟨⟨_, rfl, rfl⟩, ⟨_, rfl⟩, _, rfl⟩,
    ⟨⟨_, rfl, rfl⟩, ⟨_, rfl⟩, _, rfl⟩, rfl⟩
theorem wit_FloatLaneSelections : Acts vs g0 ∧ Reads .none fl3 all 1 (.row 2) none false 10 .fp32 ∧
    Reads .none fl3 quarter 1 (.lit 0) (some 2) false 2 .fp32 ∧ Reads .none fl3 all 63 .none none false 10 .fp32 ∧
    Prefix.none = Dec.ofX none ∧ Reads .none num6 all 3 (.row 9) none false 10 .i32 ∧ Reads .none num6 half 6 .none none false 10 .i8 :=
  ⟨acts _ rfl, ⟨⟨_, rfl, rfl⟩, ⟨_, rfl⟩, _, rfl⟩, ⟨⟨_, rfl, rfl⟩, ⟨_, rfl⟩, _, rfl⟩, ⟨⟨_, rfl, rfl⟩, ⟨_, rfl⟩, _, rfl⟩, rfl,
    ⟨⟨_, rfl, rfl⟩, ⟨_, rfl⟩, _, rfl⟩, ⟨⟨_, rfl, rfl⟩, ⟨_, rfl⟩, _, rfl⟩⟩
theorem wit_IntegerLaneResults : Acts vs g0 ∧ Reads .none int3 all 3 (.row 9) none false 10 .i32 ∧
    Reads .none int3 half 6 (.lit 1) none false 10 .i8 ∧ Prefix.xtag .i32 = Dec.ofX (some .i32) :=
  ⟨acts _ rfl, ⟨⟨_, rfl, rfl⟩, ⟨_, rfl⟩, _, rfl⟩, ⟨⟨_, rfl, rfl⟩, ⟨_, rfl⟩, _, rfl⟩, rfl⟩
theorem wit_BitwiseLaneResults : Acts vs g0 ∧ vs.rowOk 1 = true ∧ vs.rowOk 63 = true ∧
    (∃ mk, vs.maskIn none quarter.m = .ok mk) ∧ (∃ po, vs.oldIn none quarter.m 2 .fp32 = .ok po) ∧
    (let ops := (vs.vecTags 1 (.row 5) (some 2)).map (·.1)
     bitwiseFmt (readAs none ops (rreg vs 1).fmt) (readAs none ops (rreg vs 5).fmt) = .ok .fp32) ∧
    readAs none ((vs.vecTags 1 (.lit 7) (some 2)).map (·.1)) (rreg vs 1).fmt = .fp32 ∧
    (rreg vs 2).fmt = (if none = some (rreg vs 1).fmt then (rreg vs 2).fmt else (rreg vs 1).fmt) ∧ (rreg vs 4).fmt = .msk :=
  ⟨acts _ rfl, rfl, rfl, ⟨_, rfl⟩, ⟨_, rfl⟩, rfl, rfl, rfl, rfl⟩
theorem wit_LaneCompares : Acts vs g0 ∧ Reads .none num6 all 1 (.row 2) none false 10 .fp32 ∧ Fmt.fp32.isFloat3 = true ∧
    Reads .none num6 half 6 (.lit 1) none false 10 .i8 ∧ Fmt.i8.isFloat3 = false ∧ (∃ po, vs.oldIn none quarter.m 4 .msk = .ok po) :=
  ⟨acts _ rfl, ⟨⟨_, rfl, rfl⟩, ⟨_, rfl⟩, _, rfl⟩, rfl, ⟨⟨_, rfl, rfl⟩, ⟨_, rfl⟩, _, rfl⟩, rfl, _, rfl⟩
theorem wit_LaneWritesLand : InTask vs 0 0 ∧ VRange.legal quarter.r = true ∧ VRange.legal half.r = true ∧
    (List.replicate 8 ((1, 0) : Nat × FFlags)).length = (lanesOf quarter.r Fmt.fp32.width).n ∧
    ∀ e ∈ List.replicate 8 ((1, 0) : Nat × FFlags), e.1 < 2 ^ Fmt.fp32.width :=
  ⟨rfl, rfl, rfl, rfl, fun e h => by rw [(List.mem_replicate.mp h).2]; decide⟩
theorem wit_Conversions : Acts vs g0 ∧ Reads .none cvtSources all 1 .none none false 10 .fp32 ∧
    (0#3).toNat < Max.max Fmt.fp32.width Fmt.bf16.width / Min.min Fmt.fp32.width Fmt.bf16.width ∧
    (Fmt.scl = .scl → Fmt.fp32.isFloat = true) ∧ Reads .none fl3 all 1 .none none false 10 .fp32 ∧
    16 ∣ (cvtLanes all.r Fmt.fp32.width Fmt.e4m3.width 3).1.n ∧ (3#3).toNat < Fmt.fp32.width / Fmt.e4m3.width ∧
    vs.rowOk (62 + 1) = true ∧ Reads .none [.e4m3, .e5m2, .e2m1, .d2] all 7 .none none false 10 .e4m3 ∧ vs.rowOk (7 + 1) = true ∧
    (3#3).toNat < Fmt.fp32.width / Fmt.e4m3.width ∧ (rreg vs 8).fmt = .scl :=
  ⟨acts _ rfl, ⟨⟨_, rfl, rfl⟩, ⟨_, rfl⟩, _, rfl⟩, by decide, fun _ => rfl, ⟨⟨_, rfl, rfl⟩, ⟨_, rfl⟩, _, rfl⟩, by decide, by decide, rfl,
    ⟨⟨_, rfl, rfl⟩, ⟨_, rfl⟩, _, rfl⟩, rfl, by decide, rfl⟩
theorem wit_Reductions : Acts vs g0 ∧ Reads .none (redFmts .sum) all 1 .none none false 10 .fp32 ∧
    Reads .none (redFmts .max) half 3 .none none false 10 .i32 ∧ (vs.draw 0).2 = vs :=
  ⟨acts _ rfl, ⟨⟨_, rfl, rfl⟩, ⟨_, rfl⟩, _, rfl⟩, ⟨⟨_, rfl, rfl⟩, ⟨_, rfl⟩, _, rfl⟩, rfl⟩
theorem wit_LaneMoves : Acts vs g0 ∧ vs.rowOk 1 = true ∧ vs.rowOk 63 = true ∧ (∃ mk, vs.maskIn none quarter.m = .ok mk) ∧
    (∃ po, vs.oldIn none quarter.m 2 .fp32 = .ok po) ∧ opFmtOk permFmts none (vs.vecTags 1 (.row 6) (some 2)) = .ok .fp32 ∧
    (rreg vs 6).fmt = .i8 ∧ opFmtOk shufFmts none (vs.vecTags 1 .none (some 2)) = .ok .fp32 ∧
    opFmtOk shufFmts none (vs.vecTags 1 (.row 2) (some 2)) = .ok .fp32 ∧ (rreg vs 2).fmt = .fp32 ∧ (rreg vs 1).fmt = .fp32 ∧
    opFmtOk int3 none (vs.vecTags 3 .none none) = .ok .i32 ∧ opFmtOk fl3 none (vs.vecTags 1 .none none) = .ok .fp32 ∧
    (∃ po, vs.oldIn none half.m 3 .i32 = .ok po) :=
  ⟨acts _ rfl, rfl, rfl, ⟨_, rfl⟩, ⟨_, rfl⟩, rfl, rfl, rfl, rfl, rfl, rfl, rfl, rfl, _, rfl⟩
theorem wit_LaneToScalar : Acts vs g0 ∧ vs.rowOk 63 = true ∧ (rreg vs 3).fmt.isInt = true ∧ (rreg vs 1).fmt = .fp32 ∧
    ((rreg vs 5).fmt.isInt = false ∧ (rreg vs 5).fmt ≠ .fp32) ∧ (rreg vs 4).fmt = .msk ∧ (sreg vs 2).fmt = .raw ∧
    ((sreg vs 3).fmt = .i32 ∧ (rreg vs 3).fmt.isInt = true) ∧ ((sreg vs 1).fmt = .fp32 ∧ (rreg vs 63).fmt = .fp32) :=
  ⟨acts _ rfl, rfl, rfl, rfl, ⟨rfl, by decide⟩, rfl, rfl, ⟨rfl, rfl⟩, rfl, rfl⟩
theorem wit_ComplexLanes : Acts vs g0 ∧ Reads .none fl3 all 1 (.row 2) none false 10 .fp32 ∧
    Reads .none fl3 all 1 (.row 2) (some 1) true 1 .fp32 ∧ (∃ pn, vs.oldIn none all.m (1 + 1) .fp32 = .ok pn) :=
  ⟨acts _ rfl, ⟨⟨_, rfl, rfl⟩, ⟨_, rfl⟩, _, rfl⟩, ⟨⟨_, rfl, rfl⟩, ⟨_, rfl⟩, _, rfl⟩, _, rfl⟩
theorem wit_VectorSourcesRead : vs.rowOk 63 = true ∧ (rreg vs 63).fmt ∈ fl3 ∧ (vs.rowOk 2 = true ∧ (rreg vs 2).fmt = (rreg vs 63).fmt) ∧
    (rreg vs 1).fmt = (rreg vs 63).fmt := ⟨rfl, by decide, ⟨rfl, rfl⟩, rfl⟩

/-! ## LD and ST: local accesses -/

/-- s1 is 512, the first byte after the code; s2 504, s3 1008, s4 1016, s5 poisoned, s6 1024; v1 FP32, v2 VIX; a word at W. -/
def lc : State := mach { pen with bank := { pen.bank with foot := 4 } } { one with
  task := { Ctx.zero with s := [(1, ⟨512, .i32, false⟩), (2, ⟨504, .i32, false⟩), (3, ⟨1008, .i32, false⟩), (4, ⟨1016, .raw, false⟩),
    (5, ⟨512, .i32, true⟩), (6, ⟨4096, .i32, false⟩), (7, ⟨1536, .i32, false⟩)] }
  rows := [(1, ⟨3, .fp32, false⟩), (2, ⟨3, .vix, false⟩)], arrW := some ⟨1, .raw, true⟩ }
/-- The same with bank 63 lent. -/
def lcLent : State := mach { pen with bank := { pen.bank with foot := 4 } } { lc.tile 0 with health := { Health.zero with lent := 1 } }
/-- The same with a load of the same banks issued in this cycle. -/
def lcBusy : State := lc.pushLoad .scalar 3 .raw false 5 0 allBits [⟨0, 512, 8⟩] false

theorem wit_LocalAccessChecks : 0 < 8 ∧ ¬ (4096 + 1 ≤ 1024 * (lc.bankOf lc.myKey).foot) ∧
    (1024 * (lc.bankOf lc.myKey).foot = 4096 ∧ 4088 + 8 ≤ 4096 ∧ 4096 ≤ 0x180000) ∧
    (0x180000 - 24576 * (lcLent.tile lcLent.myKey).health.lent.toNat < 0x17A000 + 8 ∧ 0x17A000 + 8 ≤ 0x180000) ∧ (511 < 0 + 64 * (lc.bankOf lc.myKey).nbun ∧ (lc.bankOf lc.myKey).ioff < 512) ∧
    ¬ (512 < (lc.bankOf lc.myKey).ioff + 64 * (lc.bankOf lc.myKey).nbun) ∧
    (∃ i ∈ wordsOf 1008 16, (lcLent.tile lcLent.myKey).health.gave (i % 64) = true) ∧ 128 ≤ 128 ∧ (lc.tile lc.myKey).health.nlost = 0 ∧
    (lc.tile lc.myKey).task.latches = [] ∧ (lc.tile lc.myKey).commands = [] ∧ (lc.tile lc.myKey).ops = [] ∧ (lc.tile lc.myKey).wroteAt ≤ lc.now ∧
    lc.localAccess true true [(512, 16)] = .ok 0 :=
  ⟨by decide, by decide, ⟨rfl, by decide, by decide⟩, ⟨by decide, by decide⟩, ⟨by decide, by decide⟩, by decide, ⟨63, by decide, rfl⟩, by decide, rfl, rfl, rfl, rfl, by decide, rfl⟩
theorem wit_LoadsIssued : Acts lc g0 ∧ IntReg lc 1 ∧ IntReg lc 4 ∧ (sreg lc 4).poi = false ∧ lc.rowOk 63 = true ∧
    lc.localAccess false ((BitVec.ofInt 64 ((sreg lc 6).v.toInt + (-128 : Int))).toNat % 16 == 0) [(3968, 128)] = .ok 0 ∧
    lc.localAccess false ((sreg lc 1).v.toNat % gatherBytes .bf16 == 0 && (BitVec.signExtend 64 (16#23)).toNat % gatherBytes .bf16 == 0)
      ((((List.range 16).map fun i => (⟨2 * i, 512 + 16 * i, 2⟩ : PendRead))).map fun z => (z.addr, z.n)) = .ok 0 ∧
    lc.localAccess false (1016 % 8 == 0) [(1016, 8)] = .ok 0 ∧ lc.localAccess false (4095 % 1 == 0) [(4095, 1)] = .ok 0 :=
  ⟨acts _ rfl, Or.inr rfl, Or.inl rfl, rfl, rfl, rfl, rfl, rfl, rfl⟩
theorem wit_LoadsPoison : Acts lc g0 ∧ IntReg lc 5 ∧ lc.rowOk 63 = true ∧ (sreg lc 5).poi = true ∧ IntReg lc 6 ∧ (sreg lc 6).poi = false ∧
    lc.localAccess false ((sreg lc 6).v.toNat % 16 == 0) [((sreg lc 6).v.toNat, 32)] = .error (7, 1) ∧
    lc.localAccess false ((sreg lc 4).v.toNat % 16 == 0) [((sreg lc 4).v.toNat, 32)] = .error (7, 2) ∧
    lcLent.localAccess false ((sreg lcLent 3).v.toNat % 16 == 0) [((sreg lcLent 3).v.toNat, 32)] = .error (7, 4) ∧
    lcBusy.localAccess false ((sreg lcBusy 7).v.toNat % 16 == 0) [((sreg lcBusy 7).v.toNat, 32)] = .error (1, 2) :=
  ⟨acts _ rfl, Or.inr rfl, rfl, rfl, Or.inr rfl, rfl, rfl, rfl, rfl, rfl⟩
theorem wit_LoadsPoison_words : (BitVec.ofInt 64 ((sreg lc 6).v.toInt + ((0#6).toNat * 8 : Nat))).toNat = 4096 ∧
    lc.localAccess false (4096 % 8 == 0) [(4096, 8)] = .error (7, 1) ∧
    (BitVec.ofInt 64 ((sreg lc 1).v.toInt + (1#32).toInt)).toNat = 513 ∧ lc.localAccess false (513 % 8 == 0) [(513, 8)] = .error (7, 2) ∧
    lcLent.localAccess false (1008 % 8 == 0) [(1008, 8)] = .error (7, 4) ∧
    lcBusy.localAccess false (1536 % 8 == 0) [(1536, 8)] = .error (1, 2) := ⟨rfl, rfl, rfl, rfl, rfl, rfl⟩
theorem wit_ReceiveTakesWord : Acts lc g0 ∧ lc.rowOk 63 = true ∧ (lc.tile lc.myKey).arr .w = some ⟨1, .raw, true⟩ ∧
    (lc.tile lc.myKey).arr .n = none := ⟨acts _ rfl, rfl, rfl, rfl⟩
theorem wit_StoresIssued : Acts lc g0 ∧ IntReg lc 1 ∧ (sreg lc 1).poi = false ∧ lc.rowOk 1 = true ∧
    lc.localAccess true ((sreg lc 1).v.toNat % 16 == 0) [((sreg lc 1).v.toNat, 128)] = .ok 0 ∧ Fmt.raw ≠ (rreg lc 1).fmt ∧
    (rreg lc 2).fmt = .vix ∧ 128 ∣ (sreg lc 1).v.toNat ∧ lc.window lc.myKey true [((sreg lc 1).v.toNat, 128)] = .ok () ∧
    lc.localAccess true true ((scatterPieces (sreg lc 1).v.toNat (scatter (lanesOf all.r 64) (rreg lc 2).bits 16)).map
      fun e => (e.addr, e.n)) = .ok 0 ∧ lc.localAccess true (4088 % 8 == 0) [(4088, 8)] = .ok 0 :=
  ⟨acts _ rfl, Or.inr rfl, rfl, rfl, rfl, by decide, rfl, by decide, rfl, rfl, rfl⟩
theorem wit_StoreToPoisonTraps : Acts lc g0 ∧ IntReg lc 5 ∧ (sreg lc 5).poi = true ∧ lc.rowOk 1 = true ∧
    lc.rowOk 2 = true ∧ (rreg lc 2).fmt = .vix := ⟨acts _ rfl, Or.inr rfl, rfl, rfl, rfl, rfl⟩
/-- A latch that stores 8 bytes. -/
def storing : Latch :=
  { Latch.result .sram 5 0 .raw false 99 100 7 allBits 0 with atEnd := true, reads := [⟨120, 1016, 8⟩] }
theorem wit_StoreWritesItsBytes : storing.kind = .sram ∧ storing.reads = [⟨120, 1016, 8⟩] ∧ 120 + 8 ≤ 128 := ⟨rfl, rfl, by decide⟩
/-- One that stores 8 bytes of a scatter and 16 others. -/
def scattering : Latch := { storing with reads := [⟨0, 1024, 8⟩, ⟨16, 1040, 16⟩] }
theorem wit_ScatterWritesItsBytes : scattering.kind = .sram ∧ ∀ r ∈ scattering.reads, r.addr = 1024 + r.pos ∧ r.pos + r.n ≤ 128 := ⟨rfl, by decide⟩
theorem wit_StoresSetPoison : gpoi lc g0 = false ∧
    (Instr.stw g0 3 1 .d 0, (sreg lc 3).poi) ∈ ([(.stw g0 3 1 .d 0, (sreg lc 3).poi)] : List (Instr × Bool)) ∧
    (∃ t, exec (.stw g0 3 1 .d 0) lc = .next t ∧ ∃ l ∈ (t.ctxAt lc.cur.who).latches, l ∉ (lc.ctxAt lc.cur.who).latches) ∧
    scattering.kind = .sram ∧ (∀ r ∈ scattering.reads, 0 < r.n ∧ r.pos + r.n ≤ 128) ∧
    (∃ r ∈ scattering.reads, r.addr ≤ 16 * 65 ∧ 16 * 65 + 16 ≤ r.addr + r.n) ∧
    (∃ r ∈ scattering.reads, r.addr < 16 * 64 + 16 ∧ 16 * 64 < r.addr + r.n) ∧
    ¬ (∃ r ∈ scattering.reads, r.addr ≤ 16 * 64 ∧ 16 * 64 + 16 ≤ r.addr + r.n) ∧
    ¬ ∃ r ∈ scattering.reads, r.addr < 16 * 66 + 16 ∧ 16 * 66 < r.addr + r.n :=
  ⟨rfl, by simp, ⟨_, rfl, by decide⟩, rfl, by decide, by decide, by decide, by decide, by decide⟩
theorem wit_StoresSetPoison_cleans : (let t := { one with spoi := [(65, true)] }; let s := mach pen t
    sget false (s.tile (tileKey 0 0)).spoi 65 = true ∧ sget false ((s.landAt (.task 0 0) scattering).tile (tileKey 0 0)).spoi 65 = false) := by decide
/-- The task of tile (0, 0) with latches. -/
def lat (l : List Latch) : State := mach pen { one with task := { Ctx.zero with latches := l } }
theorem wit_ResultsLandInOrder :
    (let a := Latch.result .scalar 0 1 .i32 false 98 100 1 allBits 0
     let b := Latch.result .scalar 1 1 .i32 false 98 100 2 allBits 0
     let early := ((lat [b, a]).ctxAt (.task 0 0)).latches.filter fun z => !z.atEnd && z.due ≤ (lat [b, a]).nowAt (.task 0 0)
     (∀ z ∈ early, z.kind ≠ .special) ∧ a ∈ early ∧ ∀ z ∈ early, z ≠ a → a.issued < z.issued ∨ (a.issued = z.issued ∧ a.slot < z.slot)) ∧
    (let a := Latch.result .special 0 0x30 .i32 false 99 100 1 allBits 0
     let early := ((lat [a]).ctxAt (.task 0 0)).latches.filter fun z => !z.atEnd && z.due ≤ (lat [a]).nowAt (.task 0 0)
     a ∈ early.filter fun z => z.kind == .special) ∧
    (let c := (lat [storing]).ctxAt (.task 0 0)
     (c.latches.filter fun z => !z.atEnd && z.due ≤ 100) = [] ∧ (∀ z ∈ c.latches, z.readDue 100 = false) ∧
     storing ∈ c.latches.filter fun z => z.atEnd && z.due ≤ 100) ∧
    (let z := { Latch.result .scalar 4 1 .raw false 99 104 0 allBits 0 with rdAt := 100, reads := [⟨0, 512, 8⟩] }
     ((lat [z]).ctxAt (.task 0 0)).latches = [] ++ z :: [] ∧ z.readDue 100 = true) :=
  ⟨by decide, by decide, by decide, rfl, rfl⟩
theorem wit_ResultsLandInOrder_extract :
    (let m := Latch.result .scalar 1 3 .i32 false 97 100 1 allBits 0
     let l := Latch.result .scalar 0 3 .i32 false 99 100 2 allBits 0
     let early := ((lat [m, l]).ctxAt (.task 0 0)).latches.filter fun z => !z.atEnd && z.due ≤ (lat [m, l]).nowAt (.task 0 0)
     (∀ z ∈ early, z.kind ≠ .special) ∧ (m ∈ early ∧ ∀ z ∈ early, z ≠ m → m.issued < z.issued ∨ (m.issued = z.issued ∧ m.slot < z.slot)) ∧
     (l ∈ early ∧ m.kind = .scalar ∧ m.slot = 1 ∧ l.kind = .scalar ∧ l.slot = 0 ∧ l.dest = m.dest) ∧
     ∀ z ∈ early, z.slot = 0 → z = l) := by decide
theorem wit_ResultWritesItsRegister : (31 : Nat) ≠ 0 ∧ (0 : Nat) ≠ 31 := ⟨by decide, by decide⟩
theorem wit_FaultPoisonsItsRegister : (31 : Nat) ≠ 0 ∧ Who.task 0 0 = .task 0 0 := ⟨by decide, rfl⟩

/-! ## MX, CP and the fabric -/

/-- A matrix command of 2 steps, issued at 36: its second step starts at 68, its rows come out from 100 on. -/
def mm (c n pops scales rows : Nat) : MxCmd :=
  ⟨7, c, n, 0, false, false, .i8, .i8, 0, 0, 64, 3, false, [⟨[⟨1, false⟩], [⟨1, false⟩], 0, 0, false⟩], pops, scales, rows⟩
/-- Tile (0, 0) with the engine's commands, pending rows and accumulator tile 0. -/
def mx (m : List MxCmd) (f : List AccFinal) (a : AccTile) (tr : List TroughRow) : State := mach pen { one with
  mx := m, finals := f, acc := [(0, a)], trA := tr, trB := tr, rows := [(0, ⟨0, .scl, false⟩), (1, ⟨0, .fp32, false⟩), (63, ⟨0, .fp32, true⟩)] }
/-- An accumulator tile of I32 that is final up to a row. -/
def accI (wm : Nat) : AccTile := ⟨[(0, ⟨5, false⟩)], false, wm, 7⟩

theorem wit_MatrixCommandsIssue : (let s := mx [mm 36 2 64 2 0] [] (accI 32) []
    Acts s g0 ∧ (∀ c ∈ (s.tile s.myKey).mx, c.c + 32 * c.n ≤ s.lcycOf s.myKey) ∧ (true = true ∨ false = true) ∧
    ((s.tile s.myKey).accAt 0).fp = (Fmt.i8 != .i8) ∧ ((s.tile s.myKey).accAt 1).fp = (Fmt.e2m1 != .i8) ∧
    ∀ v ∈ [(62 : R9), 0], v.toNat + scaleRows .e2m1 * ((0#8).toNat + 1) ≤ Min.min 512 (s.bankOf s.myKey).rows) :=
  ⟨acts _ rfl, by decide, Or.inl rfl, rfl, rfl, by decide⟩
theorem wit_TroughsPopped : (let s := mx [mm 90 1 0 0 0] [] (accI 32) [⟨1, false⟩]; let t := s.tile (tileKey 0 0)
      (t.mx.find? (·.popDue (s.lcycOf (tileKey 0 0)))).isSome = true ∧ t.trA ≠ [] ∧ t.trB ≠ []) ∧
    (let s := mx [mm 90 1 31 0 0] [] (accI 32) []; let t := s.tile (tileKey 0 0)
      (t.mx.find? (·.popDue (s.lcycOf (tileKey 0 0)))).isSome = false ∨ t.trA = []) := ⟨⟨rfl, by decide, by decide⟩, Or.inr rfl⟩
theorem wit_ScalesRead : (let s := mx [{ mm 99 1 1 0 0 with scaled := true, fa := .e2m1 }] [] (accI 32) []
    ((s.tile (tileKey 0 0)).mx.find? (·.scaleDue (s.lcycOf (tileKey 0 0)))).isSome = true ∧
    ((s.tile (tileKey 0 0)).readV 0).fmt = .scl ∧ ((s.tile (tileKey 0 0)).readV 1).fmt ≠ .scl) := ⟨rfl, rfl, by decide⟩
theorem wit_AccumulatorRowsFinal :
    (let s := mx [] [⟨100, 0, 31, some ⟨9, false⟩, 32, 7⟩] (accI 31) []; let t := s.tile (tileKey 0 0)
      ∃ e v, (t.finals.find? fun e => e.due ≤ s.lcycOf (tileKey 0 0)) = some e ∧ e.row < 32 ∧ e.val = some v) ∧
    (let s := mx [mm 30 2 64 2 0] [⟨101, 0, 31, none, 32, 7⟩] (accI 0) []; let t := s.tile (tileKey 0 0)
      (∀ e ∈ t.finals, s.lcycOf (tileKey 0 0) < e.due) ∧ (t.mx.find? (·.rowDue (s.lcycOf (tileKey 0 0)))).isSome = true) :=
  ⟨⟨_, _, rfl, by decide, rfl⟩, by decide, rfl⟩
theorem wit_PortWritesRows : (let s := mx [] [] (accI 32) []
    Acts s g0 ∧ ((s.tile s.myKey).accAt 0).wm = 32 ∧ (((s.tile s.myKey).accAt 0).fp = false ∨ ((0 : R5) = 0 ∧ (31 : R5) = 31)) ∧
    ((s.tile s.myKey).accAt 1).fp = true ∧ (63 + 1 ≤ Min.min 512 (s.bankOf s.myKey).rows ∧
      ∀ u < 1, ((s.tile s.myKey).readV (63 + u)).fmt = .fp32)) :=
  ⟨acts _ rfl, rfl, Or.inl rfl, rfl, by decide, by decide⟩
theorem wit_PortReadsRows : (let s := mx [] [] (accI 31) []
    Acts s g0 ∧ amvLegal .i32 30 0 = true ∧ 63 + ((0 : R5).toNat + 1) / (32 / Fmt.i32.width) ≤ Min.min 512 (s.bankOf s.myKey).rows ∧
    (amvTargets ((s.tile s.myKey).accAt 0).fp).contains .i32 = true ∧ 30 + 0 + 1 ≤ ((s.tile s.myKey).accAt 0).wm ∧
    amvLegal .i32 31 0 = true ∧ ((s.tile s.myKey).accAt 0).wm < 31 + 0 + 1 ∧ ((s.tile s.myKey).accAt 1).wm = 32 ∧
    amvLegal .bf16 30 1 = true ∧ (amvTargets ((s.tile s.myKey).accAt 1).fp).contains .bf16 = true) :=
  ⟨acts _ rfl, rfl, by decide, rfl, by decide, rfl, by decide, rfl, rfl, rfl⟩
theorem wit_IntegerKStep : (let st : KStep := ⟨[⟨1, false⟩], [⟨1, false⟩], 0, 0, false⟩; 0 < st.a.length ∧ 0 < st.b.length) :=
  ⟨by decide, by decide⟩

theorem wit_FloatKStep : (let st : KStep := ⟨[⟨0x3F80, false⟩], [⟨0x7F80, false⟩], 0, 0, false⟩
    Fmt.bf16 ≠ .i8 ∧ st.a[0]? = some ⟨0x3F80, false⟩ ∧ st.b[0]? = some ⟨0x7F80, false⟩) := ⟨by decide, rfl, rfl⟩

/-- s1 is 1024, s2 4096, s3 128, s4 an operand of a follow-on; tiles (0, 0) and (1, 0). -/
def cpT : Tile := { one with
  task := { Ctx.zero with s := [(1, ⟨1024, .i32, false⟩), (2, ⟨4096, .i32, false⟩), (3, ⟨128, .raw, false⟩), (4, ⟨0, .i32, false⟩)] } }
/-- The machine with them and a channel command. -/
def cp (t : Tile) : State :=
  { mach { pen with bank := { pen.bank with foot := 16 } } t with tiles := [(0, t), (1, one)] }
/-- A command granted at its issue. -/
def Granted (s : State) (unit : Option ChCmd) (n : ChCmd) : Prop := s.cmdWindow n = .ok () ∧ ∃ c, s.claim unit n = .ok c
/-- The operands and a scale of a follow-on. -/
def fol : Follow := ⟨g0, false, 0, 0, .i8, .i8⟩
theorem wit_CopyCommandsIssue : Acts (cp cpT) g0 ∧ (IntReg (cp cpT) 1 ∧ (sreg (cp cpT) 1).poi = false) ∧
    (IntReg (cp cpT) 3 ∧ (sreg (cp cpT) 3).poi = false) ∧ baseOk (if true then Swz.lin else .lin) 4096 = true ∧
    baseOk .lin 1024 = true ∧ Granted (cp cpT) none ((cp cpT).newCmd (.cpy 1024 4096 false .lin) 2 3 false none) ∧
    16 ∣ 1024 ∧ Granted (cp cpT) none ((cp cpT).newCmd (.cpz 1024) 1 1 false none) ∧ (cp cpT).neighbour 0 .e = some 1 ∧
    (cp cpT).window 1 true [(1024, 128 * 1)] = .ok () ∧ Granted (cp cpT) none ((cp cpT).newCmd (.cpn .e 1024 4096) 1 1 false none) ∧
    Granted (cp cpT) none ((cp cpT).newCmd (.cpt 4096 128 .lin false) 2 4 false none) ∧ (followOperands false 0x1F0).isSome = true ∧
    Granted (cp cpT) none ((cp cpT).newCmd (.cpt 4096 128 .lin true) 2 5 false (some ⟨fol, 0x1F0, 105⟩)) ∧ (cp cpT).neighbour 0 .n = none :=
  ⟨acts _ rfl, ⟨Or.inr rfl, rfl⟩, ⟨Or.inl rfl, rfl⟩, rfl, rfl, ⟨rfl, _, rfl⟩, by decide, ⟨rfl, _, rfl⟩, rfl, rfl, ⟨rfl, _, rfl⟩,
    ⟨rfl, _, rfl⟩, rfl, ⟨rfl, _, rfl⟩, rfl⟩
theorem wit_AccumulatorCopies : Acts (cp cpT) g0 ∧ IntReg (cp cpT) 1 ∧ (sreg (cp cpT) 1).poi = false ∧ 16 ∣ (sreg (cp cpT) 1).v.toNat ∧
    Granted (cp cpT) none ((cp cpT).newCmd (.acpOut 0 31 1024) 1 2 false none) ∧ (((cp cpT).tile 0).accAt 0).wm = 32 ∧
    (((cp cpT).tile 0).accAt 0).fp = (!false) ∧ Granted (cp cpT) none ((cp cpT).newCmd (.acpIn 0 0 1024 1 (!false)) 32 34 false none) :=
  ⟨acts _ rfl, Or.inr rfl, rfl, by decide, ⟨rfl, _, rfl⟩, rfl, rfl, rfl, _, rfl⟩
/-- A command on a channel from cycle c on. -/
def chc (k : ChKind) (c m read landed : Nat) (buf : List ChRow) : ChCmd := ⟨k, c, m, c + m + 3, 64, false, 0, read, landed, buf, [], none⟩
theorem wit_CopyRowsMove :
    (let c := chc (.cpy 1024 4096 false .lin) 99 2 0 0 []; let t := (cp { cpT with g := some c }).tile (tileKey 0 0)
      t.channel 2 = some c ∧ 2 < 3 ∧ c.readDue 100 = true ∧ c.what.writes = true ∧ ∀ a r d, c.what ≠ .acpOut a r d) ∧
    (chc (.acpOut 0 31 1024) 99 1 0 0 []).readDue 100 = true ∧ (chc (.acpIn 0 31 1024 1 true) 99 1 0 0 []).readDue 100 = true ∧
    ((chc (.cpn .e 1024 4096) 99 1 0 0 []).readDue 100 = true ∧ ((cp cpT).tile (tileKey 0 0)).part = some 1 ∧ (cp cpT).part 1 ≠ none) ∧
    (let c := chc (.cpz 1024) 90 2 0 0 []; c.readDue 100 = false ∧ c.writeDue 100 = true) :=
  ⟨⟨rfl, by decide, rfl, rfl, nofun⟩, rfl, rfl, ⟨rfl, rfl, by decide⟩, rfl, rfl⟩
theorem wit_TroughsPushed : (let c := chc (.cpt 4096 128 .lin true) 97 1 1 0 [⟨0, 1, 0⟩]
    ((cp { cpT with tb := some c }).tile (tileKey 0 0)).channel 1 = some c ∧ c.pushDue 100 = true ∧ c.buf = ⟨0, 1, 0⟩ :: []) :=
  ⟨rfl, rfl, rfl⟩
theorem wit_FollowOnIssues : (let c := { chc (.cpt 4096 128 .lin false) 97 1 1 1 [] with follow := some ⟨fol, 0x1F0, 100⟩ }
    let s := cp { cpT with ta := some c }; (s.tile (tileKey 0 0)).ta = some c ∧ c.follow = some ⟨fol, 0x1F0, 100⟩ ∧
    followOperands fol.scaled 0x1F0 = some (0, 0, false) ∧ ((s.tile (tileKey 0 0)).task.guard fol.g).on = true ∧
    (∃ a d, s.engine 0 6 64 false false false 0 1 .i8 .i8 0 0 = .error (a, d)) ∧
    (∃ w, s.engine 0 6 64 false false false 0 1 .fp16 .fp16 0 0 = .ok w) ∧
    ((s.tile (tileKey 0 0)).task.guard ⟨1, false⟩).on = false) := ⟨rfl, rfl, rfl, rfl, ⟨_, _, rfl⟩, ⟨_, rfl⟩, rfl⟩

/-- A word on the link of tile (0, 0) to a side, entered at 100, with what is left of its way. -/
def lw (dir : Side) (dx dy : Int) : LinkWord := ⟨0, 0, dir, 100, none, dx, dy, false, none, 0, ⟨5, .fp32, false⟩, 64⟩
/-- The partition with words on links and arrivals. -/
def fab (l : List LinkWord) (a : List Arrival) (t : Tile) : State :=
  { mach { pen with links := l, arrivals := a, bank := { pen.bank with foot := 16 } } t with tiles := [(0, t), (1, one)] }
theorem wit_SendEntersItsLink : Acts (fab [] [] one) g0 ∧ InTask (fab [] [] one) 0 0 ∧ 0 < 256 ∧ (fab [] [] one).rowOk 63 = true ∧
    ((fab [] [] one).tile (tileKey 0 0)).part = some 1 ∧ (∃ q, (fab [] [] one).part 1 = some q ∧ q.holds (0 + 1) 0 = true ∧
      q.holds 4 0 = false) ∧ ((fab [] [] one).tile (tileKey 1 0)).part = some 1 ∧ ((fab [] [] one).tile (tileKey 1 0)).mapped = true ∧
    ((fab [] [] one).tile (tileKey 2 0)).mapped = false ∧ (0 : Int) + (-1#9).toInt < 0 :=
  ⟨acts _ rfl, rfl, by decide, rfl, rfl, ⟨_, rfl, rfl, rfl⟩, rfl, rfl, rfl, by decide⟩
theorem wit_FabricHops :
    (let s := fab [lw .e 1 0] [] one; (s.tile (tileKey 0 0)).part = some 1 ∧ ∃ q, s.part 1 = some q ∧
      (q.links.filter fun w => w.x = 0 && w.y = 0 && w.dir == .e && w.enter ≤ s.lcycOf (tileKey 0 0)) = [lw .e 1 0] ∧
      (lw .e 1 0).dx - 1 = 0 ∧ (lw .e 2 1).dx - 1 ≠ 0) ∧
    (let ws := [lw .e 1 0, { lw .e 2 0 with inn := some .w }]; 2 ≤ ws.length ∧ (firstWord ws).isSome = true) :=
  ⟨⟨rfl, _, rfl, rfl, rfl, by decide⟩, by decide, rfl⟩
theorem wit_WordsArrive : (let a : Arrival := ⟨0, 0, .w, 100, none, 0, ⟨5, .fp32, false⟩⟩
    let s := fab [] [a] { one with arrE := some ⟨1, .raw, false⟩ }
    (s.tile (tileKey 0 0)).part = some 1 ∧ ∃ q, s.part 1 = some q ∧
      (q.arrivals.find? fun a => a.x = 0 && a.y = 0 && a.port == .w && a.burst.isNone && a.due ≤ s.lcycOf (tileKey 0 0)) = some a ∧
      (s.tile (tileKey 0 0)).arr .w = none ∧ (s.tile (tileKey 0 0)).arr .e = some ⟨1, .raw, false⟩) := ⟨rfl, _, rfl, rfl, rfl, rfl⟩
theorem wit_BurstRowsLand : (let a : Arrival := ⟨0, 0, .w, 100, some 1024, 0, ⟨5, .raw, false⟩⟩; let s := fab [] [a] one
    (s.tile (tileKey 0 0)).part = some 1 ∧ a.burst = some 1024 ∧ ∃ q, s.part 1 = some q ∧
      (q.arrivals.find? fun a => a.x = 0 && a.y = 0 && a.burst.isSome && a.due ≤ s.lcycOf (tileKey 0 0)) = some a) :=
  ⟨rfl, rfl, _, rfl, rfl⟩

/-! ## Remote operations and sweeps -/

/-- One page of memory and one of the sequencer space of Y0, with every right. -/
def regs : List Region := [⟨0, 0, 1, true, true, true⟩, ⟨2 ^ 21, seqBase, 1, true, true, true⟩, ⟨2 ^ 22, 2 ^ 30, 1, false, false, false⟩]
/-- s1 is 0, s2 the last double of the page, s3 the sequencer page, s4 FP32, s5 0 poisoned, s6 64, s7 1024, s8 a queue's wake
address. -/
def rmC : Ctx := { Ctx.zero with s := [(2, ⟨2 ^ 21 - 8, .i32, false⟩), (3, ⟨2 ^ 21, .i32, false⟩), (4, ⟨8, .fp32, false⟩),
  (5, ⟨0, .i32, true⟩), (6, ⟨64, .i32, false⟩), (7, ⟨1024, .i32, false⟩), (8, ⟨8, .i32, false⟩)] }
/-- Tile (0, 0) with them and its operations. -/
def rm (ops : List RemOp) (v : Bool) : State :=
  mach { pen with bank := { pen.bank with regions := regs, foot := 16 } } { one with task := rmC, ops := ops, voided := v }

/-- The same after a repair that the launch has not seen. -/
def stale : State := { rm [] false with wgen := 1, parts := [(1, some { pen with run := none, bank := (rm [] false).bankOf 0 })] }

theorem wit_RemoteOperationsIssue : (let s := rm [] false
    Acts s g0 ∧ IntReg s 2 ∧ (sreg s 2).poi = false ∧ (sreg s 1).poi = false ∧ IntReg s 1 ∧
    8 ∣ (BitVec.ofNat 64 ((sreg s 2).v.toNat + (sreg s 1).v.toNat)).toNat ∧ (s.tile s.myKey).holderFree s.now = true ∧
    checkRegion (s.bankOf s.myKey).regions .r (2 ^ 21 - 8) 8 = .ok (2 ^ 21 - 8) ∧ gpoi s g0 = false ∧
    checkRegion (s.bankOf s.myKey).regions .w (2 ^ 21 - 8) 8 = .ok (2 ^ 21 - 8) ∧
    checkRegion (s.bankOf s.myKey).regions .a (2 ^ 21 - 8) 8 = .ok (2 ^ 21 - 8) ∧ 8 ∣ (sreg s 2).v.toNat ∧ inSeq (2 ^ 21 - 8) = false ∧
    AmoForm.add ≠ .fadd ∧ (sreg s 4).fmt = .fp32 ∧ (sreg s 4).poi = false ∧ s.genOk = true ∧ stale.genOk = false ∧ Acts stale g0) :=
  ⟨acts _ rfl, Or.inr rfl, rfl, rfl, Or.inr rfl, by decide, rfl, rfl, rfl, rfl, rfl, by decide, rfl, by decide, rfl, rfl, rfl, rfl,
    acts _ rfl⟩
theorem wit_SignalsIssue : (let s := rm [] false
    Acts s g0 ∧ IntReg s 8 ∧ (sreg s 8).poi = false ∧ gpoi s g0 = false ∧ IntReg s 1 ∧ (sreg s 1).poi = false ∧
    (sreg s 8).v.extractLsb' 0 3 = 0 ∧ (sreg s 8).v.extractLsb' 18 30 = 0 ∧ IntReg s 3 ∧ (sreg s 3).poi = false ∧ 64 ∣ (sreg s 3).v.toNat ∧
    checkRegion (s.bankOf s.myKey).regions .w (sreg s 3).v.toNat 64 = .ok seqBase ∧ inSeq seqBase = true ∧
    seqKey seqBase = some (0, 0) ∧ (s.tile s.myKey).voided = false ∧ s.genOk = true) :=
  ⟨acts _ rfl, Or.inr rfl, rfl, rfl, Or.inr rfl, rfl, rfl, rfl, Or.inr rfl, rfl, by decide, rfl, rfl, rfl, rfl, rfl⟩
theorem wit_StagingIssues : (let s := rm [] false
    Acts s g0 ∧ (IntReg s 7 ∧ (sreg s 7).poi = false) ∧ (IntReg s 1 ∧ (sreg s 1).poi = false) ∧ (IntReg s 6 ∧ (sreg s 6).poi = false) ∧
    16 ∣ (sreg s 6).v.toNat ∧ 16 ∣ (sreg s 7).v.toNat ∧ 16 ∣ (sreg s 1).v.toNat ∧ 0 < (sreg s 6).v.toNat ∧ (sreg s 6).v.toNat ≤ 0x180000 ∧
    inSeq 0 = false ∧ ((s.tile s.myKey).ops.filter fun o => o.staged && s.now ≤ o.deadline).length < 8 ∧
    checkRegion (s.bankOf s.myKey).regions .r 0 64 = .ok 0 ∧ s.window s.myKey true [(1024, 64)] = .ok () ∧
    ((s.tile s.myKey).spansAt s.now).any (fun sp => (spanOf (wordsOf 1024 64) true).meets sp) = false ∧
    checkRegion (s.bankOf s.myKey).regions .w 0 64 = .ok 0 ∧ s.window s.myKey false [(1024, 64)] = .ok () ∧
    poisonRead (s.tile s.myKey).spoi 1024 64 = false ∧ s.genOk = true) :=
  ⟨acts _ rfl, ⟨Or.inr rfl, rfl⟩, ⟨Or.inr rfl, rfl⟩, ⟨Or.inr rfl, rfl⟩, by decide, by decide, by decide, by decide, by decide, rfl,
    by decide, rfl, rfl, rfl, rfl, rfl, rfl, rfl⟩
theorem wit_RegionsTranslate : 0 < 8 ∧ findRegion regs (2 ^ 21 - 1) = some ⟨0, 0, 1, true, true, true⟩ ∧ 2 ^ 21 - 8 + 8 ≤ 0 + 2 ^ 21 * 1 ∧
    (∀ r ∈ regs, ¬ (r.vbase ≤ 3 * 2 ^ 21 ∧ 3 * 2 ^ 21 < r.vbase + 2 ^ 21 * r.pages)) ∧
    Region.has ⟨2 ^ 22, 2 ^ 30, 1, false, false, false⟩ .r = false := ⟨by decide, rfl, by decide, by decide, rfl⟩
/-- The state of one operation of a kind. -/
def slc (k : OpKind) (pa len : Nat) : State := rm [{ pend with kind := k, pa := pa, len := len, deadline := 200, win := 1024 }] false
/-- That operation. -/
def slo (k : OpKind) (pa len : Nat) : RemOp := { pend with kind := k, pa := pa, len := len, deadline := 200, win := 1024 }
theorem wit_SlicesPerform : ∀ k ∈ [OpKind.ldg, .gst, .amo .add, .cas 5], (slc k (hbmBytes - 8) 8).openOp (tileKey 0 0) 1 = some (slo k (hbmBytes - 8) 8) ∧
    (slc k (hbmBytes - 8) 8).opHeld (tileKey 0 0) (slo k (hbmBytes - 8) 8) = false ∧ hbmBytes - 8 + 8 ≤ hbmBytes ∧
    inSeq (hbmBytes - 8) = false ∧ (0 < 8 ∧ 8 ≤ 8) ∧ ∀ z ∈ ((slc k (hbmBytes - 8) 8).tile (tileKey 0 0)).ops, z.id = 1 → z = slo k (hbmBytes - 8) 8 := by
  intro k h; refine ⟨?_, ?_, by decide, rfl, by decide, ?_⟩
  · revert k; decide
  · revert k; decide
  · intro z hz _; exact List.mem_singleton.mp hz
theorem wit_SignalsLeave : (slc .wake 8 0).openOp (tileKey 0 0) 1 = some (slo .wake 8 0) ∧ (slc .wake 8 0).opHeld (tileKey 0 0) (slo .wake 8 0) = false ∧
    ((slc .wake 8 0).tile (tileKey 0 0)).part = some 1 ∧ (slo .wake 8 0).pa / 2 ^ 48 = (slc .wake 8 0).modid.toNat ∧
    (slc .crdy 0 0).openOp (tileKey 0 0) 1 = some (slo .crdy 0 0) ∧ (slc .crdy 0 0).opHeld (tileKey 0 0) (slo .crdy 0 0) = false ∧
    (slo .crdy 0 0).pa ≠ barKey ∧ (slo .crdy barKey 0).pa = barKey ∧ (slc .crdy barKey 0).openOp (tileKey 0 0) 1 = some (slo .crdy barKey 0) ∧
    (slc .crdy barKey 0).opHeld (tileKey 0 0) (slo .crdy barKey 0) = false :=
  ⟨rfl, rfl, rfl, rfl, rfl, rfl, by decide, rfl, rfl, rfl⟩
theorem wit_AtomicValues : (4 = 4 ∨ 4 = 8) ∧ 2 ^ 32 - 1 < 2 ^ (8 * 4) ∧ 2 ^ 64 - 1 < 2 ^ (8 * 8) := by decide
/-- A transfer of 16 bytes in one block, due at its slice in a cycle. -/
def stgo (k : OpKind) (due : Nat) : RemOp := { slo k 0 16 with pieces := [⟨0, 90, some due, 7, 0, false⟩] }
/-- The machine with it. -/
def stgs (k : OpKind) (due : Nat) : State := rm [stgo k due] false
theorem wit_StagingMovesBytes_pressed : (stgs .stg 101).pressed (tileKey 0 0) 1 = false ∧
    (rm [{ stgo .stg 101 with deadline := 100 }] false).pressed (tileKey 0 0) 1 = true := by decide
/-- A store of tile (0, 0) to the bytes 0 to 7 with a turn. -/
def turned (i turn : Nat) : RemOp := { slo .gst 0 8 with id := i, turn := turn }
theorem wit_OrderAndDeadlines_turn :
    (let s := rm [turned 1 101] false; (turned 1 101).touches = true ∧ s.pressed 0 1 = false ∧ s.lcycOf 0 < (turned 1 101).turn) ∧
    (let s := { rm [] false with tiles := [(0, { one with ops := [turned 1 90] }), (1, { one with ops := [turned 1 91] })] };
      s.pressed 1 1 = false ∧ (0, s.tile 0) ∈ s.tiles ∧ (s.tile 0).part = (s.tile 1).part ∧ (s.tile 1).part ≠ none ∧ turned 1 90 ∈ (s.tile 0).ops ∧
      (turned 1 90).open_ = true ∧ (turned 1 90).late = false ∧ (turned 1 90).turn < (turned 1 91).turn ∧
      0 / 16 ≤ (0 + 8 - 1) / 16 ∧ s.rootHeld 0 (turned 1 90) = false ∧ s.opHeld 1 (turned 1 91) = true) ∧
    (let s := rm [turned 1 90] false; turned 1 90 ∈ (s.tile 0).ops ∧ s.routeOf (turned 1 90) = s.routeOf (turned 2 0) ∧
      s.routeOf (turned 2 0) ≠ none) := by decide
/-- Two stores and a transfer of tile (0, 0) with one of the order bits, the first at 1, or an AMO. -/
def rival (k : OpKind) (i : Nat) (acq : Bool) : RemOp := { slo k 0 8 with id := i, issued := if i = 3 then 200 else 50, acq := acq, deadline := 100 }
theorem wit_OrderAndDeadlines :
    (let s := rm [rival .gst 1 false] false; let t := s.tile 0; let o := rival .gst 1 false
      t.pressing 100 = [o] ∧ s.ahead 0 o = none ∧ s.flagHolds 0 o = false ∧ t.part = some 1 ∧
      100 = s.lcycOf 0 ∧ (0, t) ∈ s.tiles) ∧
    (let s := rm [rival .gst 1 false, rival .gst 2 false] false;
      rival .gst 1 false ∈ (s.tile 0).ops ∧ (rival .gst 1 false).waiting = true ∧
      s.routeOf (rival .gst 1 false) = s.routeOf (rival .gst 2 false) ∧ s.routeOf (rival .gst 2 false) ≠ none ∧
      s.openOp 0 2 = some (rival .gst 2 false) ∧ s.opHeld 0 (rival .gst 2 false) = true) ∧
    (let s := { rm [] false with tiles := [(0, { one with ops := [rival (.amo .add) 1 false] }), (1, { one with ops := [rival (.amo .add) 3 false] })] };
      rival (.amo .add) 1 false ∈ (s.tile 0).ops ∧ (s.tile 0).part = (s.tile 1).part ∧ (rival (.amo .add) 1 false).open_ = true ∧
      (rival (.amo .add) 1 false).issued + 96 ≤ (rival (.amo .add) 3 false).issued ∧ s.opHeld 1 (rival (.amo .add) 3 false) = true) ∧
    (let s := rm [rival .stg 1 false, rival .gst 2 true] false;
      rival .stg 1 false ∈ (s.tile 0).ops ∧ (rival .stg 1 false).open_ = true ∧ (rival .gst 2 true).acq = true) := by decide
theorem wit_StagingMovesBytes : ∀ k ∈ [OpKind.stg, .stp], (stgs k 100).openOp (tileKey 0 0) 1 = some (stgo k 100) ∧
    (stgs k 100).opHeld (tileKey 0 0) (stgo k 100) = false ∧ 0 + 16 ≤ hbmBytes ∧ 16 ∣ 16 ∧ 16 ∣ (stgo k 100).pa ∧
    ((stgo k 100).pieces.map (·.blk)).Nodup ∧ (∃ z ∈ (stgo k 100).pieces, z.done = false ∧ z.due = some 100 ∧ 100 ≤ (stgs k 100).gcyc) ∧
    0 = ((stgo k 100).pa + 15) / 256 := by decide
theorem wit_RepliesDelivered :
    (let o := { pend with done := true, result := 7 }; let s := rm [o] false
      (s.tile (tileKey 0 0)).dueReply (s.lcycOf (tileKey 0 0)) = some o ∧ o.dest ≠ 0 ∧ (o.done && !o.late) = true) ∧
    (let s := rm [pend] false; (s.tile (tileKey 0 0)).dueReply (s.lcycOf (tileKey 0 0)) = some pend ∧ (pend.done && !pend.late) = false ∧
      pend.mute = false ∧ (s.tile (tileKey 0 0)).deferred.length < 16) := ⟨⟨rfl, by decide, rfl⟩, rfl, rfl, rfl, by decide⟩

/-- A sweep of tile (0, 0) in one line with tile (1, 0), with the words of both. -/
def swq (ws : List SweepWord) : Part := { pen with bank := { pen.bank with wids := [(0, 0), (1, 0)], tree := [⟨1, .pen, .ignore, 0⟩] }, sweepWords := ws }
/-- What member (x, 0) contributes to a sweep of a kind at 90. -/
def sword (x : Nat) (k : SweepKind) : SweepWord := ⟨x, 0, 90, k, .fadd, .fp32, 0, 0, ⟨5, .fp32, false⟩, [], [], [], [], false⟩
/-- The command of tile (0, 0), waiting for the word of its neighbour. -/
def scmd (w : List SweepWait) : ChCmd := ⟨.sweep ⟨.cav, .fadd, .fp32, 0, 0, 3, w⟩, 90, 1, 100, 64, false, 0, 0, 0, [], [], none⟩
/-- The machine with them. -/
def swm (ws : List SweepWord) (c : Option ChCmd) : State :=
  let t : Tile := { one with sw := c, rows := [(2, ⟨5, .fp32, false⟩)], task := { Ctx.zero with s := [(1, ⟨1, .i32, false⟩)] } }
  { mach (swq ws) t with tiles := [(0, t), (1, one)] }
theorem wit_SweepsIssue : (let s := swm [] none
    Acts s g0 ∧ s.rowOk 2 = true ∧ s.rowOk 63 = true ∧ (s.tile s.myKey).part = some 1 ∧ s.part 1 = some (swq []) ∧
    busyAt (s.tile s.myKey).sw s.now = false ∧ (∃ fs, sweepFmts .fadd = some fs ∧ (rreg s 2).fmt ∈ fs) ∧ IntReg s 1 ∧ (sreg s 1).poi = false ∧
    (latticeOf (s.groupOf s.myKey 0)).size = 2) := ⟨acts _ rfl, rfl, rfl, rfl, rfl, rfl, ⟨_, rfl, by decide⟩, Or.inr rfl, rfl, rfl⟩
theorem wit_SweepWordsTaken :
    (let w : SweepWait := ⟨1, 100, 1⟩; let s := swm [sword 0 .cav, sword 1 .cav] (some (scmd [w]))
      (s.tile (tileKey 0 0)).part = some 1 ∧ (s.tile (tileKey 0 0)).sw = some (scmd [w]) ∧
      ([w].find? fun w => w.due ≤ s.lcycOf (tileKey 0 0)) = some w ∧ w.which < 4 ∧
      (∃ q f o, s.part 1 = some q ∧ q.sweepAt 1 90 = some f ∧ q.sweepAt (tileKey 0 0) 90 = some o ∧ f.agrees o = true)) ∧
    (sword 1 .ard).agrees (sword 0 .cav) = false ∧ (swq [sword 0 .cav]).sweepAt 1 90 = none :=
  ⟨⟨rfl, rfl, rfl, by decide, _, _, _, rfl, rfl, rfl, rfl⟩, rfl, rfl⟩
theorem wit_SweepResults : (let s := swm [sword 0 .cav] (some (scmd []))
    (s.tile (tileKey 0 0)).part = some 1 ∧ (s.tile (tileKey 0 0)).sw = some (scmd []) ∧ (scmd []).landed = 0 ∧
    (scmd []).busy ≤ s.lcycOf (tileKey 0 0) ∧ ∃ q, s.part 1 = some q ∧ q.sweepAt (tileKey 0 0) 90 = some (sword 0 .cav)) :=
  ⟨rfl, rfl, rfl, by decide, _, rfl, rfl⟩
theorem wit_SweepFolds : 31 < 1024 / Fmt.fp32.width ∧ Fmt.fp32.isFloat3 = true ∧ 1023 < 1024 / 1 := by decide

/-! ## Freezes -/

/-- A launch with a tree of one level of a policy. -/
def jobT (v : Level) : Launch := { job with bank := { pen.bank with tree := [v], wids := [(0, 0)] } }
/-- A freeze of the partition, announced at 10 for 42, with tile (0, 0) raising. -/
def frz (z : Freeze) (l : Launch) (t : Tile) : State := mach { pen with run := some l, freeze := some z, bank := l.bank } t
/-- Tile (0, 0) raised a TRAP 5. -/
def raiser : Tile := { one with raise := some ⟨0x0B, 5, 7, 64, 1, false⟩ }
/-- The freeze: stopped and captured or not. -/
def fz (st cap : Bool) (o : Outcome) (r : Option Nat) : Freeze :=
  { Freeze.announce 10 42 0x0B 5 false with stopped := st, captured := cap, outcome := o, resumeAt := r, fgcyc := 42 }
theorem wit_FreezeStops : (let s := frz (fz false false .resume none) job raiser
    ∃ q z, s.part 1 = some q ∧ q.freeze = some z ∧ z.stopped = false ∧ z.f ≤ s.gcyc - q.lbase ∧ q.px0 + q.w ≤ 64) :=
  ⟨_, _, rfl, rfl, rfl, by decide, by decide⟩
theorem wit_FreezeStops_errors : (let z := { fz false false .resume none with errors := [12] }; let s := frz z job one
    z.errors ≠ [] ∧ (s.mappedOf 1).head? = some 0 ∧ (s.mappedOf 1).head? ≠ some 1) := by decide
theorem wit_OutcomeIsStrongest : (let z := { fz true false .resume none with cause := 0x10 }; z.cause = 0x10) ∧ { fz true false .resume none with killed := true }.killed = true ∧
    (let z := fz true false .resume none; let l := jobT ⟨1, .pen, .retry, 3⟩; let s := frz z l raiser
      ¬ (z.discardReq = true ∨ z.killed = true ∨ z.cause = 0x0A ∨ z.cause = 0x10 ∨ (z.cause = 0x0D ∧ z.sub ≠ 2)) ∧
      ∃ q, s.part 1 = some q ∧ (s.verdicts q l).map (·.2) ≠ [] ∧ (mach pen one).verdicts pen l = []) :=
  ⟨rfl, rfl, by decide, _, rfl, by decide, rfl⟩
theorem wit_LevelsDecide : ([⟨1, .pen, .killParent, 0⟩, ⟨1, .pen, .ignore, 0⟩] : List Level)[1]? = some ⟨1, .pen, .ignore, 0⟩ ∧
    (∀ (m : Nat) (u : Level), m < 1 → ([⟨1, .pen, .killParent, 0⟩, ⟨1, .pen, .ignore, 0⟩] : List Level)[m]? = some u → u.policy = .killParent) ∧
    ¬ (Policy.ignore = .killParent) ∧ ∀ (n : Nat) (v : Level), ([⟨1, .pen, .killParent, 0⟩] : List Level)[n]? = some v → v.policy = .killParent := by
  refine ⟨rfl, ?_, by decide, ?_⟩
  · intro m u h e; obtain rfl : m = 0 := by omega
    exact (Option.some.inj e) ▸ rfl
  · intro n v h
    cases n with
    | zero => exact (Option.some.inj h) ▸ rfl
    | succ n => simp at h
theorem wit_OutcomesActedOn : ∀ e ∈ [(Level.mk 1 .pen .ignore 0, Outcome.resume), (⟨1, .pen, .killSelf, 0⟩, .voidResume), (⟨1, .pen, .retry, 3⟩, .retry),
      (⟨1, .pen, .killParent, 0⟩, .discard)],
    let s := frz (fz true false .resume none) (jobT e.1) raiser
    ∃ q ∈ s.part 1, q.run = some (jobT e.1) ∧ q.freeze = some (fz true false .resume none) ∧ (fz true false .resume none).stopped = true ∧
      (fz true false .resume none).captured = false ∧ (s.decide q (fz true false .resume none) (jobT e.1)).outcome = e.2 := by
  intro e h
  simp only [List.mem_cons, List.not_mem_nil, or_false] at h
  rcases h with rfl | rfl | rfl | rfl <;> exact ⟨_, rfl, rfl, rfl, rfl, rfl, rfl⟩
theorem wit_OutcomesActedOn_stable : (mach pen one).decide pen { fz true false .resume none with cause := 0x0E } job = ⟨.stable, 0xFF, 0⟩ := rfl
/-- A trap queue with the first n slots full, of records of a class. -/
def tqp (n : Nat) (fatal : Bool) (r : BitVec 512) : Part := { pen with
  pendRecs := [r], tqValid := BitVec.ofNat 64 (2 ^ n - 1)
  tq := (List.range n).map fun k => (k, if fatal then 1#512 <<< 32 else 1#512) }
/-- How many slots are full of replayable records. -/
def replayables (q : Part) : Nat := ((List.range 64).filter fun k => q.tqValid.getLsbD k ∧ (sget 0 q.tq k).getLsbD 32 = false).length
theorem wit_TrapQueueFills (n : Nat) (f : Bool) (r : BitVec 512) : (mach (tqp n f r) one).part 1 = some (tqp n f r) ∧ (tqp n f r).pendRecs = r :: [] ∧
    (tqp 62 false 0).tqValid.getLsbD 62 = false ∧ (∀ j < 62, (tqp 62 false 0).tqValid.getLsbD j = true) ∧ replayables (tqp 62 false 0) ≤ 62 ∧
    (0#512).getLsbD 32 = false ∧ 62 < replayables (tqp 63 false 0) ∧ (1#512 <<< 32).getLsbD 32 = true ∧
    ∀ k < 64, (tqp 64 true 0).tqValid.getLsbD k = true := ⟨rfl, rfl, rfl, by decide, by decide, rfl, by decide, rfl, by decide⟩
theorem wit_FreezesResume : (let z := fz true true .resume none; let s := frz z job one; ∃ q, s.part 1 = some q ∧ q.run = some job ∧ q.freeze = some z ∧
      z.captured = true ∧ z.outcome ≠ .stable ∧ z.killed = false ∧ z.discardReq = false ∧ z.resumeAt = none ∧ q.pendRecs = [] ∧
      s.served q z = true ∧ z.fgcyc ≤ s.gcyc) ∧
    (let z := { fz true true .resume none with sub := 2, cause := 0x0D }; let s := frz z job one
      ∃ q, s.part 1 = some q ∧ z.captured = true ∧ ¬ (q.pendRecs = [] ∧ s.served { q with pendRecs := [0] } z = true ∧ False)) ∧
    (let z := fz true true .resume (some 100); let s := frz z job one; z.resumeAt = some s.gcyc) ∧
    (let z := { fz true true .resume none with killed := true }; (z.killed = true ∨ z.discardReq = true) ∧
      job.code = [] ∧ { job with code := [0] }.code ≠ [] ∧ (∃ q, (frz z job one).part 1 = some q ∧ q.pendRecs = []) ∧ ∃ q, (mach { pen with freeze := some z, pendRecs := [0] } one).part 1 = some q ∧
        q.pendRecs ≠ []) :=
  ⟨⟨_, rfl, rfl, rfl, rfl, by decide, rfl, rfl, rfl, rfl, rfl, by decide⟩, ⟨_, rfl, rfl, fun h => h.2.2⟩, rfl, Or.inl rfl, rfl, by decide, ⟨_, rfl, rfl⟩,
    _, rfl, by decide⟩
/-- A running and a waiting launch of a pre-emption step and priorities. -/
def pre (step : Nat) : Launch := { job with prio := 3, bank := { pen.bank with preempt := step } }
theorem wit_PreemptionAnnounced : (let q := { pen with run := some (pre 0), next := some { job with prio := 2 } };
      (mach q one).part 1 = some q ∧ q.run = some (pre 0) ∧ q.next = some { job with prio := 2 }) ∧ (pre 0).bank.preempt = 0 ∧
    0 < (pre 1).bank.preempt ∧ pen.stab = none ∧ (2 < (pre 1).prio) ∧ (pre 1).code = [] ∧
    (pre (2 ^ 64 - 1)).bank.preempt = 2 ^ 64 - 1 ∧ (100 - 0 + pen.dist) % (pre 124).bank.preempt = 0 ∧
    (pre 100).bank.preempt ≠ 2 ^ 64 - 1 ∧ (100 - 0 + pen.dist) % (pre 100).bank.preempt ≠ 0 ∧
    (let q := { pen with run := some (pre 1), next := some { job with prio := 2 }, freeze := some (fz false false .resume none) };
      (mach q one).part 1 = some q ∧ q.freeze = some (fz false false .resume none)) :=
  ⟨⟨rfl, rfl, rfl⟩, rfl, by decide, rfl, by decide, rfl, rfl, by decide, by decide, by decide, rfl, rfl⟩
theorem wit_FrontEndAnnounces : (let q := { pen with run := some { job with bank := { pen.bank with wdog := 124 } } }; let s := mach q one
      s.part 1 = some q ∧ q.run = some { job with bank := { pen.bank with wdog := 124 } } ∧ job.code = [] ∧ q.freeze = none ∧ 124 ≠ 0 ∧
      124 - q.dist ≤ s.gcyc - q.lbase) ∧ (fz false false .resume none).stopped = false := ⟨⟨rfl, rfl, rfl, rfl, by decide, by decide⟩, rfl⟩
theorem wit_FirmwareStarts : (∀ x y, Who.core 0 3 ≠ .task x y) ∧ ∀ x y, Who.fw 0 0 ≠ .task x y := ⟨nofun, nofun⟩
theorem wit_LaunchesStabled : (let z := fz true true .stable none; let l := jobT ⟨1, .pen, .ignore, 0⟩
      (∃ q, (frz z l one).part 1 = some q ∧ q.run = some l ∧ q.freeze = some z ∧ z.captured = true ∧ z.outcome = .stable ∧ z.killed = false ∧
        z.discardReq = false ∧ q.pendRecs = [] ∧ (frz z l one).served q z = true) ∧
      (∀ k ∈ l.bank.wids.map (·.1), ∀ o ∈ ((frz z l one).tile k).ops, o.open_ = false ∨ (frz z l one).flagHolds k o = true) ∧ (l.bank.wids.map (·.1)).Nodup ∧
      ∃ o ∈ ((frz z l { one with ops := [pend] }).tile 0).ops, ¬ (o.open_ = false ∨ (frz z l { one with ops := [pend] }).flagHolds 0 o = true)) :=
  ⟨⟨_, rfl, rfl, rfl, rfl, rfl, rfl, rfl, rfl, rfl⟩, by decide, by decide, pend, by decide, by decide⟩
/-- A stabled launch of the partition, with blocks. -/
def stb (b : List LoftBlock) : State := mach { pen with
  stab := some ⟨jobT ⟨1, .pen, .ignore, 0⟩, fz true true .stable none, 0, [(0, one)], [], [], [], [], none, none, b⟩ } one
/-- A block that an uncorrectable error has struck. -/
def struck : LoftBlock := ⟨0, .save 0, 0, [], 0, 0, true⟩
theorem wit_LaunchesRestored : (∃ q z, (stb []).part 1 = some q ∧ q.stab = some z ∧ (stb []).restoreDue 1 = true ∧
      (stb []).firstBad 1 q z = none ∧ (z.tiles.map (·.1)).Nodup) ∧
    ∃ q z b, (stb [struck]).part 1 = some q ∧ q.stab = some z ∧ (stb [struck]).restoreDue 1 = true ∧ (stb [struck]).firstBad 1 q z = some b :=
  ⟨⟨_, _, rfl, rfl, rfl, rfl, by decide⟩, _, _, _, rfl, rfl, rfl, rfl⟩

/-! ## Queues and launches -/

/-- A record of a kind, with more of its bytes. -/
def rc (idx : W32) (kind : Nat) (more : Nat) (st dn : Bool) : Rec :=
  ⟨idx, BitVec.ofNat 2048 (idx.toNat + kind * 2 ^ 64 + more), 0, 1, st, dn, 0, 0, false, 0⟩
/-- A running queue that names partition 1, at CIDX 0, with records. -/
def qu (rs : List Rec) : Queue :=
  { Queue.zero with desc := 0x8001#512 <<< 128, en := true, st := .running, ridx := BitVec.ofNat 32 rs.length, recs := rs, def_ := 1 }
/-- The machine with queue 0. -/
def qm (d : Queue) : State := { mach pen one with queues := [(0, d)] }

/-- A frame with its FCS. -/
def fcs (f : Frame) : Frame := { f with fcs := frameCheck f }
theorem wit_WakesLand : (Queue.zero.en = false) ∧ (qu []).en = true ∧ (qu []).ow = false ∧ (qu []).pset.contains 1 = true ∧
    (qu []).pset.contains 2 = false ∧ { qu [] with desc := 1#512 <<< 78 }.ow = true ∧
    (qm (qu [])).frameOk (fcs (mkFrame 2 3 0 0 0 0 0 7 0 0 [])) 2 255 = true ∧ fTidx (fcs (mkFrame 2 3 0 0 0 0 0 7 0 0 [])) < 2 ^ 15 ∧
    ((0 < 2 ^ 15) ∧ m0.chipletLit (0 % 28) = true ∧ ∀ p, WakeSrc.tile 1 = .host p → p < 8 ∧ m0.answers p = true) ∧ ({ m0 with power := .standby } : State).chipletLit (1 % 28) = false ∧ m0.answers 7 = true ∧
    m0.portLit 0 = true ∧ State.reset.portLit 0 = false ∧
    ¬ (∀ p, WakeSrc.host 8 = .host p → p < 8 ∧ m0.answers p = true) :=
  ⟨rfl, rfl, rfl, rfl, rfl, rfl, by decide, by decide, ⟨by decide, rfl, nofun⟩, rfl, rfl, rfl, rfl, fun h => absurd (h 8 rfl).1 (by decide)⟩
/-- A queue that WIDX lets look, with host memory. -/
def ql (h : List Host.Cell) : State := { qm { qu [] with widx := 1 } with host := h }
theorem wit_EntriesTaken :
    (let b (h : List Host.Cell) := BitVec.ofNat 2048 (memNat (if (qu []).desc.getLsbD 0 then State.reset.dev else (ql h).host) 0 256);
      ((ql []).queue 0).looks = true ∧ ((qm (qu [])).queue 0).looks = false ∧ recF (b [(0, 1)]) 0 8 ≠ 0 ∧ recF (b []) 0 8 = 0 ∧
      (∃ o, ((ql []).queue 0).recordBad 0 (b []) = some o) ∧ recF (b [(8, 2)]) 0 8 = 0 ∧ ((ql []).queue 0).recordBad 0 (b [(8, 2)]) = none ∧
      recF (b [(8, 1)]) 8 1 = 1) := ⟨rfl, rfl, by decide, rfl, ⟨_, rfl⟩, rfl, rfl, rfl⟩
theorem wit_RecordsStart : (qu [rc 0 3 0 false false]).starts 0 = true ∧ (qu [rc 0 3 0 true false]).starts 0 = false ∧
    (qu [rc 0 4 0 true false]).underWay 0 4 = some (rc 0 4 0 true false) ∧ (qu [rc 0 4 0 true false]).starts 0 = false ∧
    (qu [rc 0 4 0 true false]).cidx.toNat = 0 ∧ (let d := qu [rc 1 4 0 true false]; d.underWay 1 4 = some (rc 1 4 0 true false) ∧ d.cidx.toNat ≠ 1) ∧
    (let d := qu [rc 0 4 0 false false]; d.starts 0 = true ∧ d.cidx.toNat = 0 ∧ d.head = some (rc 0 4 0 false false) ∧ (rc 0 4 0 false false).kind = 4) ∧
    (let d := qu [rc 1 4 0 false false]; d.starts 1 = true ∧ d.cidx.toNat ≠ 1) :=
  ⟨rfl, rfl, rfl, rfl, rfl, ⟨rfl, by decide⟩, ⟨rfl, rfl, rfl, rfl⟩, rfl, by decide⟩
theorem wit_RecordsWrite : (let r := rc 0 3 (2 ^ (8 * 160) + 64 * 2 ^ (8 * 144)) true false; (qu [r]).underWay 0 3 = some r ∧ (qu [r]).cidx.toNat = 0) ∧
    (let r := rc 1 3 0 true false; (qu [r]).underWay 1 3 = some r ∧ (qu [r]).cidx.toNat ≠ 1) ∧
    (let r := rc 1 5 0 true false; let l := rc 0 1 0 true true; (qu [l, r]).underWay 1 5 = some r ∧
      (qu [l, r]).recs.find? (fun l => l.idx.toNat == recF r.bytes 152 4 && l.kind == 1 && l.done) = some l) ∧
    (let w := rc 0 2 (2 ^ 80 + 2 ^ 62 * 2 ^ 128) true false; w.awaitsEvent = true) :=
  ⟨⟨rfl, rfl⟩, ⟨rfl, by decide⟩, ⟨rfl, rfl⟩, rfl⟩
theorem wit_DependencesRechecked : (qu [rc 0 2 0 true false]).recs[0]? = some (rc 0 2 0 true false) ∧ (rc 0 2 0 true false).done = false := ⟨rfl, rfl⟩
/-- A launch that starts at 100, first or again. -/
def starting : Launch := { job with s := some 100, bank := { pen.bank with wids := [(0, 0)], wdog := 200 }, code := [0] }
theorem wit_LaunchesStart : (let q := { pen with next := some starting }; (mach q one).part 1 = some q ∧ (q.run = none ∧ q.next = some starting) ∧
      starting.s = some (mach q one).gcyc ∧ (mach q one).trip = false ∧ (mach q one).aligned q = true ∧ q.active = true ∧
      (starting.bank.wids.map (·.1)).Nodup ∧ starting.bank.wdog ≠ 0 ∧ (mach q one).withdrawnPen q = none ∧
      (mach q one).earlierHas starting (fun o => o.all ((mach q one).gcyc < ·)) = false ∧
      ∀ b ∈ (mach q one).loftUsed, starting.bank.covers b = false) ∧
    (let q := { pen with run := some starting }; q.run = some starting ∧ starting.code ≠ []) ∧
    { pen with power := .idle }.active = false := ⟨⟨rfl, ⟨rfl, rfl⟩, rfl, rfl, rfl, rfl, by decide, by decide, rfl, rfl, by decide⟩, ⟨rfl, by decide⟩, rfl⟩
theorem wit_LaunchesRetire : (let q := { pen with run := some job }; (mach q { one with st := .ended }).part 1 = some q ∧ q.run = some job ∧
    (mach q { one with st := .ended }).retires 1 = true ∧ (mach q one).retires 1 = false ∧ job.bank.rbuf = 0 ∧ job.voids = []) ∧
    { job.bank with rbuf := 64 }.rbuf ≠ 0 :=
  ⟨⟨rfl, rfl, rfl, rfl, rfl, rfl⟩, by decide⟩
/-- Queue 0 has a LAUNCH at its head. -/
def lq : State := qm (qu [rc 0 1 0 false false])
theorem wit_LaunchesCommitted : lq.part 1 = some pen ∧ lq.toNote 1 = none ∧ pen.next = none ∧
    pen.resumesFirst ((lq.eligible 1).map fun j => (lq.queue j).prio) = false ∧ 0 ∈ lq.eligible 1 ∧
    (∀ i ∈ lq.eligible 1, (lq.queue 0).prio ≤ (lq.queue i).prio) ∧ 0 < (lq.queue 0).def_ := ⟨rfl, rfl, rfl, rfl, by decide, by decide, by decide⟩
/-- The same without credit, its QUANT 5. -/
def lq0 : State := qm { qu [rc 0 1 0 false false] with desc := 0x8001#512 <<< 128 ||| 5#512 <<< 320, def_ := -7 }
theorem wit_DeficitsRefilled : lq0.part 1 = some pen ∧ lq0.toNote 1 = none ∧ pen.next = none ∧
    pen.resumesFirst ((lq0.eligible 1).map fun j => (lq0.queue j).prio) = false ∧ 0 ∈ lq0.eligible 1 ∧
    ∀ i ∈ lq0.eligible 1, (lq0.queue 0).prio ≤ (lq0.queue i).prio ∧ (lq0.queue i).def_ ≤ 0 ∧ 0 < (lq0.queue i).field 40 4 :=
  ⟨rfl, rfl, rfl, rfl, by decide, by decide⟩
theorem wit_StartsAnnounced : m0.scheduleDue 1 = false ∧
    (let l := { starting with s := none, placed := false }; let q := { pen with next := some l }; let s := mach q one
      s.part 1 = some q ∧ s.toNote 1 = none ∧ q.next.isSome = true ∧ q.toAnnounce = some (l, false) ∧ s.mayAnnounce q l = true ∧
      (l.bank.wids.map (·.1)).Nodup) ∧
    (let l := { starting with s := none }; let q := { pen with run := some l }; let s := mach q one
      s.eligible 1 = [] ∧ q.toAnnounce = some (l, true)) ∧
    (let l := { starting with s := none, placed := false }; let q := { pen with next := some l }
     (mach q one).withdrawnPen q = none ∧
     ({ mach q one with tiles := [(0, { one with health := { Health.zero with state := 2 } })] } : State).withdrawnPen q = some 0) :=
  ⟨rfl, ⟨rfl, rfl, rfl, rfl, rfl, by decide⟩, ⟨rfl, rfl⟩, rfl, rfl⟩

/-! ## Sequencers, links, memory side -/

/-- An entry of partition 1: a ring of modules 0 and 1, FP32, 4 elements; byte 19 as given. -/
def ent (b19 : Nat) : BitVec 512 := BitVec.ofNat 512 (2 ^ 16 + 2 * 2 ^ 128 + 64 * 2 ^ 136 + b19 * 2 ^ 152 + (1 + 512) * 2 ^ 160 + 4 * 2 ^ 320)
/-- Entry 5 of Y8. -/
def ekey : Nat := 4096 * 8 + 5
/-- A frame of a kind, format and hop, for entry 5. -/
def fr (kind fmt hop : Nat) : Frame := fcs (mkFrame kind fmt 0 0 hop 1 0 5 0 4 (List.replicate 16 0))
/-- The run of that entry. -/
def run : SeqRun := ⟨1, 0, 2, 1, [], [fr 0 4 0], [], [], [⟨0, 0, 1, mkFrame 0 4 0 0 0 0 1 5 0 4 [], 3, 0, false⟩], false, false, 0⟩
/-- The machine with the entry, a run, and a partition with pages. -/
def sq (b19 : Nat) (r : Option SeqRun) : State :=
  { mach { pen with bank := { pen.bank with regions := regs } } one with seqEntries := [(ekey, ent b19)], seqRuns := [(ekey, r)] }
theorem wit_EntriesFire : ekey ≠ barKey ∧ 8 ≤ ekey / 4096 ∧ 5 / 4096 < 8 ∧
    (sq 0 none).part 1 = some { pen with bank := { pen.bank with regions := regs } } ∧
    entOwner (ent 0) = some 1 ∧ entOwner 0 ≠ some 1 ∧ entBusy (ent 2) = true ∧ entBusy (ent 0) = false ∧
    (sq 0 none).fireOk ekey (ent 0) = true ∧ (sq 0 none).fireOk ekey (ent 0 ||| (1#512 <<< 448)) = false ∧
    (sq 0 none).chipletLit (ekey / 4096) = true ∧ State.reset.chipletLit (ekey / 4096) = false ∧
    (∀ k < (Ent.of (ent 0)).chunks, ((sq 0 none).ownerRead 1 ((Ent.of (ent 0)).laddr + 8192 * k) ((Ent.of (ent 0)).chunkLen k)).isSome = true) :=
  ⟨by decide, by decide, by decide, rfl, rfl, by decide, rfl, rfl, rfl, rfl, rfl, rfl, by decide⟩
theorem wit_HostFires : (let s := ({ sq 0 none with ports := [(0, { Port.zero with aper := 1 })] } : State)
    checkRegion (s.aperture 0) .w ((BitVec.ofNat 64 (2 ^ 21 + 16 + 64 * 5)).toNat / 64 * 64) 64 = .ok (seqBase + 64 * 5) ∧
    inSeq (seqBase + 64 * 5) = true ∧ seqKey (seqBase + 64 * 5) = some (5, 0) ∧ 1 = (s.port 0).aper.toNat % 512 ∧ 5 ≠ barKey ∧ s.chipletLit (5 / 4096) = true ∧
    entOwner ((s.setEntry 5 (ent 0)).entry 5) = some 1) := ⟨rfl, rfl, rfl, rfl, by decide, rfl, rfl⟩
theorem wit_EntriesEnd : (sq 3 (some run)).run? ekey = some run ∧ run.settled = false ∧ { run with ended := true }.ended = true ∧
    { run with aborted := true }.settled = true ∧ { run with status := [(0, 2)] }.settled = true ∧ run.ended = false ∧
    (∃ q, (sq 3 (some run)).part run.part = some q ∧ checkRegion q.bank.regions .w (Ent.of (ent 3)).saddr ((run.chunks + 3) / 4) = .ok 0) ∧
    ∀ k, sget 0 run.status k < 4 := ⟨rfl, rfl, rfl, rfl, rfl, rfl, ⟨_, rfl, rfl⟩, fun _ => by show 0 < 4; decide⟩
theorem wit_FramesAnswered_kinds : frameKey 0 (fr 1 4 0) = ekey ∧ ekey ≠ barKey ∧ (sq 3 (some run)).run? ekey = some run ∧
    (let lim := 2 * (Ent.of (ent 3)).n - 3
     (sq 3 (some run)).frameOk (fr 1 4 0) 1 lim = true ∧ (sq 3 (some run)).frameOk (fr 1 0 0) 1 lim = false ∧
     (sq 3 (some run)).frameOk (fr 3 4 0) 3 lim = true ∧ (sq 3 (some run)).frameOk (fr 3 0 0) 3 lim = false ∧
     (sq 3 (some run)).frameOk (fr 2 0 0) 2 255 = false ∧ run.settled = false ∧ { run with aborted := true }.settled = true) := by decide
theorem wit_FramesAnswered_data : fKind (fr 0 4 1) = 0 ∧ fTidx (fr 0 4 1) < 4096 ∧
    (let lim := 2 * (Ent.of (ent 3)).n - 3
     (sq 3 (some run)).frameOk (fr 0 4 1) 0 lim = true ∧ (sq 3 (some run)).frameOk (fr 0 4 2) 0 lim = false ∧ payloadOk (fr 0 4 1) = true ∧
     payloadOk (fr 0 4 0) = true ∧ run.again (fr 0 4 0) 100 = true ∧ run.again (fr 0 4 1) 100 = false ∧
     run.expects (Ent.of (ent 3)) (fr 0 4 1) = true ∧ { run with ended := true }.expects (Ent.of (ent 3)) (fr 0 4 1) = false) ∧
    payloadOk (fcs (mkFrame 0 4 0 0 1 1 0 5 0 4 [])) = false := by decide
theorem wit_FramesAnswered_timeout : run.aborted = false ∧
    (∃ x, run.sent.find? (fun x => x.overdue 0 0 153600) = some x ∧ x.tries < 4 ∧ 4 ≤ { x with tries := 4 }.tries ∧ x.stale = false) :=
  ⟨rfl, _, rfl, by decide, by decide, rfl⟩
theorem wit_RingReduces : ∀ c ∈ [([], 0), ([], 1)], let s := sq 3 (some { run with pos := 1 - c.2, applied := c.1 }); let f := fr 0 4 c.2
    let x := Ent.of (s.entry ekey)
    s.portLit 0 = true ∧ fKind f = 0 ∧ fTidx f < 4096 ∧ s.frameOk f 0 (2 * x.n - 3) = true ∧ payloadOk f = true ∧
    (∃ r q, s.run? ekey = some r ∧ r.again f s.gcyc = false ∧ r.expects x f = true ∧ x.cv = false ∧ x.kc = 0 ∧ s.part r.part = some q ∧
      (s.ownerRead r.part (x.laddr + 8192 * fChunk f) (x.chunkLen (fChunk f))).isSome = true ∧
      checkRegion q.bank.regions .w (x.raddr + 8192 * fChunk f) 16 = .ok 0) := by
  intro c h
  simp only [List.mem_cons, List.not_mem_nil, or_false] at h
  rcases h with rfl | rfl <;> exact ⟨rfl, rfl, by decide, by decide, by decide, _, _, rfl, by decide, by decide, rfl, rfl, rfl, by decide, rfl⟩
/-- The entry as a cavity, its results at 4096. -/
def entCV : BitVec 512 := ent 3 ||| (1#512 <<< 147) ||| (4096#512 <<< 256)
theorem wit_CavityFolds : ∀ pos ∈ [0, 1], let s : State := { sq 3 (some { run with pos := pos, applied := [] }) with seqEntries := [(ekey, entCV)] }
    let f := fr 0 4 (1 - pos); let x := Ent.of (s.entry ekey)
    s.portLit 0 = true ∧ fKind f = 0 ∧ fTidx f < 4096 ∧ s.frameOk f 0 (2 * x.n - 3) = true ∧ payloadOk f = true ∧ f.payload ≠ [] ∧
    (∃ r q, s.run? ekey = some r ∧ r.again f s.gcyc = false ∧ r.expects x f = true ∧ x.cv = true ∧ s.part r.part = some q ∧
      (s.ownerRead r.part (x.laddr + 8192 * fChunk f) (x.chunkLen (fChunk f))).isSome = true ∧
      checkRegion q.bank.regions .w (x.raddr + 8192 * fChunk f) 16 = .ok 4096) := by
  intro pos h
  simp only [List.mem_cons, List.not_mem_nil, or_false] at h
  rcases h with rfl | rfl <;> exact ⟨rfl, rfl, by decide, by decide, by decide, by decide, _, _, rfl, by decide, by decide, rfl, rfl, by decide, rfl⟩
theorem wit_TopKKeeps : 4 ≤ (List.replicate 64 (1 : Nat)).length := by decide
/-- A barrier's ring at port 0, and a frame of it with a hop. -/
def brt (r : BarRing) (seen : List (Frame × Nat)) : State := { mach { pen with ring := some r } one with barSeen := seen }
/-- That frame. -/
def brf (hop : Nat) : Frame := fcs (mkFrame 0 4 1 0 hop 1 0 0xFFF 0 0 [])
theorem wit_BarrierFrames : (let s := brt .fresh [(brf 0, 0)]; let f := brf 0; let q : Part := { pen with ring := some .fresh }
      s.portLit 0 = true ∧ fKind f = 0 ∧ fTidx f = 0xFFF ∧ s.barPart = some (1, q) ∧ s.part 1 = some q ∧ fLvl f ≠ 0 ∧
      s.frameOk f 0 (q.groupCount (fLvl f - 1) - 1) = true ∧ payloadOk f = true ∧ s.frameOk (brf 1) 0 (q.groupCount (fLvl f - 1) - 1) = false ∧
      (∃ e ∈ s.barSeen, sameChunk e.1 f = true ∧ s.gcyc ≤ e.2 + 5 * 153600) ∧ fHop f + 1 = q.groupCount (fLvl f - 1)) ∧
    ((brt ⟨0, 0, [1], true, [], false⟩ []).barSeen = [] ∧ BarRing.fresh.aborted = false ∧ BarRing.fresh.rings.head? ≠ some 1 ∧
      (⟨0, 0, [1], true, [], false⟩ : BarRing).rings.head? = some 1) := by decide
/-- An idle flit with a SEQ, and more of its header: all of it zero has CRCs of zero. -/
def flt (seq : Nat) : Flit := ⟨BitVec.ofNat 2048 (seq * 2 ^ 116)⟩
theorem wit_FlitsReceived : m0.power = .on ∧ (m0.link 0).disabled = false ∧ flitSeq (flt 0).bits = ((m0.link 0).end_ true).txSeq ∧
    (m0.maySend 0 ((m0.link 0).end_ false) (flt 0).bits 0 = true ∧ m0.maySend 0 ((m0.link 0).end_ false) (flt 0).bits 1 = true) ∧
    (flitType (flt 0).bits ≠ 2 ∧ flitCount (flt 0).bits % 4096 ≠ 4095) ∧ (∃ f : Flit, flitType f.bits = 2 ∧ flitCount f.bits % 4096 = 4095) ∧
    (crcGood (flt 0).bits = true ∧ flitCorrupt (flt 0).bits ((m0.link 0).end_ true).fcnt = false) ∧ crcGood (flt 5).bits = false ∧
    ((m0.link 0).end_ true).discarding = false ∧ flitSeq (flt 5).bits ≠ ((m0.link 0).end_ true).txSeq ∧
    (let e := { UcieEnd.zero with discarding := true, sent := [flt 5] }
     e.discarding = true ∧ flt 5 ∈ e.sent ∧ flitSeq (flt 0).bits = e.rxSeq + 1 ∧ flitSeq (flt 5).bits ≠ e.rxSeq + 1) ∧
    { Ucie.zero with disabled := true }.disabled = true ∧ State.reset.power ≠ .on ∧ (∀ p q, (m0.tile 0).part = some p → m0.part p = some q → m0.reservesOn p 0 = false) :=
  ⟨rfl, rfl, by decide, ⟨by decide, by decide⟩, ⟨by decide, by decide⟩, ⟨⟨BitVec.ofNat 2048 (2 * 2 ^ 100 + 4095 * 2 ^ 32)⟩, by decide, by decide⟩, ⟨by decide, by decide⟩, by decide, rfl, by decide,
    by decide, rfl, by decide, fun p q h g => by obtain rfl : 1 = p := Option.some.inj h; rfl⟩
/-- A beat that says 16 bytes for tile (1, 0) from tile (0, 0), of an operation 1. -/
def beatTo : BitVec 768 := BitVec.ofNat 768 (1 * 2 ^ 32 + 2 ^ 64 + 16 * 2 ^ 224)
/-- What the flit says of it: of partition 1, its fourth chunk marked as poisoned, with check bits for its first three words. -/
def beatInfo (c0 c1 c2 : BitVec 9) : BitVec 128 := 0#78 ++ c2 ++ c1 ++ c0 ++ 0x80001#23
theorem beatInfo_checks (c0 c1 c2 : BitVec 9) : (beatInfo c0 c1 c2).extractLsb' 23 9 = c0 ∧ (beatInfo c0 c1 c2).extractLsb' 32 9 = c1 ∧
    (beatInfo c0 c1 c2).extractLsb' 41 9 = c2 ∧ (beatInfo c0 c1 c2).extractLsb' 0 9 = 1 ∧ (beatInfo c0 c1 c2).extractLsb' 9 8 = 0 ∧
    (beatInfo c0 c1 c2).getLsbD 19 = true := by
  have h (w k : Nat) (c : BitVec w) (g : ∀ i < w, (beatInfo c0 c1 c2).getLsbD (k + i) = c.getLsbD i) : (beatInfo c0 c1 c2).extractLsb' k w = c :=
    BitVec.eq_of_getLsbD_eq fun i hi => by simpa [BitVec.getLsbD_extractLsb', hi] using g i hi
  have e (i : Nat) : (beatInfo c0 c1 c2).getLsbD i = if i < 23 then (0x80001#23).getLsbD i else if i - 23 < 9 then c0.getLsbD (i - 23) else
      if i - 23 - 9 < 9 then c1.getLsbD (i - 23 - 9) else if i - 23 - 9 - 9 < 9 then c2.getLsbD (i - 23 - 9 - 9) else false := by
    have h₁ := BitVec.getLsbD_append (x := 0#78 ++ c2 ++ c1 ++ c0) (y := 0x80001#23) (i := i)
    have h₂ := BitVec.getLsbD_append (x := 0#78 ++ c2 ++ c1) (y := c0) (i := i - 23)
    have h₃ := BitVec.getLsbD_append (x := 0#78 ++ c2) (y := c1) (i := i - 23 - 9)
    have h₄ := BitVec.getLsbD_append (x := 0#78) (y := c2) (i := i - 23 - 9 - 9)
    rw [h₂, h₃, h₄, BitVec.getLsbD_zero] at h₁
    exact h₁
  refine ⟨h _ _ _ ?_, h _ _ _ ?_, h _ _ _ ?_, h _ _ _ ?_, h _ _ _ ?_, by rw [e]; rfl⟩ <;> intro i hi <;> rw [e]
  · rw [if_neg (by omega), if_pos (by omega)]; congr 1; omega
  · rw [if_neg (by omega), if_neg (by omega), if_pos (by omega)]; congr 1; omega
  · rw [if_neg (by omega), if_neg (by omega), if_neg (by omega), if_pos (by omega)]; congr 1; omega
  · rw [if_pos (by omega)]; exact (by decide : ∀ i < 9, (524289#23).getLsbD (0 + i) = (1#9).getLsbD i) i hi
  · rw [if_pos (by omega)]; exact (by decide : ∀ i < 8, (524289#23).getLsbD (9 + i) = (0#8).getLsbD i) i hi
/-- The same with its words 0 and 1 as they are, and one check bit of word 2 wrong. -/
def beatFlit : BitVec 128 :=
  beatInfo (Config.eccOf (beatTo.extractLsb' 0 128)) (Config.eccOf (beatTo.extractLsb' 128 128)) (Config.eccOf (beatTo.extractLsb' 256 128) ^^^ 1#9)
theorem beatFlit_ecc : beatEcc beatTo beatFlit 0 = .clean ∧ beatEcc beatTo beatFlit 2 = .single ∧
    beatWord beatTo beatFlit 1 ++ beatWord beatTo beatFlit 0 = beatTo.extractLsb' 0 256 := by
  obtain ⟨h₀, h₁, h₂, -⟩ := beatInfo_checks (Config.eccOf (beatTo.extractLsb' 0 128)) (Config.eccOf (beatTo.extractLsb' 128 128))
    (Config.eccOf (beatTo.extractLsb' 256 128) ^^^ 1#9)
  have e (e : BitVec 9) : e ≠ e ^^^ 1#9 := by revert e; decide
  have w (n : Nat) (h : beatFlit.extractLsb' (23 + 9 * n) 9 = Config.eccOf (beatTo.extractLsb' (128 * n) 128)) :
      beatWord beatTo beatFlit n = beatTo.extractLsb' (128 * n) 128 := by simp [beatWord, eccWord, h]
  refine ⟨?_, ?_, ?_⟩
  · simp [beatEcc, eccState, beatFlit, h₀]
  · show eccState _ (beatFlit.extractLsb' 41 9) = .single
    rw [show beatFlit.extractLsb' 41 9 = _ from h₂]
    simp only [eccState]
    rw [if_neg (e _), if_pos]
    exact Bool.or_eq_true_iff.2 (Or.inl (List.any_eq_true.2 ⟨0, by decide, by simp⟩))
  · rw [w 0 h₀, w 1 h₁]; decide
theorem wit_BeatsJudged : let s : State := { m0 with tiles := [(0, one), (1, { one with ops := [pend] })] }
    let hd : BitVec 256 := beatWord beatTo beatFlit 1 ++ beatWord beatTo beatFlit 0
    beatEcc beatTo beatFlit 0 = .clean ∧ beatEcc beatTo beatFlit 2 = .single ∧
    (beatFlit.extractLsb' 0 9).toNat = 1 ∧ s.part 1 = some pen ∧ beatFlit.extractLsb' 9 8 = s.accepted pen ∧ 1#8 ≠ s.accepted pen ∧ s.part 2 = none ∧
    (((s.link 0).end_ true).trains.filter fun t => t.cls == 0 && t.part == 1) = [] ∧ hd.extractLsb' 16 8 = 0 ∧
    (hd.extractLsb' 32 16).toNat = 1 ∧ (1 : Nat) / 256 < 144 ∧ 16 * (2 - 2) < (hd.extractLsb' 224 32).toNat ∧ beatFlit.getLsbD (17 + 2) = true ∧
    (s.tile 1).part = some 1 ∧ (s.tile 1).ops[0]? = some pend ∧ pend.id % 2 ^ 16 = (hd.extractLsb' 64 16).toNat := by
  obtain ⟨-, -, -, h₁, h₂, h₃⟩ := beatInfo_checks (Config.eccOf (beatTo.extractLsb' 0 128)) (Config.eccOf (beatTo.extractLsb' 128 128))
    (Config.eccOf (beatTo.extractLsb' 256 128) ^^^ 1#9)
  obtain ⟨e₀, e₂, e₃⟩ := beatFlit_ecc
  intro s hd
  have : hd = beatTo.extractLsb' 0 256 := e₃
  rw [this]
  exact ⟨e₀, e₂, congrArg BitVec.toNat h₁, rfl, h₂, by decide, rfl, rfl, by decide, by decide, by decide, by decide, h₃, rfl, rfl, by decide⟩
/-- A module whose wafer end has seen a parity flit that differs on lane 63, with disagreements before. -/
def uci (seen spares : Nat) : Ucie :=
  { Ucie.zero with wafer := { UcieEnd.zero with fcnt := 2 ^ 24 - 1, seen := some (1#64 <<< 63) }, parity := List.replicate seen (63, 0), spares := spares }
theorem wit_LanesRepaired : m0.power = .on ∧ (uci 2 0).disabled = false ∧ 63 < 64 ∧ ((uci 2 0).end_ false).seen = some (1#64 <<< 63) ∧
    ({ UcieEnd.zero with seen := some 0 }.seen = some 0 ∧ UcieEnd.zero.seen = none) ∧
    2 ≤ ((uci 2 0).parity.filter fun e => (uci 2 0).wafer.fcnt < e.2 + 2 ^ 24 ∧ e.1 = 63).length ∧ (uci 2 0).spares + (uci 2 0).waiting < 4 ∧
    ((uci 1 0).parity.filter fun e => (uci 1 0).wafer.fcnt < e.2 + 2 ^ 24 ∧ e.1 = 63).length < 2 ∧
    4 ≤ (uci 2 4).spares + (uci 2 4).waiting ∧ (uci 2 0).wafer.fcnt % 4096 = 4095 ∧ Ucie.zero.wafer.fcnt % 4096 ≠ 4095 ∧ 559 < 560 := by decide
/-- UCIe module 160 of Y8 is disabled; the partition has a slot on slice 0 when asked. -/
def unl (slot : Bool) (q : Part) : State :=
  { mach q one with ucie := [(160, { Ucie.zero with disabled := true }), (0, { Ucie.zero with disabled := true })]
                    chans := if slot then [(0, { HChan.zero with slots := [0x4001] })] else [] }
theorem wit_ReservationsRelaid : ∃ c, (unl true { pen with run := some job }).unlaid c ≠ [] ∧
    ((unl false pen).partIds.filter fun p => (unl false pen).reserves p c && !(unl false pen).quiesced p) = [] ∧ (unl false pen).unlaid c ≠ [] ∧
    (let s := unl true { pen with run := some job }; (s.partIds.filter fun p => s.reserves p c && !s.quiesced p) ≠ []) :=
  ⟨chipletOf 0, by decide, by decide, by decide, by decide⟩
/-- Channel 0 of slice 0 has one slot; tile (0, 0) a load under way. -/
def slt (e : BitVec 16) (ops : List RemOp) : State :=
  { mach pen { one with ops := ops } with gcyc := 12288, chans := [(0, { HChan.zero with slots := [e] })] }
/-- That load, with its block at the slice 24 cycles before. -/
def sltO : RemOp := { pend with pieces := [⟨0, 12264, none, 0, 0, false⟩] }
theorem wit_SlotsServe : m0.chanKey 0 0 = some 0 ∧ m0.gcyc % 12 ≠ 0 ∧ (slt 0x4001 []).power = .on ∧ (slt 0x4001 []).gcyc % 12 = 0 ∧
    ((slt 0x4001 []).chan 0).lastSlot ≠ some (slt 0x4001 []).gcyc ∧
    ((((slt 0x4001 []).chan 0).slots.getD ((slt 0x4001 []).gcyc % 12288 / 12) 0).extractLsb' 14 2).toNat = 1 ∧
    (slt 0x4001 [sltO]).slotServes 1 0 0 false = some (0, sltO, ⟨0, 12264, none, 0, 0, false⟩) ∧
    (slt 0x4001 []).slotServes ((0x4001#16).extractLsb' 0 9).toNat 0 0 ((0x4001#16).getLsbD 13) = none ∧
    ((0xC000#16).extractLsb' 14 2).toNat = 3 ∧ ((0x8000#16).extractLsb' 14 2).toNat = 2 := by decide
theorem wit_SlotsServe_table : [0#16].length ≠ 1024 ∧
    (let t := List.replicate 1024 (0x8000#16)
     ¬ (t.length ≠ 1024 ∨ (t.filter fun e => e.extractLsb' 14 2 = 2).length < 32 ∨
       ∃ e ∈ t, e.extractLsb' 9 4 ≠ 0 ∨ (e.extractLsb' 14 2 ≠ 1 ∧ (e.getLsbD 13 = true ∨ e.extractLsb' 0 9 ≠ 0)))) :=
  ⟨by decide, by simp⟩
theorem wit_ChannelRegisters : m0.chanKey 0 15 = some 15 ∧ m0.chanKey 115 0 = none ∧ 115 < 116 ∧ 15 < 16 ∧ ((3#2) = 3) ∧
    ((slt 0x4001 []).chan 0).slots.any (fun e => e.extractLsb' 14 2 = 1) = true ∧
    HChan.zero.slots.any (fun e => e.extractLsb' 14 2 = 1) = false ∧
    ¬ ((2#2) = 3) ∧ ({ HChan.zero with hctl := 1 }.hctl.toNat % 4 = 1 ∧ (2#2) ≠ 1) ∧ ¬ (HChan.zero.hctl.toNat % 4 = 1) ∧
    3 < 4 ∧ (27#5).toNat < 28 ∧ (∀ p ∈ m0.partIds, m0.quiesced p = true ∨ m0.onSlice p (28 * 3 + 27) = false) ∧ ¬ ((28#5).toNat < 28) ∧
    ({ HChan.zero with hstat := 2 }.hstat.getLsbD 1 = true ∧ HChan.zero.hstat.getLsbD 1 = false ∧ m0.spareFor (0 / 16 / 28) = none) := by
  decide
/-- A message of a class to an endpoint. -/
def bm (cls dst n : Nat) (p : BitVec 9) (gen : Byte) : BulkMsg := ⟨BitVec.ofNat 256 (cls * 32 + dst * 2 ^ 32 + n * 2 ^ 224), p, gen, 1⟩
theorem wit_MessagesJudged : m0.power = .on ∧ State.reset.power ≠ .on ∧
    msgDropped (bm 6 0 0 1 0) = true ∧ msgDropped (bm 3 0 0 2 0) = false ∧ m0.serves (msgField (bm 3 0 0 2 0) 4 2) 2 = false ∧
    m0.serves (msgField (bm 3 0 0 1 0) 4 2) 1 = true ∧ msgAnswered (bm 3 0 96 1 0) = true ∧ msgAnswered (bm 3 0 0 1 0) = false ∧
    m0.part 1 = some pen ∧ (bm 3 0 0 1 0).gen = m0.accepted pen ∧ (bm 3 0 0 1 1).gen ≠ m0.accepted pen := ⟨rfl, by decide, rfl, rfl, rfl, rfl, by simp [msgAnswered, msgField, bm], by simp [msgAnswered, msgClass, msgField, bm], rfl, rfl, by decide⟩

/-! ## Power, commands, registers -/

/-- The machine ON, the semaphore with port 0, the arguments of port 0 as given. -/
def cmd (a b : Nat) (q : Part) (t : Tile) : State :=
  { mach q t with ownsem := 1, ports := [(0, { Port.zero with cmdarg := [(0, BitVec.ofNat 64 a), (1, BitVec.ofNat 64 b), (2, 4096)] })] }
/-- The same in STANDBY. -/
def sby (a b : Nat) : State := { cmd a b pen one with power := .standby, parts := [] }
/-- Port 0 has asked for ON. -/
def ontask : OnTask := ⟨0, 0, 1, 1, 1, 1, 1⟩
/-- Port 0 has a command under way. -/
def busyPort (s : State) : State := { s with ports := [(0, { s.port 0 with cmdstat := 1 })] }

theorem wit_PowerComesAndGoes : State.reset.power = .off ∧ (true && true) = true ∧ (true && false) = false ∧
    (cmd 0 0 pen one).ownsem.toNat = 0 + 1 ∧ ¬ (State.reset.ownsem.toNat = 1 + 1) := ⟨rfl, rfl, rfl, rfl, by decide⟩
theorem wit_ThermalTrips : (m0.power = .on ∧ m0.partIds.Nodup ∧ m0.part 1 = some pen ∧ pen.runs = false) ∧
    (let q := { pen with run := some { job with code := [0] } }; (mach q one).part 1 = some q ∧ q.runs = false ∧ q.run ≠ none) ∧
    (sby 2 0).onTask = none ∧
    (let q := { pen with run := some job }; (mach q one).part 1 = some q ∧ q.runs = true ∧ q.freeze = none) ∧
    (let z : Freeze := .announce 0 10 3 0 true; let q := { pen with run := some job, freeze := some z };
     (mach q one).part 1 = some q ∧ q.runs = true ∧ q.freeze = some z) ∧
    (let s := { sby 2 0 with onTask := some ontask }; s.power = .standby ∧ s.onTask = some ontask) :=
  ⟨⟨rfl, by decide, rfl, rfl⟩, ⟨rfl, rfl, by decide⟩, rfl, ⟨rfl, rfl, rfl⟩, ⟨rfl, rfl, rfl⟩, rfl, rfl⟩
theorem wit_ModulePower :
    (let s := { sby 2 0 with trip := true }; CmdReady s 0 ∧ s.trip = true) ∧
    (let s := { sby 2 0 with onTask := some ontask }; CmdReady s 0 ∧ s.trip = false ∧ s.onTask.isSome = true) ∧
    (let s := { sby 2 0 with ownsem := 0 }; CmdReady s 0 ∧ s.trip = false ∧ s.onTask = none ∧ s.ownsem.toNat ≠ 0 + 1) ∧
    (let s := sby 2 1; CmdReady s 0 ∧ s.trip = false ∧ s.onTask = none ∧ s.ownsem.toNat = 0 + 1 ∧
      s.cmdArg 0 0 % 4 = 2 ∧ s.power = .standby ∧ ¬ (s.cmdArg 0 1 % 4096 = 0 ∧ 4096 ≤ s.cmdArg 0 2 ∧ s.cmdArg 0 2 ≤ 2 ^ 24)) ∧
    (let s := cmd 1 0 pen one; CmdReady s 0 ∧ s.cmdArg 0 0 % 4 = 1 ∧ s.power = .on ∧ 1 ∈ s.partIds ∧ s.part 1 = some pen ∧ pen.power ≠ .dark) ∧
    (let s := cmd 3 0 pen one; CmdReady s 0 ∧ s.cmdArg 0 0 % 4 ≠ 1 ∧ s.cmdArg 0 0 % 4 ≠ 2) ∧
    (let s := sby 2 0; CmdReady s 0 ∧ s.trip = false ∧ s.onTask = none ∧ s.ownsem.toNat = 0 + 1 ∧ s.cmdArg 0 0 % 4 = 2 ∧
      s.power = .standby ∧ s.cmdArg 0 1 % 4096 = 0 ∧ 4096 ≤ s.cmdArg 0 2 ∧ s.cmdArg 0 2 ≤ 2 ^ 24) ∧
    (let q := { pen with power := .dark }; let s := cmd 1 0 q one; CmdReady s 0 ∧ s.trip = false ∧ s.onTask = none ∧
      s.ownsem.toNat = 0 + 1 ∧ s.cmdArg 0 0 % 4 = 1 ∧ s.partIds = [1] ∧ s.part 1 = some q ∧ q.power = .dark ∧ q.trans = none) ∧
    ({ sby 2 0 with onTask := some ontask }.onTask = some ontask ∧ ontask.port = 0) :=
  ⟨⟨⟨by decide, rfl, by decide⟩, rfl⟩, ⟨⟨by decide, rfl, by decide⟩, rfl, rfl⟩, ⟨⟨by decide, rfl, by decide⟩, rfl, rfl, by decide⟩,
   ⟨⟨by decide, rfl, by decide⟩, rfl, rfl, rfl, rfl, rfl, by decide⟩, ⟨⟨by decide, rfl, by decide⟩, rfl, rfl, by decide, rfl, by decide⟩,
   ⟨⟨by decide, rfl, by decide⟩, by decide, by decide⟩, ⟨⟨by decide, rfl, by decide⟩, rfl, rfl, rfl, rfl, rfl, rfl, by decide, by decide⟩,
   ⟨⟨by decide, rfl, by decide⟩, rfl, rfl, rfl, rfl, rfl, rfl, rfl, rfl⟩, rfl, rfl⟩
theorem wit_CommandsAccepted : m0.answers 2 = true ∧ State.reset.answers 0 = false ∧
    ((busyPort m0).answers 0 = true ∧ (((busyPort m0).port 0).cmdstat.extractLsb' 0 2).toNat = 1) ∧ CmdReady m0 0 :=
  ⟨rfl, rfl, ⟨rfl, rfl⟩, by decide, rfl, by decide⟩
/-- PCREATE's arguments: a partition id and a rectangle. -/
def rect (p x y w h : Nat) : Nat := p + x * 2 ^ 16 + y * 2 ^ 24 + w * 2 ^ 32 + h * 2 ^ 40
/-- Its partition. -/
def made (x y w h : Nat) : Part := { pen with px0 := x, py0 := y, w := w, h := h, power := .idle }
/-- Partition 1 is named by queue 0, which port 0 owns. -/
def named : State := { cmd 1 0 pen one with queues := [(0, qu [])] }
theorem wit_PartitionCommands : (CmdReady (cmd (rect 1 0 0 1 1) 0 pen one) 0 ∧ (cmd (rect 1 0 0 1 1) 0 pen one).ownsem.toNat = 0 + 1 ∧
      (cmd (rect 1 0 0 1 1) 0 pen one).part 1 ≠ none) ∧
    (let s := cmd (rect 2 63 35 2 1) 0 pen one; CmdReady s 0 ∧ s.cmdArg 0 0 % 2 ^ 9 = 2 ∧ s.part 2 = none ∧
      ¬ (s.cmdArg 0 0 / 2 ^ 16 % 2 ^ 8 + s.cmdArg 0 0 / 2 ^ 32 % 2 ^ 8 ≤ 64)) ∧
    (let s := cmd (rect 2 0 0 1 1) 0 pen one; CmdReady s 0 ∧ s.part 2 = none ∧ s.part 1 = some pen ∧
      ¬ (0 + 1 ≤ pen.px0 ∨ pen.px0 + pen.w ≤ 0 ∨ 0 + 1 ≤ pen.py0 ∨ pen.py0 + pen.h ≤ 0)) ∧
    (let s := cmd (rect 2 63 35 1 1) 0 pen { one with health := { one.health with state := 2 } }; CmdReady s 0 ∧ s.part 2 = none ∧
      s.partIds = [1] ∧ 63 + 1 ≤ 64 ∧ 35 + 1 ≤ 36 ∧ pen.px0 + pen.w ≤ 63 ∧ s.withdrawnPen (made 63 35 1 1) = none ∧
      s.withdrawnPen (made 0 0 1 1) = some 0) ∧
    (let q := { pen with run := some job }; (cmd 1 0 q one).part 1 = some q ∧ q.run ≠ none) ∧
    (pen.run = none ∧ pen.stab = none ∧ pen.next = none ∧ pen.trans = none ∧ named.part 1 = some pen ∧ named.queueNames 1 none = true ∧
      (cmd 1 0 pen one).queueNames 1 none = false ∧ (skeys (cmd 1 0 pen one).seqEntries).Nodup) ∧
    (let q := { pen with trans := some (.idle, 1) }; (cmd 1 0 q one).part 1 = some q ∧ (cmd 1 0 q one).queueNames 1 none = false ∧
      q.run = none ∧ q.stab = none ∧ q.next = none ∧ (1 : Nat) ≠ 0) ∧
    (cmd 7 0 pen one).part 7 = none ∧ named.queueNames 1 (some pen.ctl.toNat) = true ∧ (cmd 1 1 pen one).queueNames 1 (some pen.ctl.toNat) = false :=
  ⟨⟨⟨by decide, rfl, by decide⟩, rfl, by decide⟩, ⟨⟨by decide, rfl, by decide⟩, rfl, rfl, by decide⟩, ⟨⟨by decide, rfl, by decide⟩, rfl, rfl, by decide⟩,
   ⟨⟨by decide, rfl, by decide⟩, rfl, rfl, by decide, by decide, by decide, rfl, rfl⟩, ⟨rfl, by decide⟩,
   ⟨rfl, rfl, rfl, rfl, rfl, rfl, rfl, by decide⟩, ⟨rfl, rfl, rfl, rfl, rfl, by decide⟩, rfl, rfl, rfl⟩
theorem wit_RepairCommands : (let s := cmd (33 + 143 * 2 ^ 8) 0 pen one; CmdReady s 0 ∧ s.ownsem.toNat = 0 + 1 ∧ s.cmdArg 0 0 / 2 ^ 8 % 2 ^ 8 < 144 ∧
      s.rowRuns 33 143 = false ∧ s.rowStabled 33 143 = false ∧ sget 0 s.retired (8 * 143 + 1) = 0 ∧
      (let r := { s with retired := [(8 * 143 + 1, 2)] }; CmdReady r 0 ∧ r.rowRuns 33 143 = false ∧ r.rowStabled 33 143 = false ∧ sget 0 r.retired (8 * 143 + 1) ≠ 0)) ∧
    (let s := cmd (7 * 2 ^ 16) 0 pen one; let h := (s.tile 0).health; let g := (s.tile (tileKey 1 0)).health;
      h.nlost.toNat + 1 ≤ 2 ∧ h.nlost = 0 ∧ g.lent = 0 ∧ h.lent = 0 ∧ g.nlost = 0) ∧
    (let h := { one.health with nlost := 1 }; h.nlost.toNat + 1 ≤ 2 ∧ h.nlost ≠ 0) ∧
    (let h := { one.health with nlost := 2 }; ¬ (h.nlost.toNat + 1 ≤ 2)) ∧ (4 * 2 ^ 29) / 2 ^ 31 % 2 = 1 :=
  ⟨⟨⟨by decide, rfl, by decide⟩, rfl, by decide, by decide, by decide, rfl, ⟨by decide, rfl, by decide⟩, by decide, by decide, by decide⟩,
   ⟨by decide, rfl, rfl, rfl, rfl⟩, ⟨by decide, by decide⟩, by decide, by decide⟩
/-- A tile of the partition holds a block of its stabled launch. -/
def lofted : State := mach { pen with
  stab := some ⟨job, .announce 0 10 3 0 true, 0, [], [], [], [], [], none, none, [⟨0, .sram 0 4096, 1, [], 0, 0, false⟩]⟩ } one
theorem wit_PartitionPower : (let s := { cmd 1 0 pen one with trip := true }; CmdReady s 0 ∧ s.trip = true) ∧
    (let s := cmd 2 0 pen one; CmdReady s 0 ∧ s.trip = false ∧ s.part 2 = none) ∧
    (let q := { pen with trans := some (.idle, 0) }; let s := cmd 1 0 q one; CmdReady s 0 ∧ s.part 1 = some q ∧ q.trans.isSome = true) ∧
    (let q := { pen with ctl := true }; let s := cmd 1 0 q one; CmdReady s 0 ∧ s.part 1 = some q ∧ q.trans = none ∧ q.ctl.toNat ≠ 0) ∧
    (let s := cmd 1 0 pen one; CmdReady s 0 ∧ s.part 1 = some pen ∧ pen.ctl.toNat = 0 ∧ pen.power = .active ∧ ppowerOf (1 / 2 ^ 16 % 4) = .active ∧
      ppowerOf ((1 + 2 ^ 16) / 2 ^ 16 % 4) = .idle ∧ ppowerOf ((1 + 2 ^ 17) / 2 ^ 16 % 4) = .retain ∧ ppowerOf ((1 + 3 * 2 ^ 16) / 2 ^ 16 % 4) = .dark ∧
      ¬ ((pen.power = .active ∧ PPower.idle = .idle ∧ pen.run ≠ none) ∨ (PPower.idle = .dark ∧ pen.stab ≠ none) ∨
        ((PPower.idle = .retain ∨ PPower.idle = .dark) ∧ ∃ k ∈ pen.tileKeys, s.holdsBlock k = true))) ∧
    (∃ k ∈ pen.tileKeys, lofted.holdsBlock k = true) ∧
    (let q := { pen with run := some job }; let s := cmd (1 + 2 ^ 16) 0 q one; CmdReady s 0 ∧ s.part 1 = some q ∧ q.trans = none ∧ q.run ≠ none) :=
  ⟨⟨⟨by decide, rfl, by decide⟩, rfl⟩, ⟨⟨by decide, rfl, by decide⟩, rfl, rfl⟩, ⟨⟨by decide, rfl, by decide⟩, rfl, rfl⟩,
   ⟨⟨by decide, rfl, by decide⟩, rfl, rfl, by decide⟩, ⟨⟨by decide, rfl, by decide⟩, rfl, rfl, rfl, rfl, rfl, rfl, rfl, by decide⟩,
   by decide, ⟨by decide, rfl, by decide⟩, rfl, rfl, by decide⟩
theorem wit_TransitionsEnd : (let q := { pen with trans := some (.idle, 0) }; (mach q one).part 1 = some q ∧ q.trans = some (.idle, 0)) ∧
    (let q := { pen with power := .dark, trans := some (.active, 0) }; (mach q one).part 1 = some q ∧ q.trans = some (.active, 0) ∧ q.power = .dark) ∧
    (let l := { job with bank := { job.bank with wids := [(0, 0)] } }
     let q := { pen with power := .dark, trans := some (.active, 0), next := some l }
     (mach q one).part 1 = some q ∧ q.next = some l ∧ q.power = .dark ∧ (∃ k ∈ q.tileKeys, l.bank.maps k = true) ∧ ¬ ∃ k ∈ q.tileKeys, job.bank.maps k = true) :=
  ⟨⟨rfl, rfl⟩, ⟨rfl, rfl, rfl⟩, rfl, rfl, rfl, by decide, by decide⟩
/-- SQOWN of entries of Y8. -/
def own (first n rel : Nat) : State := cmd (8 + first * 2 ^ 5 + (n - 1) * 2 ^ 17) (1 + rel * 2 ^ 9) pen one
theorem wit_QueueAndEntryCommands : (let s := { cmd 0 0 pen one with queues := [(0, { qu [] with st := .error })] };
      CmdReady s 0 ∧ (s.queue 0).qport = 0 ∧ (s.queue 0).st = .error ∧ (s.queue 0).held = none) ∧
    (let s := { cmd 0 0 pen one with queues := [(0, qu [])] }; CmdReady s 0 ∧ (s.queue 0).qport = 0 ∧ (s.queue 0).st ≠ .error) ∧
    (let s := { cmd 0 0 pen one with queues := [(0, { qu [] with desc := 1#512 <<< 77 })] }; CmdReady s 0 ∧ (s.queue 0).qport ≠ 0) ∧
    (let s := own 4094 1 0; CmdReady s 0 ∧ s.part 1 = some pen ∧ s.cmdArg 0 1 % 2 ^ 9 = 1 ∧ s.cmdArg 0 0 % 2 ^ 5 = 8 ∧
      s.cmdArg 0 0 / 2 ^ 5 % 2 ^ 12 = 4094 ∧ s.cmdArg 0 0 / 2 ^ 17 % 2 ^ 12 + 1 = 1 ∧ s.cmdArg 0 1 / 2 ^ 9 % 2 = 0 ∧
      entBusy (s.entry (4096 * 8 + 4094)) = false ∧ entOwner (s.entry (4096 * 8 + 4094)) = none ∧ s.power = .on ∧ ({ s with power := .standby } : State).power ≠ .on) ∧ (own 4094 1 1).cmdArg 0 1 / 2 ^ 9 % 2 = 1 :=
  ⟨⟨⟨by decide, rfl, by decide⟩, rfl, rfl, rfl⟩, ⟨⟨by decide, rfl, by decide⟩, rfl, by decide⟩, ⟨⟨by decide, rfl, by decide⟩, by decide⟩,
   ⟨⟨by decide, rfl, by decide⟩, rfl, rfl, rfl, rfl, rfl, rfl, rfl, rfl, rfl, by decide⟩, rfl⟩
/-- A queue of 2^4 entries with a status address, not enabled. -/
def qd : Queue := { Queue.zero with desc := 0x8001#512 <<< 128 ||| 4#512 <<< 64 ||| 0x1000#512 <<< 320 }
theorem wit_QueueRegisters : State.reset.ownsem = 0 ∧ (cmd 0 0 pen one).ownsem ≠ 0 ∧ (cmd 0 0 pen one).ownsem.toNat = 0 + 1 ∧
    (32767 < 32768 ∧ qd.qport = 0 ∧ qd.en = false ∧ (qm qd).descBad qd = false) ∧ (qm Queue.zero).descBad Queue.zero = true ∧
    ((qu []).qport = 0 ∧ (qu []).en = true) ∧ ({ qu [] with desc := 1#512 <<< 77 }.qport ≠ 0 ∧ { qu [] with desc := 1#512 <<< 77 }.en = true) ∧ { qd with desc := 1#512 <<< 77 }.qport ≠ 0 ∧ State.reset.ownsem.toNat ≠ 0 + 1 :=
  ⟨rfl, by decide, rfl, ⟨by decide, rfl, rfl, rfl⟩, rfl, ⟨rfl, rfl⟩, ⟨by decide, rfl⟩, by decide, by decide⟩
theorem wit_QueueRegisters_words : (let s := qm qd; s.answers 0 = true ∧ s.ownsem.toNat ≠ 0 + 1 ∧
      (descWith qd.desc 1 0x2000 ^^^ qd.desc).getLsbD 77 = true ∧
      (descWith qd.desc 6 7 ^^^ qd.desc).getLsbD 77 = false ∧ (descWith qd.desc 6 7).getLsbD 79 = false) ∧
    (qu []).en = true ∧ descWith (qu []).desc 6 7 ≠ (qu []).desc &&& ~~~(1#512 <<< 79) := by decide
theorem wit_HostRegisters : (let d := { Port.zero with evhead := 16, evsz := 4 }; d.evtail ≠ 0x10 ∧ (d.evhead - 0x10).toNat ≤ 2 ^ (d.evsz.toNat % 32) ∧
      2 ^ (d.evsz.toNat % 32) < (d.evhead - 0xFFFFFFFF).toNat) ∧ (∀ j, (m0.queue j).held = none) ∧
    (m0.part 1 = some pen ∧ pen.ctl.toNat = 0 ∧ pen.run = none ∧ pen.next = none ∧ pen.stab = none ∧
      ¬ ((0x0000000001000001#64).toNat / 2 ^ 48 ≠ 0 ∨ (∃ l < 3, (0x0000000001000001#64).toNat / 2 ^ (8 * l) % 256 < (0x0000000001000001#64).toNat / 2 ^ (24 + 8 * l) % 256)) ∧
      (0x0000000001000000#64).toNat / 2 ^ (8 * 0) % 256 < (0x0000000001000000#64).toNat / 2 ^ (24 + 8 * 0) % 256) ∧
    { pen with pendRecs := [0] }.pendRecs ≠ [] ∧ { pen with ctl := true }.ctl.toNat ≠ 0 ∧ 7 < 8 ∧ m0.answers 1 = true ∧ 1 < 512 :=
  ⟨⟨by decide, by decide, by decide⟩, fun _ => rfl, ⟨rfl, rfl, rfl, rfl, rfl, by decide, by decide⟩, by decide, by decide, by decide, rfl, by decide⟩
theorem wit_RegisterWrites : m0.answers 1 = true ∧ (0x2418 : Nat) = 0x1418 + 0x1000 * 1 ∧ (0x8008 : Nat) = 0x1008 + 0x1000 * 7 ∧
    (0x2820 : Nat) = 0x1808 + 0x1000 * 1 + 8 * 3 ∧ 10 ≤ (10#64).toNat ∧ (0x31FF28 : Nat) = 0x300028 + 0x100 * 511 ∧ 4 % 8 ≠ 0 :=
  ⟨rfl, rfl, rfl, rfl, by decide, rfl, by decide⟩
/-- A page that no launch holds. -/
def pages (pb : Nat) : Region := ⟨0x200000, pb, 1, true, true, false⟩
/-- The aperture of port 0 on partition 1, whose last launch named a page; sometimes with a landing region for requester 5. -/
def apt (pb : Nat) (l : List (Nat × Landing)) : State :=
  { mach { pen with bank := { pen.bank with regions := [pages pb] } } one with ports := [(0, { Port.zero with aper := 1, lr := l })] }
theorem wit_ApertureAccess : (apt 0 []).answers 0 = true ∧ (apt 0 []).bar4At 0 (0#64).toNat 1 = none ∧
    ((apt 0x200000 []).bar4At 0 (0x3FFFFF#64).toNat 1 = some (pages 0x200000, 0x3FFFFF) ∧ inSeq 0x3FFFFF = false ∧
      (apt 0x200000 []).hostOwned 0x3FFFFF 1 = true ∧ (apt 0x200000 []).rangeLit 0x3FFFFF 1 = true ∧ present 0x3FFFFF 1 = true) ∧
    ({ apt 0x200000 [] with power := .standby }.rangeLit 0x200000 1 = false) ∧
    (let s := { apt 0x200000 [] with parts := [(1, some { pen with run := some { job with bank := { pen.bank with regions := [pages 0x200000] } }, bank := { pen.bank with regions := [pages 0x200000] } })] };
     s.hostOwned 0x200000 1 = false ∧ s.bar4At 0 (0x200000#64).toNat 1 = some (pages 0x200000, 0x200000)) ∧
    (∃ a, inSeq a = true ∧ (apt a []).bar4At 0 (0x200000#64).toNat 8 = some (pages a, a)) ∧
    ((apt 0x200000 []).port 0).landingOf 0x200000 = none ∧
    (let s := apt 0x200000 [(0, ⟨0x200000, 1, 5, 3⟩)]; let l : Landing := ⟨0x200000, 1, 5, 3⟩;
     (s.port 0).landingOf 0x200000 = some l ∧ l.permits 5 = true ∧ l.hits 0x200000 = true ∧ l.permits 6 = false) :=
  ⟨rfl, rfl, ⟨rfl, rfl, rfl, rfl, rfl⟩, by decide, ⟨rfl, rfl⟩, ⟨seqBase, rfl, rfl⟩, rfl, ⟨rfl, rfl, rfl, rfl⟩⟩
theorem wit_BucketsDecay : (skeys m0.tiles).Nodup ∧ (skeys m0.sliceBkt).Nodup ∧ (skeys m0.sliceErrs).Nodup := by decide
/-- Field 0 realigns with the count of field 1, all but one of its matches made, or all. -/
def realign (n : Nat) : State := { m0 with fields := [(0, { FieldSt.zero with
  lost := true, realigning := true, src := 1, matched := [(1, 2), (8, n)] })] }
theorem wit_ErrorsAndAlignment_both : (∃ z : Freeze, z.t = m0.gcyc - pen.lbase ∧ z.front = true ∧ z.cause = 0x0A ∧ z.bare = true ∧
      (let s := mach { pen with run := some job, freeze := some z } one
       Acts s g0 ∧ InTask s 0 0 ∧ (s.tile 0).part = some 1 ∧ (s.tile 0).voided = false ∧ (s.tile 0).raise = none ∧ 0 ∈ pen.fieldsOf ∧
        { z with bare := false }.bare = false)) ∧
    m0.partIds.Nodup ∧ (27 < 28 ∧ 3 < 4 ∧ 31 < 32) ∧ State.reset.power ≠ .on ∧ m0.power = .on :=
  ⟨⟨{ Freeze.announce 100 200 0x0A 0 true with bare := true }, rfl, rfl, rfl, rfl, acts _ rfl, rfl, rfl, rfl, rfl, by decide, rfl⟩,
    by decide, by decide, by decide, rfl⟩
theorem wit_ErrorsAndAlignment : (let q := { pen with run := some job }; let s := mach q one
      s.part 1 = some q ∧ (s.tile (tileKey 0 0)).part = some 1 ∧ q.runs = true ∧ q.freeze = none ∧ (s.tile 0).deferred.length < 16 ∧
      s.partIds.Nodup ∧ 0 ∈ q.fieldsOf ∧ (s.mappedOf 1).head? = some 0) ∧
    (let q := { pen with run := some job }; let l := m0.gcyc - q.lbase; let q := { q with freeze := some (.announce l 900 0x0A 0 true) }
     let s := mach q one; s.part 1 = some q ∧ q.runs = true ∧ (s.gcyc - q.lbase) = l ∧ s.partIds.Nodup ∧ 0 ∈ q.fieldsOf ∧
      (s.mappedOf 1).head? = some 0 ∧ (s.tile 0).deferred.length < 16) ∧ (m0.tile (tileKey 1 0)).part = none ∧
    (∃ q z, (stb [struck]).part 1 = some q ∧ q.stab = some z) ∧ 0x17FFFF < 0x180000 ∧ (31 < 32 ∧ 0 < 31) ∧ 511 < 512 ∧ hbmBytes - 1 < hbmBytes ∧
    (1 ∈ neighbours 0 ∧ 9 ∉ neighbours 0 ∧ (m0.field 0).outOfService = false ∧ (m0.field 0).realigning = false ∧ 1 ∉ (m0.field 0).bad ∧
      LaneMark.value 98 = .value (BitVec.ofNat 16 (m0.gcyc - 2)) ∧ LaneMark.missing ≠ .value (BitVec.ofNat 16 (m0.gcyc - 2))) ∧
    (realign 1).power = .on ∧ ((realign 1).field 0).outOfService = false ∧ ((realign 1).field 0).realigning = true ∧
      ((realign 1).field 0).src ≠ noField ∧ ((realign 1).field ((realign 1).field 0).src).inStep = true ∧ (realign 1).matchedAll 0 = false ∧ (realign 2).matchedAll 0 = true ∧
    (let s : State := { m0 with fields := [(0, { FieldSt.zero with realigning := true, src := 1 }), (1, { FieldSt.zero with lost := true })] };
      (s.field (s.field 0).src).inStep = false) ∧ { FieldSt.zero with src := noField }.src = noField ∧
    { FieldSt.zero with outOfService := true }.outOfService = true ∧ { FieldSt.zero with bad := [1] }.bad = [1] ∧ 47 < 48 :=
  ⟨⟨rfl, rfl, rfl, rfl, by decide, by decide, by decide, rfl⟩, ⟨rfl, rfl, rfl, by decide, by decide, rfl, by decide⟩, rfl, ⟨_, _, rfl, rfl⟩, by decide, by decide, by decide, by decide,
    ⟨by decide, by decide, rfl, rfl, by decide, rfl, by decide⟩, rfl, rfl, rfl, by decide, rfl, rfl, rfl, rfl, rfl, rfl, rfl, by decide⟩
theorem wit_FormsComplete_moves : Acts sc g0 ∧ InTask sc 0 0 ∧ IntReg sc 1 ∧ gpoi sc g0 = false ∧ (sreg sc 1).poi = false ∧
    (let s := swm [] none
     Acts s g0 ∧ s.rowOk 2 = true ∧ s.rowOk 63 = true ∧ (s.tile s.myKey).part = some 1 ∧ s.part 1 = some (swq []) ∧
      busyAt (s.tile s.myKey).sw s.now = false ∧ (∃ fs, sweepFmts .fadd = some fs ∧ (rreg s 2).fmt ∈ fs) ∧ IntReg s 1 ∧ (sreg s 1).poi = false) :=
  ⟨acts _ rfl, rfl, Or.inr rfl, rfl, rfl, acts _ rfl, rfl, rfl, rfl, rfl, rfl, ⟨_, rfl, by decide⟩, Or.inr rfl, rfl⟩
theorem wit_FormsComplete_power : (∀ e ∈ [(PPower.idle, 0), (.active, 1), (.idle, 2), (.idle, 3)],
    let q := { pen with power := e.1 }; let s := cmd (1 + e.2 * 2 ^ 16) 0 q one
    CmdReady s 0 ∧ s.trip = false ∧ s.cmdArg 0 0 % 2 ^ 9 = 1 ∧ s.cmdArg 0 0 / 2 ^ 16 % 4 = e.2 ∧ s.part 1 = some q ∧ q.trans = none ∧
      q.ctl.toNat = 0 ∧ q.run = none ∧ q.stab = none ∧ ∀ k ∈ q.tileKeys, s.holdsBlock k = false) := by
  unfold CmdReady; decide
theorem wit_FormsComplete_entries : ∀ rel ∈ [0, 1], ∀ w ∈ [MPower.on, .standby], let s := { cmd (9 + 4095 * 2 ^ 5) (1 + rel * 2 ^ 9) pen one with power := w }
    CmdReady s 0 ∧ s.part 1 = some pen ∧ pen.ctl.toNat = 0 ∧ 8 < s.cmdArg 0 0 % 2 ^ 5 ∧ s.cmdArg 0 0 % 2 ^ 5 ≤ 27 ∧
      s.cmdArg 0 0 / 2 ^ 5 % 2 ^ 12 + (s.cmdArg 0 0 / 2 ^ 17 % 2 ^ 12 + 1) ≤ 4096 ∧ s.cmdArg 0 1 % 2 ^ 9 = 1 ∧
      (∀ k ∈ (List.range (s.cmdArg 0 0 / 2 ^ 17 % 2 ^ 12 + 1)).map (4096 * (s.cmdArg 0 0 % 2 ^ 5) + s.cmdArg 0 0 / 2 ^ 5 % 2 ^ 12 + ·),
        entBusy (s.entry k) = false ∧ (entOwner (s.entry k) = none ∨ entOwner (s.entry k) = some 1)) ∧ s.cmdArg 0 1 / 2 ^ 9 % 2 = rel := by
  unfold CmdReady; decide
/-- The one stop: a page named that has no memory behind it. -/
theorem wit_OnlyAbsentMemoryStops : (∃ f, exec (.bar4Read 0 0x200000 1) (apt (2 ^ 44) []) = .fault f) := ⟨.physicalAddressAbsent, rfl⟩

/-! ## Words, bit by bit -/

/-- A slot's words are an instruction: prefix, and up to three words, of the fields of R285 to R295. -/
def word (sl : Slot) (pre : Option W32) (w : List W32) (i : Instr) : Prop :=
  Dec.slotInstr .task sl pre (w.getD 0 0) (w.getD 1 0) (w.getD 2 0) = .ok i
/-- The guard (!p5). -/
def h : Guard := ⟨5, true⟩
/-- The guard that always acts. -/
def g : Guard := ⟨0, false⟩

theorem test_decode_sc_a :
    word .sc none [0x00000000] (.nop g) ∧
    word .sc none [0x015FE010] (.add h none 31 16 1) ∧
    word .sc none [0x0207E010] (.sub g none 31 16 1) ∧
    word .sc none [0x045FE010] (.mul h none 31 16 1) ∧
    word .sc (some 0xC4000004) [0x0307C300] (.addi g (some .fp32) 31 1 0x100) ∧
    word .sc none [0x435C3E00, 0xFFFFFFFE] (.addiLong h none 16 31 0xFFFFFFFE) ∧
    word .sc none [0x050045F1] (.mulh g none true 1 2 31) ∧
    word .sc none [0x0658C850] (.div h none .q 3 4 5) ∧
    word .sc none [0x0600C851] (.div g none .qu 3 4 5) ∧
    word .sc none [0x0658C852] (.div h none .r 3 4 5) ∧
    word .sc none [0x0600C853] (.div g none .ru 3 4 5) ∧
    word .sc none [0x0759D090] (.and h none 7 8 9) ∧
    word .sc none [0x0801D090] (.or g none 7 8 9) ∧
    word .sc none [0x0959D090] (.xor h none 7 8 9) :=
  ⟨rfl, rfl, rfl, rfl, rfl, rfl, rfl, rfl, rfl, rfl, rfl, rfl, rfl, rfl⟩
theorem test_decode_sc_b :
    word .sc none [0x0A01D090] (.andn g none 7 8 9) ∧
    word .sc none [0x0B59D090] (.shl h none 7 8 9) ∧
    word .sc none [0x0C01D090] (.shr g none 7 8 9) ∧
    word .sc none [0x0D59D090] (.sra h none 7 8 9) ∧
    word .sc none [0x0E01D091] (.rot g none true 7 8 9) ∧
    word .sc none [0x0F59D091] (.min h none true 7 8 9) ∧
    word .sc none [0x1001D090] (.max g none false 7 8 9) ∧
    word .sc none [0x1159D003] (.bit h none .brev 7 8) ∧
    word .sc none [0x5201D000, 0x000017E0] (.ext g none 7 8 true 31 32) ∧
    word .sc none [0x5359D000, 0x000001F8] (.ins h none 7 8 7 56) ∧
    word .sc none [0x14004430] (.sel g 1 2 3) ∧
    word .sc none [0x15584400] (.mov h 1 2) ∧
    word .sc none [0x160041FF] (.movi g 1 0x1FF) ∧
    word .sc none [0x56584001, 0x3F800000] (.moviLong h .fp32 1 0x3F800000) :=
  ⟨rfl, rfl, rfl, rfl, rfl, rfl, rfl, rfl, rfl, rfl, rfl, rfl, rfl, rfl⟩
theorem test_decode_sc_c :
    word .sc none [0x96004002, 0x12345678, 0x9ABCDEF0] (.moviWide g true 1 0x123456789ABCDEF0) ∧
    word .sc none [0x175941FE] (.lea h none 5 0x1FE) ∧
    word .sc none [0x57014000, 0x00000003] (.leaLong g none 5 0 3) ∧
    word .sc none [0x185BC22B] (.cmp h none .tstz 15 1 2) ∧
    word .sc none [0x1907C205] (.cmpi g none true 15 1 5) ∧
    word .sc none [0x595BC209, 0x00000005] (.cmpiLong h none .gtu 15 1 5) ∧
    word .sc none [0x1A006432] (.plog g .xor 1 true 2 false 3) ∧
    word .sc (some 0xC0000034) [0x1B584434] (.fop h (.mod ⟨true, .int, .rna⟩) .fmax 1 2 3) ∧
    word .sc (some 0xC4000000) [0x1C004432] (.fma g (.xtag .raw) .fnma 1 2 3) ∧
    word .sc none [0x1D584437] (.fcmp h .none .ord 1 2 3) ∧
    word .sc none [0x1E004403] (.fcvt g .none .ftou 1 2) ∧
    word .sc none [0x1F584001] (.rdc h true 1) ∧
    word .sc none [0x2000403F] (.rdw g 1 63) ∧
    word .sc none [0x61584000, 0x00000102] (.rds h 1 0x102) :=
  ⟨rfl, rfl, rfl, rfl, rfl, rfl, rfl, rfl, rfl, rfl, rfl, rfl, rfl, rfl⟩
theorem test_decode_sc_d :
    word .sc none [0x62000400, 0x00000100] (.wrs g 0x100 2) :=
  rfl
theorem test_decode_sy_a :
    word .sy none [0x015FFFFF] (.pbr h 7 0xFFFF) ∧
    word .sy none [0x02018600] (.pbrx g 6 3) ∧
    word .sy none [0x035F0000] (.br h 7) ∧
    word .sy none [0x04070000] (.call g 7) ∧
    word .sy none [0x055F0000] (.ret h 7) ∧
    word .sy none [0x0607CE00] (.brdec g 31 7) ∧
    word .sy none [0x07583E00] (.waitc h 31) ∧
    word .sy none [0x47003E00, 0x00000009] (.waitcLong g 31 9) ∧
    word .sy none [0x085801FF] (.waitn h 511) ∧
    word .sy none [0x48000000, 0x00000200] (.waitnLong g 512) ∧
    word .sy none [0x49580600, 0x14000007] (.bar h 3 5 7) ∧
    word .sy none [0x0A000640] (.chk g 3 4) ∧
    word .sy none [0x0A581EE1] (.chkP h 15 14) ∧
    word .sy none [0x0A07DE02] (.chkV g 511) :=
  ⟨rfl, rfl, rfl, rfl, rfl, rfl, rfl, rfl, rfl, rfl, rfl, rfl, rfl, rfl⟩
theorem test_decode_sy_b :
    word .sy none [0x0A580E63] (.chkB h 7 6) ∧
    word .sy none [0x0B07C1FF] (.drain g 31 511) ∧
    word .sy none [0x4B580600, 0xFC000007] (.drainLong h 3 63 7) ∧
    word .sy none [0x0C000000] (.endTask g) ∧
    word .sy none [0x0D5800FF] (.trap h 255) ∧
    word .sy none [0x0E0000FF] (.sysc g 255) ∧
    word .sy none [0x0F58C000] (.align h 3) ∧
    word .sy none [0x1000C000] (.frz g 3) ∧
    word .sy none [0x1158C001] (.rfz h true 3) ∧
    word .sy none [0x52004406, 0x00000008] (.ltf g .frec 1 2 8) ∧
    word .sy none [0x53584403, 0x00000008] (.stf h .row 1 2 8) :=
  ⟨rfl, rfl, rfl, rfl, rfl, rfl, rfl, rfl, rfl, rfl, rfl⟩
theorem test_decode_v_a :
    word .va none [0x41028209, 0xFFC00020] (.vadd g .none ⟨⟨.w512, 1⟩, .merge 9⟩ 511 256 1) ∧
    word .vb none [0x815A8209, 0xFFC00000, 0x00000007] (.vaddLit h .none ⟨⟨.w512, 1⟩, .merge 9⟩ 511 256 7) ∧
    word .va none [0x42028209, 0xFFC00020] (.vsub g .none ⟨⟨.w512, 1⟩, .merge 9⟩ 511 256 1) ∧
    word .vb none [0x825A8209, 0xFFC00000, 0x00000007] (.vsubLit h .none ⟨⟨.w512, 1⟩, .merge 9⟩ 511 256 7) ∧
    word .va none [0x43028209, 0xFFC00020] (.vmul g .none ⟨⟨.w512, 1⟩, .merge 9⟩ 511 256 1) ∧
    word .vb none [0x835A8209, 0xFFC00000, 0x00000007] (.vmulLit h .none ⟨⟨.w512, 1⟩, .merge 9⟩ 511 256 7) ∧
    word .va none [0x44028209, 0xFFC00020] (.vfma g .none ⟨⟨.w512, 1⟩, .merge 9⟩ 511 256 1) ∧
    word .vb none [0x845A8209, 0xFFC00000, 0x00000007] (.vfmaLit h .none ⟨⟨.w512, 1⟩, .merge 9⟩ 511 256 7) ∧
    word .va none [0x45028209, 0xFFC00020] (.vfms g .none ⟨⟨.w512, 1⟩, .merge 9⟩ 511 256 1) ∧
    word .vb none [0x855A8209, 0xFFC00000, 0x00000007] (.vfmsLit h .none ⟨⟨.w512, 1⟩, .merge 9⟩ 511 256 7) ∧
    word .va none [0x46028209, 0xFFC00020] (.vfnm g .none ⟨⟨.w512, 1⟩, .merge 9⟩ 511 256 1) ∧
    word .vb none [0x865A8209, 0xFFC00000, 0x00000007] (.vfnmLit h .none ⟨⟨.w512, 1⟩, .merge 9⟩ 511 256 7) ∧
    word .va none [0x47028209, 0xFFC00020] (.vmin g .none ⟨⟨.w512, 1⟩, .merge 9⟩ 511 256 1) ∧
    word .vb none [0x875A8209, 0xFFC00000, 0x00000007] (.vminLit h .none ⟨⟨.w512, 1⟩, .merge 9⟩ 511 256 7) :=
  ⟨rfl, rfl, rfl, rfl, rfl, rfl, rfl, rfl, rfl, rfl, rfl, rfl, rfl, rfl⟩
theorem test_decode_v_b :
    word .va none [0x48028209, 0xFFC00020] (.vmax g .none ⟨⟨.w512, 1⟩, .merge 9⟩ 511 256 1) ∧
    word .vb none [0x885A8209, 0xFFC00000, 0x00000007] (.vmaxLit h .none ⟨⟨.w512, 1⟩, .merge 9⟩ 511 256 7) ∧
    word .va none [0x49029209, 0xFFC00020] (.vun g none ⟨⟨.w512, 1⟩, .merge 9⟩ .cpysgn 511 256 1) ∧
    word .vb none [0x4A5A8209, 0xFFC00000] (.vsf h .none ⟨⟨.w512, 1⟩, .merge 9⟩ .rcp 511 256) ∧
    word .va none [0x4A028A09, 0xFFC00000] (.vsf g .none ⟨⟨.w512, 1⟩, .merge 9⟩ .rsq 511 256) ∧
    word .vb none [0x4A5A9209, 0xFFC00000] (.vsf h .none ⟨⟨.w512, 1⟩, .merge 9⟩ .sqrt 511 256) ∧
    word .va none [0x4A029A09, 0xFFC00000] (.vsf g .none ⟨⟨.w512, 1⟩, .merge 9⟩ .exp2 511 256) ∧
    word .vb none [0x4A5AA209, 0xFFC00000] (.vsf h .none ⟨⟨.w512, 1⟩, .merge 9⟩ .log2 511 256) ∧
    word .va none [0x4A02AA09, 0xFFC00000] (.vsf g .none ⟨⟨.w512, 1⟩, .merge 9⟩ .sinpi 511 256) ∧
    word .vb none [0x4A5AB209, 0xFFC00000] (.vsf h .none ⟨⟨.w512, 1⟩, .merge 9⟩ .cospi 511 256) ∧
    word .va none [0x4A02BA09, 0xFFC00000] (.vsf g .none ⟨⟨.w512, 1⟩, .merge 9⟩ .tanh 511 256) ∧
    word .vb none [0x4A5AC209, 0xFFC00000] (.vsf h .none ⟨⟨.w512, 1⟩, .merge 9⟩ .sigm 511 256) ∧
    word .va none [0x4A02CA09, 0xFFC00000] (.vsf g .none ⟨⟨.w512, 1⟩, .merge 9⟩ .erf 511 256) ∧
    word .vb none [0x4B5A8209, 0xFFC00020] (.vcmp h .none ⟨⟨.w512, 1⟩, .merge 9⟩ .eq 511 256 1) :=
  ⟨rfl, rfl, rfl, rfl, rfl, rfl, rfl, rfl, rfl, rfl, rfl, rfl, rfl, rfl⟩
theorem test_decode_v_c :
    word .va none [0x4B028209, 0xFFC00021] (.vcmp g .none ⟨⟨.w512, 1⟩, .merge 9⟩ .ne 511 256 1) ∧
    word .vb none [0x4B5A8209, 0xFFC00022] (.vcmp h .none ⟨⟨.w512, 1⟩, .merge 9⟩ .lt 511 256 1) ∧
    word .va none [0x4B028209, 0xFFC00023] (.vcmp g .none ⟨⟨.w512, 1⟩, .merge 9⟩ .le 511 256 1) ∧
    word .vb none [0x4B5A8209, 0xFFC00024] (.vcmp h .none ⟨⟨.w512, 1⟩, .merge 9⟩ .gt 511 256 1) ∧
    word .va none [0x4B028209, 0xFFC00025] (.vcmp g .none ⟨⟨.w512, 1⟩, .merge 9⟩ .ge 511 256 1) ∧
    word .vb none [0x4B5A8209, 0xFFC00026] (.vcmp h .none ⟨⟨.w512, 1⟩, .merge 9⟩ .un 511 256 1) ∧
    word .va none [0x4B028209, 0xFFC00027] (.vcmp g .none ⟨⟨.w512, 1⟩, .merge 9⟩ .ord 511 256 1) ∧
    word .vb none [0x4B5A8209, 0xFFC00028] (.vcmp h .none ⟨⟨.w512, 1⟩, .merge 9⟩ .ltu 511 256 1) ∧
    word .va none [0x4B028209, 0xFFC00029] (.vcmp g .none ⟨⟨.w512, 1⟩, .merge 9⟩ .leu 511 256 1) ∧
    word .vb none [0x4B5A8209, 0xFFC0002A] (.vcmp h .none ⟨⟨.w512, 1⟩, .merge 9⟩ .gtu 511 256 1) ∧
    word .va none [0x4B028209, 0xFFC0002B] (.vcmp g .none ⟨⟨.w512, 1⟩, .merge 9⟩ .geu 511 256 1) ∧
    word .vb none [0x8B5A8209, 0xFFC0000B, 0x00000007] (.vcmpLit h .none ⟨⟨.w512, 1⟩, .merge 9⟩ .geu 511 256 7) ∧
    word .va none [0x4C028209, 0xFFC00020] (.vsel g none ⟨.w512, 1⟩ 511 256 1 9) ∧
    word .vb none [0x4D5A8209, 0xFFC00020] (.vand h none ⟨⟨.w512, 1⟩, .merge 9⟩ 511 256 1) :=
  ⟨rfl, rfl, rfl, rfl, rfl, rfl, rfl, rfl, rfl, rfl, rfl, rfl, rfl, rfl⟩
theorem test_decode_v_d :
    word .va none [0x8D028209, 0xFFC00000, 0x00000007] (.vandLit g none ⟨⟨.w512, 1⟩, .merge 9⟩ 511 256 7) ∧
    word .vb none [0x4E5A8209, 0xFFC00020] (.vor h none ⟨⟨.w512, 1⟩, .merge 9⟩ 511 256 1) ∧
    word .va none [0x8E028209, 0xFFC00000, 0x00000007] (.vorLit g none ⟨⟨.w512, 1⟩, .merge 9⟩ 511 256 7) ∧
    word .vb none [0x4F5A8209, 0xFFC00020] (.vxor h none ⟨⟨.w512, 1⟩, .merge 9⟩ 511 256 1) ∧
    word .va none [0x8F028209, 0xFFC00000, 0x00000007] (.vxorLit g none ⟨⟨.w512, 1⟩, .merge 9⟩ 511 256 7) ∧
    word .vb none [0x505A8209, 0xFFC00020] (.vandn h none ⟨⟨.w512, 1⟩, .merge 9⟩ 511 256 1) ∧
    word .va none [0x90028209, 0xFFC00000, 0x00000007] (.vandnLit g none ⟨⟨.w512, 1⟩, .merge 9⟩ 511 256 7) ∧
    word .vb none [0x515A8209, 0xFFC00020] (.vshl h .none ⟨⟨.w512, 1⟩, .merge 9⟩ 511 256 1) ∧
    word .va none [0x91028209, 0xFFC00000, 0x00000007] (.vshlLit g .none ⟨⟨.w512, 1⟩, .merge 9⟩ 511 256 7) ∧
    word .vb none [0x525A9209, 0xFFC00020] (.vshr h .none ⟨⟨.w512, 1⟩, .merge 9⟩ .ar 511 256 1) ∧
    word .va none [0x92028A09, 0xFFC00000, 0x00000007] (.vshrLit g .none ⟨⟨.w512, 1⟩, .merge 9⟩ .a 511 256 7) ∧
    word .vb none [0x535A8A09, 0xFFC00020] (.viadd h .none ⟨⟨.w512, 1⟩, .merge 9⟩ true 511 256 1) ∧
    word .va none [0x93028209, 0xFFC00000, 0x00000007] (.viaddLit g .none ⟨⟨.w512, 1⟩, .merge 9⟩ false 511 256 7) ∧
    word .vb none [0x545A9A09, 0xFFC00020] (.vimul h .none ⟨⟨.w512, 1⟩, .merge 9⟩ .q 511 256 1) :=
  ⟨rfl, rfl, rfl, rfl, rfl, rfl, rfl, rfl, rfl, rfl, rfl, rfl, rfl, rfl⟩
theorem test_decode_v_e :
    word .va none [0x94029209, 0xFFC00000, 0x00000007] (.vimulLit g .none ⟨⟨.w512, 1⟩, .merge 9⟩ .hiu 511 256 7) ∧
    word .vb none [0x555A9A09, 0xFFC00020] (.vimm h none ⟨⟨.w512, 1⟩, .merge 9⟩ .maxu 511 256 1) ∧
    word .va none [0x95029209, 0xFFC00000, 0x00000007] (.vimmLit g none ⟨⟨.w512, 1⟩, .merge 9⟩ .minu 511 256 7) ∧
    word .vb none [0x565ABA09, 0xFFC0000B] (.vcvt h .none ⟨⟨.w512, 1⟩, .merge 9⟩ .scl 7 511 256) ∧
    word .va none [0x5702BA09, 0xFFC00F8A] (.vqnt g .none ⟨⟨.w512, 1⟩, .merge 9⟩ .d2 7 124 511 256) ∧
    word .vb none [0x585A8A09, 0xFFC00085] (.vdq h .none ⟨⟨.w512, 1⟩, .merge 9⟩ .bf16 1 4 511 256) ∧
    word .va none [0x59028209, 0xFFC00000] (.vred g .none ⟨⟨.w512, 1⟩, .merge 9⟩ .sum 511 256) ∧
    word .vb none [0x595A8A09, 0xFFC00000] (.vred h .none ⟨⟨.w512, 1⟩, .merge 9⟩ .max 511 256) ∧
    word .va none [0x59029209, 0xFFC00000] (.vred g .none ⟨⟨.w512, 1⟩, .merge 9⟩ .min 511 256) ∧
    word .vb none [0x595A9A09, 0xFFC00000] (.vred h .none ⟨⟨.w512, 1⟩, .merge 9⟩ .maxi 511 256) ∧
    word .va none [0x5902A209, 0xFFC00000] (.vred g .none ⟨⟨.w512, 1⟩, .merge 9⟩ .mini 511 256) ∧
    word .vb none [0x5A5AE209, 0xFFC00000] (.vscan h .none ⟨⟨.w512, 1⟩, .merge 9⟩ .mini true 511 256) ∧
    word .va none [0x5B028A09, 0xFFC00020] (.vperm g none ⟨⟨.w512, 1⟩, .merge 9⟩ true 511 256 1) ∧
    word .vb none [0x5C5A8209, 0xFFC00000] (.vshuf h none ⟨⟨.w512, 1⟩, .merge 9⟩ .bitrev 511 256 0) :=
  ⟨rfl, rfl, rfl, rfl, rfl, rfl, rfl, rfl, rfl, rfl, rfl, rfl, rfl, rfl⟩
theorem test_decode_v_f :
    word .va none [0x5C028A09, 0xFFC00021] (.vshuf g none ⟨⟨.w512, 1⟩, .merge 9⟩ (.ilv true) 511 256 1) ∧
    word .vb none [0x5C5A9209, 0xFFC00000] (.vshuf h none ⟨⟨.w512, 1⟩, .merge 9⟩ .dilv 511 256 0) ∧
    word .va none [0x5C029A09, 0xFFC0001F] (.vshuf g none ⟨⟨.w512, 1⟩, .merge 9⟩ (.rotl 31) 511 256 0) ∧
    word .vb none [0x5D5A8209, 0xFFC01FE0] (.vbcL h ⟨⟨.w512, 1⟩, .merge 9⟩ 511 256 255) ∧
    word .va none [0x9D028A09, 0xFF80000D, 0x00000007] (.vbcI g ⟨⟨.w512, 1⟩, .merge 9⟩ .vix 511 7) ∧
    word .vb none [0x5E5A8000, 0x0FC01FE0] (.vext h none ⟨.w512, 1⟩ 31 256 255) ∧
    word .va none [0x5F028000, 0xFF87DFE0] (.vins g none ⟨.w512, 1⟩ 511 31 255) ∧
    word .vb none [0x605985FF, 0xFFC00000] (.vmov h ⟨⟨.w256, 3⟩, .zero 511⟩ 511 256) ∧
    word .va none [0x61028209, 0xFF803FC6] (.viota g ⟨⟨.w512, 1⟩, .merge 9⟩ .fp16 511 510) ∧
    word .vb none [0x625A8A09, 0xFFC00020] (.vcmul h .none ⟨⟨.w512, 1⟩, .merge 9⟩ true 511 256 1) ∧
    word .va none [0x63028A09, 0xFFC00020] (.vbfly g .none ⟨⟨.w512, 1⟩, .merge 9⟩ true 511 256 1) ∧
    word .vb none [0x645A8A09, 0xFFC00000] (.vcls h none ⟨⟨.w512, 1⟩, .merge 9⟩ true 511 256) ∧
    word .va none [0x65040000, 0xFFC0000C] (.vtag g ⟨⟨.w1024, 0⟩, .none⟩ .msk 511 256) ∧
    word .vb none [0x665A9000, 0x0FC00000] (.vmsk h none ⟨.w512, 1⟩ .popc 31 256) :=
  ⟨rfl, rfl, rfl, rfl, rfl, rfl, rfl, rfl, rfl, rfl, rfl, rfl, rfl, rfl⟩
theorem test_decode_mx_a :
    word .mx none [0x4107FF7A, 0x000001F1] (.mma g true 7 255 .e4m3 .d2) ∧
    word .mx none [0x425F0199, 0xFFC001F0] (.mmas h false 7 1 .e2m1 .e2m1 511 256) ∧
    word .mx none [0x43070040, 0x000020F0] (.mzero g 7 true 16 15) ∧
    word .mx (some 0xC0000003) [0x445F0010, 0xFF8020F0] (.amv h (some ⟨false, .none, .rdn⟩) 7 .i8 511 16 15) ∧
    word .mx none [0x45070030, 0xFF803E00] (.amvt g none 7 .i32 511 31 0) ∧
    word .mx none [0x465F0030, 0xFF8020F0] (.ald h 7 false 511 16 15) ∧
    word .mx none [0x47070040, 0xFF8020F0] (.aadd g 7 true 511 16 15) :=
  ⟨rfl, rfl, rfl, rfl, rfl, rfl, rfl⟩
theorem test_decode_ld_a :
    word .ld none [0x415AC7C0, 0xFFFFFFF0] (.ld h ⟨.w512, 1⟩ .e5m2 31 511 0x7FFFF0) ∧
    word .ld none [0x4202EFC0, 0xFF800010] (.lds g ⟨.w512, 1⟩ .vix 31 511 16) ∧
    word .ld none [0x435AAFC0, 0xFFFFFFFE] (.ldt h ⟨.w512, 1⟩ .bf16 31 511 0x7FFFFE) ∧
    word .ld none [0x4407E010, 0xFFFFFE01] (.ldg g 31 16 1 65535 ⟨63, true, false⟩ .h) ∧
    word .ld none [0x055FE03F] (.ldw h 31 16 .b 63) ∧
    word .ld none [0x4507E0C0, 0xFFFFFFF8] (.ldwLong g 31 16 .d 0xFFFFFFF8) ∧
    word .ld none [0x065FE03F] (.ldws h 31 16 .b 63) ∧
    word .ld none [0x4607E0C0, 0xFFFFFFF8] (.ldwsLong g 31 16 .d 0xFFFFFFF8) ∧
    word .ld none [0x085FE03F] (.ldb h 31 16 .b 63) ∧
    word .ld none [0x4807E0C0, 0xFFFFFFF8] (.ldbLong g 31 16 .d 0xFFFFFFF8) ∧
    word .ld none [0x475FFE00, 0x00000000] (.recv h 511 .s) :=
  ⟨rfl, rfl, rfl, rfl, rfl, rfl, rfl, rfl, rfl, rfl, rfl⟩
theorem test_decode_st_a :
    word .st none [0x045FE03F] (.stw h 31 16 .b 63) ∧
    word .st none [0x4407E0C0, 0xFFFFFFF8] (.stwLong g 31 16 .d 0xFFFFFFF8) ∧
    word .st none [0x410287C0, 0xFF800010] (.st g ⟨.w512, 1⟩ 31 511 16) ∧
    word .st none [0x425AE7C0, 0xFF800010] (.stt h ⟨.w512, 1⟩ .msk 31 511 16) ∧
    word .st none [0x4302EFC0, 0xFF800010] (.sct g ⟨.w512, 1⟩ 31 511 16) ∧
    word .st none [0x455FFC00, 0xFFC04000] (.send h 511 0x1FF 0x80 true) ∧
    word .st none [0x4607E010, 0x0001FD03] (.gst g 31 16 1 1 ⟨63, false, true⟩ .d) ∧
    word .st none [0x475FE010, 0x0006FF03] (.amo h .add 31 16 1 6 ⟨63, true, true⟩ true) ∧
    word .st none [0x4707E011, 0x0006FF02] (.amo g .fadd 31 16 1 6 ⟨63, true, true⟩ false) ∧
    word .st none [0x475FE012, 0x0006FF03] (.amo h .max 31 16 1 6 ⟨63, true, true⟩ true) ∧
    word .st none [0x4707E013, 0x0006FF03] (.amo g .min 31 16 1 6 ⟨63, true, true⟩ true) ∧
    word .st none [0x475FE014, 0x0006FF03] (.amo h .maxu 31 16 1 6 ⟨63, true, true⟩ true) ∧
    word .st none [0x4707E015, 0x0006FF03] (.amo g .minu 31 16 1 6 ⟨63, true, true⟩ true) ∧
    word .st none [0x475FE016, 0x0006FF03] (.amo h .and 31 16 1 6 ⟨63, true, true⟩ true) :=
  ⟨rfl, rfl, rfl, rfl, rfl, rfl, rfl, rfl, rfl, rfl, rfl, rfl, rfl, rfl⟩
theorem test_decode_st_b :
    word .st none [0x4707E017, 0x0006FF03] (.amo g .or 31 16 1 6 ⟨63, true, true⟩ true) ∧
    word .st none [0x475FE018, 0x0006FF03] (.amo h .xor 31 16 1 6 ⟨63, true, true⟩ true) ∧
    word .st none [0x4707E019, 0x0006FF03] (.amo g .swap 31 16 1 6 ⟨63, true, true⟩ true) ∧
    word .st none [0x875FE01A, 0x0006FF03, 0x89ABCDEF] (.amoCas h 31 16 1 6 ⟨63, true, true⟩ true 0x89ABCDEF) ∧
    word .st none [0x48002010, 0x0000FD02] (.wake g 16 1 63 true) :=
  ⟨rfl, rfl, rfl, rfl, rfl⟩
theorem test_decode_cp_a :
    word .cp none [0x415FE000, 0x00FF6000] (.cpy h 31 16 255 true .skew) ∧
    word .cp none [0x4207E000, 0x003F7001] (.cpt g true 31 16 63 true .brev) ∧
    word .cp none [0x825FE010, 0x00035000, 0x416F0911] (.cptFollow h false 31 16 3 true .xor 1 ⟨⟨6, true⟩, false, 7, 9, .i8, .i8⟩) ∧
    word .cp none [0x4307E000, 0x00FF0003] (.cpn g .w 31 16 255) ∧
    word .cp none [0x845FE010, 0xFE000000, 0x89ABCDEF] (.stg h 31 16 1 ⟨63, true, false⟩ 0x89ABCDEF) ∧
    word .cp none [0x8507E010, 0xFD000000, 0x89ABCDEF] (.stp g 31 16 1 ⟨63, false, true⟩ 0x89ABCDEF) ∧
    word .cp none [0x465FC000, 0x000F021F] (.acp h true true 7 31 16 15) ∧
    word .cp none [0x4707FC00, 0xFC000100] (.cav g .fadd 511 256 63) ∧
    word .cp none [0x475FFC00, 0xFC100100] (.cav h .fmul 511 256 63) ∧
    word .cp none [0x4707FC00, 0xFC200100] (.cav g .fmax 511 256 63) ∧
    word .cp none [0x475FFC00, 0xFC300100] (.cav h .fmin 511 256 63) ∧
    word .cp none [0x4707FC00, 0xFC400100] (.cav g .maxi 511 256 63) ∧
    word .cp none [0x475FFC00, 0xFC500100] (.cav h .mini 511 256 63) ∧
    word .cp none [0x4707FC00, 0xFC600100] (.cav g .iadd 511 256 63) :=
  ⟨rfl, rfl, rfl, rfl, rfl, rfl, rfl, rfl, rfl, rfl, rfl, rfl, rfl, rfl⟩
theorem test_decode_cp_b :
    word .cp none [0x475FFC00, 0xFC700100] (.cav h .and 511 256 63) ∧
    word .cp none [0x4707FC00, 0xFC800100] (.cav g .or 511 256 63) ∧
    word .cp none [0x475FFC00, 0xFC900100] (.cav h .xor 511 256 63) ∧
    word .cp none [0x4807FC00, 0xFC900100] (.ard g .xor 511 256 63) ∧
    word .cp none [0x495FFC01, 0xFC600100] (.scn h true .iadd 511 256 63) ∧
    word .cp none [0x4A07FDF0, 0xFC000100] (.bcs g 511 256 31 63) ∧
    word .cp none [0x4B5FC000, 0xFD000000] (.crdy h 31 63 true) ∧
    word .cp none [0x4C07C000, 0x00FF0000] (.cpz g 31 255) :=
  ⟨rfl, rfl, rfl, rfl, rfl, rfl, rfl, rfl⟩

/-! ## Verdicts of R284 -/

/-- What decode says stops a bundle, its words filled up with zeros. -/
def verdict (c : Dec.Stream) (ws : List W32) : Option Dec.DecFault := (Dec.bundle c (ws ++ List.replicate (16 - ws.length) 0)).trap
theorem test_verdict_wide_movi : verdict .task [0xA0000201, 0x96004000, 0, 1] = none ∧
    verdict .task [0xA0000203, 0x96004000, 0, 1] = some ⟨4, 1, 255⟩ ∧ verdict .task [0xA0000001, 0x96004000, 0, 1] = some ⟨4, 4, 255⟩ ∧
    verdict .task [0xA0000201, 0x96004000, 0, 1, 1] = some ⟨4, 3, 255⟩ := ⟨rfl, rfl, rfl, rfl⟩
theorem test_verdict_successor : verdict .task [0xA0000080, 0x8C000000] = some ⟨4, 4, 255⟩ ∧
    verdict .task [0xA0008040, 0x84000000, 0, 0] = none := ⟨rfl, rfl⟩
theorem test_verdict_prefixes : verdict .task [0xA0000001, 0xC0000001, 0xC4000004, 0x1B000000] = some ⟨5, 2, 255⟩ ∧
    verdict .task [0xA0000001, 0xC0000001, 0] = some ⟨6, 4, 0⟩ ∧ verdict .task [0xA0000001, 0xC0000006, 0x1B000000] = some ⟨6, 2, 0⟩ ∧
    verdict .task [0xA0000001, 0xC0000005, 0x1B000000] = some ⟨6, 2, 0⟩ ∧ verdict .task [0xA0000001, 0x3F080000] = some ⟨6, 1, 0⟩ :=
  ⟨rfl, rfl, rfl, rfl, rfl⟩
theorem test_verdict_lowest_slot : (Dec.bundle .task ([0xA0000024, 0x7F000000, 0, 0x41000001, 0] ++ List.replicate 11 0)).deferred = [⟨6, 2, 5⟩] ∧
    verdict .task [0xA0000024, 0x7F000000, 0, 0x41000001, 0] = some ⟨6, 1, 2⟩ := ⟨rfl, rfl⟩
theorem test_verdict_lanes : verdict .task [0xA0000006, 0x44020000, 0x04040300, 0x41008000, 0] = some ⟨4, 6, 255⟩ := rfl
theorem test_verdict_contexts : verdict .fw [0xA0000010, 0x41000000, 0] = some ⟨4, 8, 255⟩ ∧ verdict .core [0xA0000010, 0x41000000, 0] = some ⟨4, 5, 255⟩ ∧
    verdict .task [0xA0010001, 0] = some ⟨4, 7, 255⟩ := ⟨rfl, rfl, rfl⟩

/-! ## Ill-formed instructions -/

/-- A whole row, no mask. -/
def vc : VCtl := ⟨⟨.w1024, 0⟩, .none⟩
/-- A range that no row has. -/
def vx : VCtl := ⟨⟨.w1024, 1⟩, .none⟩
/-- The check refuses an instruction. -/
abbrev ill (i : Instr) : Prop := i.wf = false
theorem test_ill_formed_scalar : ill (.ext g none 1 2 false 63 1) ∧ ill (.ins g none 1 2 31 33) ∧ ill (.fop g (.mod ⟨false, .none, .rsr⟩) .fadd 1 2 3) ∧
    ill (.fma g (.mod ⟨false, .none, .rsr⟩) .fma 1 2 3) ∧ ill (.fcmp g (.mod ⟨false, .none, .rsr⟩) .eq 1 2 3) ∧
    ill (.fcvt g (.mod ⟨false, .none, .rsr⟩) .itof 1 2) ∧ ill (.rds g 1 0x003) ∧ ill (.wrs g 0x103 1) ∧ ill (.stf g .frec 1 2 0) :=
  ⟨rfl, rfl, rfl, rfl, rfl, rfl, rfl, rfl, rfl⟩
theorem test_ill_formed_vector : ill (.vadd g .none vx 1 2 3) ∧ ill (.vsel g none ⟨.w512, 2⟩ 1 2 3 4) ∧ ill (.vun g none vc .abs 1 2 3) ∧
    ill (.vshuf g none vc .dilv 1 2 3) ∧ ill (.vcvt g .none vc .raw 0 1 2) ∧ ill (.vqnt g .none vc .fp32 0 0 1 2) ∧
    ill (.vqnt g .none vc .d2 0 125 1 2) ∧ ill (.vdq g .none vc .d2 0 0 1 2) ∧ ill (.vdq g .none vc .fp32 0 125 1 2) ∧ ill (.viota g vc .scl 1 0) :=
  ⟨rfl, rfl, rfl, rfl, rfl, rfl, rfl, rfl, rfl, rfl⟩
theorem test_ill_formed_matrix : ill (.mma g true 0 0 .i8 .bf16) ∧ ill (.mmas g true 0 0 .i8 .i8 0 0) ∧ ill (.mzero g 0 true 31 1) ∧
    ill (.amv g (some ⟨false, .none, .rsr⟩) 0 .fp32 0 0 0) ∧ ill (.amv g none 0 .d2 0 0 3) ∧ ill (.amvt g none 0 .bf16 0 0 2) ∧
    ill (.amv g none 0 .fp32 0 0 4) ∧ ill (.ald g 0 true 0 16 16) ∧ ill (.aadd g 0 true 0 31 31) :=
  ⟨rfl, rfl, rfl, rfl, rfl, rfl, rfl, rfl, rfl⟩
theorem test_ill_formed_memory : ill (.ld g ⟨.w1024, 3⟩ .fp32 0 0 0) ∧ ill (.ldt g ⟨.w1024, 0⟩ .i8 0 0 0) ∧ ill (.ldg g 0 0 0 5 ⟨0, false, false⟩ .b) ∧
    ill (.gst g 0 0 0 0 ⟨0, false, false⟩ .b) ∧ ill (.amo g .add 0 0 0 5 ⟨0, false, false⟩ false) ∧ ill (.amo g .fadd 0 0 0 6 ⟨0, false, false⟩ true) ∧
    ill (.amoCas g 0 0 0 5 ⟨0, false, false⟩ false 0) ∧ ill (.send g 0 0 0 true) := ⟨rfl, rfl, rfl, rfl, rfl, rfl, rfl, rfl⟩
theorem test_ill_formed_copies : ill (.cpy g 0 0 2 true .brev) ∧ ill (.cpt g true 0 0 3 false .xor) ∧ ill (.cpt g true 0 0 2 true .brev) ∧
    ill (.cptFollow g true 0 0 0 false .lin 0 ⟨g, true, 0, 0, .i8, .i8⟩) ∧ ill (.acp g false true 0 0 0 0) ∧ ill (.acp g true true 0 0 16 16) :=
  ⟨rfl, rfl, rfl, rfl, rfl, rfl⟩
theorem test_well_formed : (Instr.ext g none 1 2 false 63 0).wf = true ∧ (Instr.amv g none 0 .bf16 0 24 7).wf = true ∧
    (Instr.cptFollow g true 0 0 0 false .lin 0 ⟨g, true, 0, 0, .e4m3, .d2⟩).wf = true := ⟨rfl, rfl, rfl⟩

/-! ## One step each -/

/-- The last result an instruction leaves in flight: its register, its format, its latency and its value. -/
def last (i : Instr) (s : State) : Option (Nat × Fmt × Nat × Nat) :=
  match exec i s with
  | .next t => (t.tile 0).task.latches.getLast?.map fun l => (l.dest, l.fmt, l.due - l.issued, l.val.toNat)
  | _ => none
/-- Two integers in s1 and s2. -/
def ints (a b : W64) : State := withS [(1, ⟨a, .i32, false⟩), (2, ⟨b, .raw, false⟩)]
/-- Two floats in s1 and s2. -/
def floats (a b : W64) : State := withS [(1, ⟨a, .fp32, false⟩), (2, ⟨b, .fp32, false⟩)]
/-- Rows v1 and v2. -/
def rows (f : Fmt) (a b : Row) : State := mach pen { one with rows := [(1, ⟨a, f, false⟩), (2, ⟨b, f, false⟩)] }

theorem test_add_wraps : last (.add g none 5 1 2) (ints (-1) 1) = some (5, .i32, 1, 0) := rfl
theorem test_mulh_signs : last (.mulh g none false 5 1 2) (ints (-1) (-1)) = some (5, .i32, 3, 0) ∧
    last (.mulh g none true 5 1 2) (ints (-1) (-1)) = some (5, .i32, 3, 0xFFFFFFFFFFFFFFFE) := ⟨rfl, rfl⟩
theorem test_div_remainder_sign : last (.div g none .r 5 1 2) (ints (-7) 2) = some (5, .i32, 18, 2 ^ 64 - 1) ∧
    last (.div g none .qu 5 1 2) (ints 7 0) = some (5, .i32, 18, 2 ^ 64 - 1) := ⟨rfl, rfl⟩
theorem test_rot_right : last (.rot g none true 5 1 2) (ints 1 65) = some (5, .i32, 1, 2 ^ 63) := rfl
theorem test_ext_sign : last (.ext g none 5 1 true 7 8) (ints 0x8000 0) = some (5, .i32, 1, 2 ^ 64 - 128) := rfl
theorem test_cmp_signed : last (.cmp g none .lt 5 1 2) (ints (-1) 1) = some (5, .raw, 1, 1) ∧
    last (.cmp g none .ltu 5 1 2) (ints (-1) 1) = some (5, .raw, 1, 0) := ⟨rfl, rfl⟩
theorem test_fop_rounds_up : last (.fop g (.mod ⟨false, .none, .rup⟩) .fadd 5 1 2) (floats 0x3F800000 1) = some (5, .fp32, 4, 0x3F800001) ∧
    last (.fop g .none .fadd 5 1 2) (floats 0x3F800000 1) = some (5, .fp32, 4, 0x3F800000) := ⟨rfl, rfl⟩
theorem test_fcvt_clamps : last (.fcvt g .none .ftou 5 1) (floats 0xBF800000 0) = some (5, .i32, 4, 0) := rfl
theorem test_ldb_bumps : (match exec (.ldb g 1 2 .d 3) (ints 0 0x100) with
    | .next t => (t.tile 0).task.latches.any fun l => l.kind == .scalar && l.dest == 2 && l.val.toNat == 0x118
    | _ => false) = true := rfl
theorem test_waitc_too_late : (match exec (.waitc g 1) (ints 0 0) with
    | .next t => (t.tile 0).raise.isSome && (t.tile 0).task.hold == none
    | _ => false) = true := rfl
/-- The 16-bit lane n of a row. -/
def lane16 (v n : Nat) : Nat := v / 2 ^ (16 * n) % 2 ^ 16
theorem test_viadd_lanes : ((last (.viadd g .none ⟨⟨.w256, 0⟩, .none⟩ false 5 1 2) (rows .i16 0x0001FFFF 0x00020001)).map fun r => r.2.2.2 % 2 ^ 32) =
    some 0x00030000 := rfl
theorem test_vshuf_interleaves : ((last (.vshuf g none ⟨⟨.w256, 0⟩, .none⟩ (.ilv false) 5 1 2) (rows .i16 0x00020001 0x00040003)).map fun r => r.2.2.2 % 2 ^ 64) =
    some 0x0004000200030001 := rfl
/-- R340's example: 3.0, -7.5, 100.0, 0.1, -224.0 and zeros in v1. -/
def sample : Row := 0xC3600000#1024 <<< 128 ||| 0x3DCCCCCD#1024 <<< 96 ||| 0x42C80000#1024 <<< 64 ||| 0xC0F00000#1024 <<< 32 ||| 0x40400000#1024
theorem test_vqnt_example : (match exec (.vqnt g .none ⟨⟨.w512, 0⟩, .none⟩ .e4m3 0 0 20 1) (rows .fp32 sample 0) with
    | .next t => (t.tile 0).task.latches.map fun l => (l.dest, l.fmt, l.val.toNat % 2 ^ 40)
    | _ => []) = [(20, .e4m3, 0xFE2574D74C), (21, .scl, 0x7E)] := by decide

end Sys2Proof.Tests
end

section
/-! PROOFS. CHK, whole (R320, R183). -/

namespace Sys2Proof.Dec

/-- R283 step 8: a slot whose opcode, length and prefix pass, but whose fields give no instruction, traps 0x06, subcode 2. -/
theorem slotInstr_reserved {c s l op g b pre w2 w3 r x} (hr : opRow c s op.toNat b = some r)
    (hl : lenOk s r op.toNat l.toNat b = true) (hk : kindOk r pre = true) (hx : prefixOfWord pre = some x)
    (hf : fields c s op.toNat l.toNat g x b w2 w3 = none) : slotInstr c s pre (head l op g b) w2 w3 = .error 2 := by
  simp [slotInstr, hr, hl, hk, hx, hf]

/-- R320: only the forms 0 to 3 of CHK exist. -/
theorem fields_chk_reserved {c l g x b w2 w3} (h : 3 < (sa3_fn b).toNat) :
    fields c .sy 0x0A l g x b w2 w3 = none := by
  have hne (n : Nat) (hn : n ≤ 3) : (sa3_fn b == BitVec.ofNat 4 n) = false :=
    beq_eq_false_iff_ne.2 fun e => by
      rw [e, BitVec.toNat_ofNat] at h
      omega
  have h0 := hne 0 (by decide)
  have h1 := hne 1 (by decide)
  have h2 := hne 2 (by decide)
  have h3 := hne 3 (by decide)
  simp only [fields, fieldsSY, h0, h1, h2, h3, ck, Bool.false_and, Bool.false_eq_true, if_false]

end Sys2Proof.Dec

namespace Sys2Proof.Machine

/-- R320: a slot that acts and only checks its operands for poison is performed when they are clean, and traps 0x03,
subcode 1, when they are not. -/
theorem slot_poisonCheck {s : State} {g : Guard} (hg : Acts s g) (poi : State → Bool) :
    (.next (s.slot g [] fun _ s => do need (!poi s) 3 1; return s) : Out) =
      if poi s then .next (s.raise 3 1 s.cur.slot) else .next s.performed := by
  cases hp : poi s with
  | true => exact congrArg _ (slot_error hg (f := (3, 1)) (by rw [hp]; rfl))
  | false => exact congrArg _ (slot_ok hg (by rw [hp]; rfl))

/-- R320, R183: a slot that acts and checks a row traps 0x07, subcode 5, when the row is not granted, and only then looks
at its poison. -/
theorem exec_chkV {s : State} {g : Guard} (hg : Acts s g) (v : R9) :
    exec (.chkV g v) s =
      if s.rowOk v.toNat = false then .next (s.raise 7 5 s.cur.slot)
      else if (rreg s v).poi then .next (s.raise 3 1 s.cur.slot) else .next s.performed := by
  change Host.Outcome.next (s.slot g [] _) = _
  unfold rreg
  cases hr : s.rowOk v.toNat with
  | false => exact congrArg _ (slot_error hg (f := (7, 5)) (by simp only [hr]; rfl))
  | true =>
    cases hp : ((s.tile s.myKey).readV v.toNat).poi with
    | true => exact congrArg _ (slot_error hg (f := (3, 1)) (by simp only [hr, hp]; rfl))
    | false => exact congrArg _ (slot_ok hg (by simp only [hr, hp]; rfl))

/-- R320: each form of CHK has the word the spec lays out, and a form number above 3 is no instruction. -/
theorem checkWords : Stated.CheckWords := by
  intro s g a b pa pb v ba bb body
  refine ⟨rfl, rfl, rfl, rfl, fun hfn => ?_, rfl, rfl⟩
  exact Dec.slotInstr_reserved (x := .none) rfl rfl rfl rfl (Dec.fields_chk_reserved hfn)

/-- R320, R183: what each form of CHK does. -/
theorem checksOfPoison : Stated.ChecksOfPoison := by
  intro s g a b pa pb v ba bb hg
  exact ⟨slot_poisonCheck hg fun s => (sreg s a).poi || (sreg s b).poi,
    slot_poisonCheck hg fun s => (preg s pa).poi || (preg s pb).poi,
    slot_poisonCheck hg fun s => (breg s ba).poi || (breg s bb).poi, exec_chkV hg v⟩

/-- Settles O18: the words by the encoder and the decoder of the SY slot, the effects by the slot rule of one check. -/
theorem checks : Obligations.Checks := ⟨checkWords, checksOfPoison⟩

end Sys2Proof.Machine
end

section
/-! PROOFS. The poison bits that a store sets (R376). -/

namespace Sys2Proof.Machine

/-! ## The poison bits of one piece -/

/-- Rewriting a run of keys one by one changes the keys of the run, each from its own old value. -/
theorem sget_foldl_sset {α : Type} [DecidableEq α] (d : α) (m : Sparse α) (k n a : Nat) (f : Nat → α → α) :
    sget d ((List.range n).foldl (fun m i => sset d m (k + i) (f (k + i) (sget d m (k + i)))) m) a =
      if k ≤ a ∧ a < k + n then f a (sget d m a) else sget d m a := by
  induction n with
  | zero => exact (if_neg (by omega)).symm
  | succ n ih =>
    rw [List.range_succ, List.foldl_append, List.foldl_cons, List.foldl_nil, sget_sset]
    by_cases h : a = k + n
    · subst h
      rw [if_pos rfl, if_pos (by omega), ih, if_neg (by omega)]
    · have hrun : (k ≤ a ∧ a < k + (n + 1)) ↔ (k ≤ a ∧ a < k + n) := by omega
      rw [if_neg h, ih]
      simp only [hrun]

/-- R376: a piece covers all 16 bytes of word w. -/
def PendRead.covers (r : PendRead) (w : Nat) : Bool := decide (r.addr ≤ 16 * w ∧ 16 * w + 16 ≤ r.addr + r.n)
/-- R376: a piece has a byte in word w. -/
def PendRead.touches (r : PendRead) (w : Nat) : Bool := decide (r.addr < 16 * w + 16 ∧ 16 * w < r.addr + r.n)

theorem PendRead.touches_of_covers {r : PendRead} {w : Nat} (h : r.covers w = true) : r.touches w = true := by
  simp only [PendRead.touches, PendRead.covers, decide_eq_true_eq] at h ⊢
  omega

/-- R376: the poison bit of a word after one write: the data's where it covers the word, the data's ORed in where it covers
a part, the old one elsewhere. -/
theorem sget_poisonWrite (m : Sparse Bool) (r : PendRead) (hn : 0 < r.n) (p : Bool) (w : Nat) :
    sget false (poisonWrite m r.addr r.n p) w = if r.covers w then p else (sget false m w || (r.touches w && p)) := by
  have hrun : (r.addr / 16 ≤ w ∧ w < r.addr / 16 + ((r.addr + r.n - 1) / 16 - r.addr / 16 + 1)) ↔ r.touches w = true := by
    simp only [PendRead.touches, decide_eq_true_eq]
    omega
  rw [poisonWrite, if_neg (by omega)]
  refine (sget_foldl_sset false m (r.addr / 16) _ w fun w o =>
    p || (!decide (r.addr ≤ 16 * w ∧ 16 * w + 16 ≤ r.addr + r.n) && o)).trans ?_
  simp only [hrun]
  change (if r.touches w = true then p || (!r.covers w && sget false m w) else sget false m w) = _
  cases hc : r.covers w
  · cases r.touches w <;> simp [Bool.or_comm]
  · simp [PendRead.touches_of_covers hc]

theorem pieceBytes_length (v : Row) (r : PendRead) : (pieceBytes v r).length = r.n := by
  simp [pieceBytes]

/-! ## The poison bits of a whole store -/

theorem any_covers_iff (rs : List PendRead) (w : Nat) :
    rs.any (·.covers w) = true ↔ ∃ r ∈ rs, r.addr ≤ 16 * w ∧ 16 * w + 16 ≤ r.addr + r.n := by
  simp [PendRead.covers]
theorem any_touches_iff (rs : List PendRead) (w : Nat) :
    rs.any (·.touches w) = true ↔ ∃ r ∈ rs, r.addr < 16 * w + 16 ∧ 16 * w < r.addr + r.n := by
  simp [PendRead.touches]

/-- R376: the poison bit of a word once a store's pieces are written. -/
theorem spoi_writePieces (rs : List PendRead) (hn : ∀ r ∈ rs, 0 < r.n) (t : Tile) (v : Row) (p : Bool) (w : Nat) :
    sget false (rs.foldl (fun t r => t.writeSram r.addr (pieceBytes v r) p) t).spoi w =
      if rs.any (·.covers w) then p else (sget false t.spoi w || (rs.any (·.touches w) && p)) := by
  induction rs generalizing t with
  | nil => simp
  | cons r rs ih =>
    have hr : sget false (t.writeSram r.addr (pieceBytes v r) p).spoi w =
        if r.covers w then p else (sget false t.spoi w || (r.touches w && p)) := by
      simp only [Tile.writeSram, pieceBytes_length]
      exact sget_poisonWrite t.spoi r (hn r List.mem_cons_self) p w
    rw [List.foldl_cons, ih (fun q hq => hn q (List.mem_cons_of_mem _ hq)), hr, List.any_cons, List.any_cons]
    cases rs.any (·.covers w)
    · cases r.covers w
      · simp [Bool.or_assoc, Bool.and_or_distrib_right]
      · cases p <;> simp
    · simp

/-- R376: the poison bit of a word once a store lands. -/
theorem spoi_landStore (s : State) (x y : Nat) {l : Latch} (hk : l.kind = .sram) (hn : ∀ r ∈ l.reads, 0 < r.n) (w : Nat) :
    sget false ((s.landAt (.task x y) l).tile (tileKey x y)).spoi w =
      if l.reads.any (·.covers w) then l.poi
      else (sget false (s.tile (tileKey x y)).spoi w || (l.reads.any (·.touches w) && l.poi)) := by
  simp only [State.landAt, hk, whoKey, tile_modTile_same]
  exact spoi_writePieces l.reads hn _ l.val l.poi w

/-! ## What a store puts in flight -/

/-- The state with a tile whose contexts are as before has its contexts as before. -/
theorem ctxAt_setTile_of_eq (s : State) {k : Nat} {t : Tile} (w : Who) (ht : t.task = (s.tile k).task)
    (hf : t.fw = (s.tile k).fw) : (s.setTile k t).ctxAt w = s.ctxAt w := by
  cases w with
  | task x y =>
    by_cases h : tileKey x y = k
    · subst h; simp [State.ctxAt, ht]
    · simp [State.ctxAt, tile_setTile_other s t h]
  | fw x y =>
    by_cases h : tileKey x y = k
    · subst h; simp [State.ctxAt, hf]
    · simp [State.ctxAt, tile_setTile_other s t h]
  | core i k => rfl

/-- An update of a tile that leaves its contexts leaves every context. -/
theorem ctxAt_modTile_of_eq (s : State) {k : Nat} {f : Tile → Tile} (w : Who) (ht : (f (s.tile k)).task = (s.tile k).task)
    (hf : (f (s.tile k)).fw = (s.tile k).fw) : (s.modTile k f).ctxAt w = s.ctxAt w :=
  ctxAt_setTile_of_eq s w ht hf

@[simp] theorem listFault_task (t : Tile) (f : DefFault) : (t.listFault f).task = t.task := by
  unfold Tile.listFault; split <;> rfl
@[simp] theorem listFault_fw (t : Tile) (f : DefFault) : (t.listFault f).fw = t.fw := by
  unfold Tile.listFault; split <;> rfl

/-- R158: the trap of a tile leaves every context as it was until F. -/
theorem raiseTask_ctxAt (s : State) (k cause sub slot bundle : Nat) (mask : Byte) (post : Bool) (w : Who) :
    (s.raiseTask k cause sub slot bundle mask post).ctxAt w = s.ctxAt w := by
  have listed (f : DefFault) : (s.setTile k ((s.tile k).listFault f)).ctxAt w = s.ctxAt w :=
    ctxAt_setTile_of_eq s w (by simp) (by simp)
  have raised (f : DefFault) (r : Option Raise) :
      (s.setTile k { (s.tile k).listFault f with raise := r }).ctxAt w = s.ctxAt w :=
    ctxAt_setTile_of_eq s w (by simp) (by simp)
  simp only [State.raiseTask]
  split
  · exact listed _
  · split
    · exact listed _
    · split
      · split
        · exact (modPartOf_ctxAt ..).trans (raised _ _)
        · split
          · exact (modPartOf_ctxAt ..).trans (raised _ _)
          · exact listed _
      · exact listed _

@[simp] theorem Ctx.stop_latches (c : Ctx) (gcyc cause sub : Nat) : (c.stop gcyc cause sub).latches = c.latches := by
  unfold Ctx.stop
  split <;> rfl

/-- The firmware-fault events are no part of a context. -/
theorem ctxAt_fwFaults (s : State) (fs : List FwFault) (w : Who) : ({ s with fwFaults := fs } : State).ctxAt w = s.ctxAt w := by
  cases w <;> rfl

/-- R274: a context that stops keeps its results in flight. -/
theorem stopCtx_latches (s : State) (w : Who) (cause sub : Nat) :
    ((s.stopCtx w cause sub).ctxAt w).latches = (s.ctxAt w).latches := by
  unfold State.stopCtx
  split
  · rw [ctxAt_fwFaults, ctxAt_setCtxAt_same, Ctx.stop_latches]
  · rfl

/-- A trap of the slot being performed puts nothing in flight. -/
theorem raise_latches (s : State) (cause sub slot : Nat) :
    ((s.raise cause sub slot).ctxAt s.cur.who).latches = (s.ctxAt s.cur.who).latches := by
  unfold State.raise
  cases s.cur.who with
  | task x y => exact congrArg _ (raiseTask_ctxAt ..)
  | fw x y => exact stopCtx_latches ..
  | core i k => exact stopCtx_latches ..

/-- Counting a slot as performed puts nothing in flight: it changes masks, the context's and that of its tile's raise (R164). -/
theorem performed_latches (s : State) : (s.performed.ctxAt s.cur.who).latches = (s.ctxAt s.cur.who).latches := by
  have hmod (f : Ctx → Ctx) (hf : (f s.ctx).latches = s.ctx.latches) :
      ((s.modCtx f).ctxAt s.cur.who).latches = (s.ctxAt s.cur.who).latches :=
    (congrArg _ (ctxAt_setCtxAt_same ..)).trans hf
  simp only [State.performed, modCtx_cur]
  split
  · rw [ctxAt_modTile_of_eq]
    · exact hmod _ rfl
    · grind
    · grind
  · exact hmod _ rfl
  · exact hmod _ rfl

/-- R376: an outcome of a slot's checks that, where they pass, puts one store of the poison p in flight. -/
def Stores (s : State) (p : Bool) (x : Try State) : Prop :=
  ∀ t, x = .ok t → ∃ lag val ps, t = s.pushStore p lag val ps

/-- A check before a store puts nothing in flight of its own. -/
theorem Stores.bind {α : Type} {s : State} {p : Bool} {x : Try α} {f : α → Try State} (h : ∀ a, Stores s p (f a)) :
    Stores s p (x >>= f) := by
  intro t ht
  cases x with
  | error e => cases ht
  | ok a => exact h a t ht

theorem stores_storeTo {s : State} {p al : Bool} {val : Row} {ps : List PendRead} : Stores s p (s.storeTo p al val ps) :=
  .bind fun lag _ h => ⟨lag, val, ps, (Except.ok.inj h).symm⟩

/-- What t has in flight beyond s, in the stream being performed, is a store of poison p (R376). -/
def NewLatchesStore (s t : State) (p : Bool) : Prop :=
  ∀ l ∈ (t.ctxAt s.cur.who).latches, l ∉ (s.ctxAt s.cur.who).latches → l.kind = .sram ∧ l.poi = p

/-- R376: a slot whose checks let through one store puts nothing else in flight, trapping or not. -/
theorem slot_stores {s t : State} {g : Guard} {p : Bool} {act : Bool → State → Try State}
    (h : Stores s p (act (gpoi s g) s)) (ht : (.next (s.slot g [] act) : Out) = .next t) : NewLatchesStore s t p := by
  intro l hl hnew
  cases ht
  rcases slot_cases s g [] act with hs | ⟨u, hu, hs⟩ | ⟨f, -, hs⟩
  · rw [hs] at hl
    exact absurd hl hnew
  · obtain ⟨lag, val, ps, rfl⟩ := h u hu
    have hcur : (s.pushStore p lag val ps).cur = s.cur := push_cur ..
    have hctx : (s.pushStore p lag val ps).ctxAt s.cur.who = _ := ctxAt_setCtxAt_same ..
    rw [hs, ← hcur, performed_latches, hcur, hctx, Ctx.push_latches, List.mem_append, List.mem_singleton] at hl
    rcases hl with hl | rfl
    · exact absurd hl hnew
    · exact ⟨rfl, rfl⟩
  · rw [hs] at hl
    exact absurd ((raise_latches s f.1 f.2 s.cur.slot) ▸ hl) hnew

/-- R375: what an ST or STT puts in flight bears the poison of its row and of its guard. -/
theorem storeRow_stores {s t : State} {g : Guard} {r : VRange} {tag : Option Fmt} {b : R5} {v : R9} {o : BitVec 23}
    (ht : (.next (s.storeRow g r tag b v o) : Out) = .next t) : NewLatchesStore s t ((rreg s v).poi || gpoi s g) :=
  slot_stores (.bind fun _ => .bind fun _ => .bind fun _ => .bind fun _ => stores_storeTo) ht

/-- R379: what an SCT puts in flight bears the poison of its row and of its guard. -/
theorem sct_stores {s t : State} {g : Guard} {r : VRange} {b : R5} {v : R9} {o : BitVec 23}
    (ht : exec (.sct g r b v o) s = .next t) : NewLatchesStore s t ((rreg s v).poi || gpoi s g) :=
  slot_stores (.bind fun _ => .bind fun _ => .bind fun _ => .bind fun _ => .bind fun _ => .bind fun _ => stores_storeTo) ht

/-- R380: what an STW puts in flight bears the poison of its scalar and of its guard. -/
theorem storeScalar_stores {s t : State} {g : Guard} {d a : R5} {sz : Size} {o : W64}
    (ht : (.next (s.storeScalar g d a sz o) : Out) = .next t) : NewLatchesStore s t ((sreg s d).poi || gpoi s g) :=
  slot_stores (.bind fun _ => .bind fun _ => stores_storeTo) ht

/-! ## R376 -/

/-- Settles O32: what a store puts in flight by the inversion of its slot, and the poison bits it sets by the formula for one
piece, folded over the pieces. -/
theorem storesSetPoison : Obligations.StoresSetPoison := by
  constructor
  · intro s t g r f b d v o23 o6 o32 sz i p hg hi ht
    change NewLatchesStore s t p
    rw [← Bool.or_false p, ← hg]
    simp only [List.mem_cons, Prod.mk.injEq, List.not_mem_nil, or_false] at hi
    obtain ⟨rfl, rfl⟩ | ⟨rfl, rfl⟩ | ⟨rfl, rfl⟩ | ⟨rfl, rfl⟩ | ⟨rfl, rfl⟩ := hi
    · exact storeRow_stores ht
    · exact storeRow_stores ht
    · exact sct_stores ht
    · exact storeScalar_stores ht
    · exact storeScalar_stores ht
  · intro s x y w l hk hl old new whole touched
    have hnew := spoi_landStore s x y hk (fun r hr => (hl r hr).1) w
    change new = if _ then l.poi else (old || _) at hnew
    have hw : l.reads.any (·.covers w) = true ↔ whole := any_covers_iff l.reads w
    have htd : l.reads.any (·.touches w) = true ↔ touched := any_touches_iff l.reads w
    have hwt : whole → touched := fun ⟨r, hr, hc⟩ => ⟨r, hr, by omega⟩
    refine ⟨fun h => ?_, fun h1 h2 => ?_, fun h => ?_, fun h1 h2 => ?_⟩
    · rw [hnew, if_pos (hw.2 h)]
    · rw [hnew, if_neg (mt hw.1 h1), htd.2 h2, Bool.true_and]
    · rw [hnew, if_neg (mt hw.1 (mt hwt h)), eq_false_of_ne_true (mt htd.1 h), Bool.false_and, Bool.or_false]
    · rw [hnew] at h2
      split at h2
      · next hc => exact ⟨hw.1 hc, h2⟩
      · rw [h1] at h2
        cases h2

end Sys2Proof.Machine
end
